-- ==== Sys2Proof/Word.lean ====
section
/-! DEFINITION. The index types, the byte and the plain tables of the Zaltig 316 model. -/

namespace Sys2Proof

/-- One byte of a frame (R161). -/
abbrev Byte := BitVec 8

/-- A port number, 0 to 2 (00_scope 6.3). -/
abbrev Port := Fin 3

/-- A slot number of the schedule, 0 to 63 (R23). -/
abbrev SlotIx := Fin 64

/-- A trigger line number, 0 to 15 (00_scope 6.3). -/
abbrev LineIx := Fin 16

/-- A capture input number, 0 to 3 (00_scope 6.3). -/
abbrev InputIx := Fin 4

/-- A set of ports: bit p stands for port p (R191). -/
abbrev PortSet := BitVec 3

/-- A set of capture inputs: bit i stands for input i (R191). -/
abbrev InputSet := BitVec 4

/-- The largest value of Now, 2^48 - 1 (R2). -/
abbrev maxNow : Nat := 281474976710655

/-- A fixed number of numbered places (00_scope 6.4, "table"). -/
structure Table (n : Nat) (α : Type) where
  cells : List α
  size : cells.length = n
deriving DecidableEq, Repr

namespace Table

/-- Every place holds `x`. -/
def fill (n : Nat) {α : Type} (x : α) : Table n α :=
  ⟨List.replicate n x, List.length_replicate⟩

/-- The content of place `i`. -/
def get {n : Nat} {α : Type} (t : Table n α) (i : Fin n) : α :=
  t.cells[i.val]'(Nat.lt_of_lt_of_eq i.isLt t.size.symm)

/-- Place `i` holds `x`, the others are as before. -/
def set {n : Nat} {α : Type} (t : Table n α) (i : Fin n) (x : α) : Table n α :=
  ⟨t.cells.set i x, List.length_set.trans t.size⟩

/-- Place `i` is changed by `f`. -/
def upd {n : Nat} {α : Type} (t : Table n α) (i : Fin n) (f : α → α) : Table n α :=
  t.set i (f (t.get i))

/-- Every place is changed by `f`. -/
def map {n : Nat} {α β : Type} (t : Table n α) (f : α → β) : Table n β :=
  ⟨t.cells.map f, (List.length_map f).trans t.size⟩

/-- Place `i` holds `f i`. -/
def ofFn (n : Nat) {α : Type} (f : Fin n → α) : Table n α :=
  ⟨(List.finRange n).map f, (List.length_map f).trans List.length_finRange⟩

end Table

/-- All places of a table, in ascending order. -/
def indices (n : Nat) : List (Fin n) := List.finRange n

/-- The three ports in ascending order. -/
def allPorts : List Port := indices 3

end Sys2Proof
end

