-- ==== Sys2Proof/Machine/Bytes.lean ====
section
/-! DEFINITION. Byte order, two's complement and the CRC-8 of the frames (R163, R191). -/

namespace Sys2Proof.Machine

/-- `v` in `k` bytes, least significant first (R191). -/
def leBytes : Nat → Nat → List Byte
  | 0, _ => []
  | k + 1, v => BitVec.ofNat 8 v :: leBytes k (v / 256)

/-- The number that little-endian bytes spell (R191). -/
def leNat : List Byte → Nat
  | [] => 0
  | b :: bs => b.toNat + 256 * leNat bs

/-- The byte at an offset of a payload. -/
def byteAt (payload : List Byte) (off : Nat) : Byte := payload.getD off 0

/-- The number in `len` bytes at an offset of a payload. -/
def natAt (payload : List Byte) (off len : Nat) : Nat := leNat ((payload.drop off).take len)

/-- A 2-byte number read in two's complement (R191, the rate of a SLEW). -/
def signed16 (n : Nat) : Int := if n < 32768 then (n : Int) else (n : Int) - 65536

/-- A signed number as 2 bytes in two's complement. -/
def leSigned16 (z : Int) : List Byte := leBytes 2 (BitVec.ofInt 16 z).toNat

/-- A number in one byte. -/
def natByte (n : Nat) : Byte := BitVec.ofNat 8 n

/-- yes/no in one byte, 00h no and 01h yes (R191). -/
def boolByte (b : Bool) : Byte := if b then 1 else 0

/-- A yes/no byte read back; none for a byte that names neither. -/
def boolOfByte (b : Byte) : Option Bool :=
  if b = 0 then some false else if b = 1 then some true else none

/-- A port as a byte, FFh when absent (R191). -/
def portByte (p : Option Port) : Byte :=
  match p with
  | some q => natByte q.val
  | none => 0xFF

/-- A set of ports or inputs as a byte (R191). -/
def setByte {n : Nat} (m : BitVec n) : Byte := m.setWidth 8

/-- Whether a set holds a member (00_scope 6.4, R191). -/
def hasBit {n : Nat} (m : BitVec n) (i : Fin n) : Bool := m.getLsbD i.val

/-- A set without a member. -/
def dropBit {n : Nat} (m : BitVec n) (i : Fin n) : BitVec n := m &&& ~~~(BitVec.twoPow n i.val)

/-- The set of the ports that a test selects. -/
def portsWhere (test : Port → Bool) : PortSet :=
  (if test 0 then 1#3 else 0#3) ||| (if test 1 then 2#3 else 0#3) ||| (if test 2 then 4#3 else 0#3)

/-- One bit of the CRC register: shift out the top bit, fold the polynomial 2Fh in (R163). -/
def crcBit (c : Byte) : Byte := if c.msb then (c <<< 1) ^^^ 0x2F#8 else c <<< 1

/-- The CRC register after one more byte, most significant bit first (R163). -/
def crcByte (c b : Byte) : Byte :=
  crcBit (crcBit (crcBit (crcBit (crcBit (crcBit (crcBit (crcBit (c ^^^ b))))))))

/-- The CRC-8 of R163: polynomial 2Fh, initial value FFh, no final inversion. -/
def crc8 (bytes : List Byte) : Byte := bytes.foldl crcByte 0xFF#8

end Sys2Proof.Machine
end

