-- ==== Sys2Proof/Config.lean ====
section
/-! DEFINITION. What an implementation fixes, and the free values: constants with no body, of which nothing can be proved. -/

namespace Sys2Proof

/-- The bytes that MISOp shifts out after the type byte of a POLL or REPEAT that is not taken because
it overlaps a port reset or a full reset (R175, R176): the spec states none. A free value, log 5; the
argument is the counter `freeCount` of the state. -/
opaque Config.freeByte : Nat → Byte

/-- The bound of R69 on the length of a reorder pass, in reference microseconds. -/
def Config.passBound : Nat := 100

end Sys2Proof
end

