-- ==== Sys2Proof/Syntax.lean ====
section
/-! DEFINITION. The commands of the block: one constructor per row of spec/opcode_table.json. -/

namespace Sys2Proof

/-- The cause of a full reset (R178). -/
inductive ResetCause where
  | powerOn
  | pin
deriving DecidableEq, Repr

/-- The direction of an edge on a capture input (R126). -/
inductive Edge where
  | rising
  | falling
deriving DecidableEq, Repr

/-- How a frame comes to a port. The place of its command in the queue is the moment at which the port
takes it (R161); its bytes begin earlier, and may show other status bytes (R166). A frame that overlaps a
reset is not taken (R175, R176), and its place is within that reset (log 13). -/
structure Arrival where
  port : Port
  /-- The j-th number is how many times the port's status byte changed between the beginning of byte j
  and the taking of the frame; a byte past the end of the list began after the last change (log 13). -/
  lags : List Nat
deriving DecidableEq, Repr

/-- The commands. A request carries its arrival at a port, the tag the master chose and the payload
bytes of its good REQUEST frame (R162); the kind code is the constructor (R192). The events of the
part itself and of its pins are commands too: their place in the queue is the moment at which the
part takes them. -/
inductive Instr where
  -- requests: session and notices
  | attach (a : Arrival) (tag : Byte) (payload : List Byte)
  | detach (a : Arrival) (tag : Byte) (payload : List Byte)
  | setAttention (a : Arrival) (tag : Byte) (payload : List Byte)
  -- requests: timebase
  | queryTime (a : Arrival) (tag : Byte) (payload : List Byte)
  | start (a : Arrival) (tag : Byte) (payload : List Byte)
  | stop (a : Arrival) (tag : Byte) (payload : List Byte)
  | step (a : Arrival) (tag : Byte) (payload : List Byte)
  | slew (a : Arrival) (tag : Byte) (payload : List Byte)
  -- requests: schedule
  | entryAdd (a : Arrival) (tag : Byte) (payload : List Byte)
  | entryCancel (a : Arrival) (tag : Byte) (payload : List Byte)
  | entryHold (a : Arrival) (tag : Byte) (payload : List Byte)
  | entryResume (a : Arrival) (tag : Byte) (payload : List Byte)
  | entryQuery (a : Arrival) (tag : Byte) (payload : List Byte)
  | nextQuery (a : Arrival) (tag : Byte) (payload : List Byte)
  | entryList (a : Arrival) (tag : Byte) (payload : List Byte)
  | setQuota (a : Arrival) (tag : Byte) (payload : List Byte)
  | purgePort (a : Arrival) (tag : Byte) (payload : List Byte)
  -- requests: line unit
  | lineQuery (a : Arrival) (tag : Byte) (payload : List Byte)
  | setLinePolicy (a : Arrival) (tag : Byte) (payload : List Byte)
  | forceLine (a : Arrival) (tag : Byte) (payload : List Byte)
  -- requests: authority unit
  | claim (a : Arrival) (tag : Byte) (payload : List Byte)
  | release (a : Arrival) (tag : Byte) (payload : List Byte)
  | renew (a : Arrival) (tag : Byte) (payload : List Byte)
  | queryAuthority (a : Arrival) (tag : Byte) (payload : List Byte)
  | setGrace (a : Arrival) (tag : Byte) (payload : List Byte)
  -- requests: capture unit
  | setCapture (a : Arrival) (tag : Byte) (payload : List Byte)
  | subscribe (a : Arrival) (tag : Byte) (payload : List Byte)
  | readCaptures (a : Arrival) (tag : Byte) (payload : List Byte)
  -- requests: notice queue
  | fetchNotices (a : Arrival) (tag : Byte) (payload : List Byte)
  | ackNotices (a : Arrival) (tag : Byte) (payload : List Byte)
  /-- A good REQUEST whose kind code names no kind (R172). -/
  | badKind (a : Arrival) (tag : Byte) (kind : Byte) (payload : List Byte)
  -- the other frames
  /-- A POLL frame; `clocked` are the bytes the master clocks after the type byte (R162). -/
  | poll (a : Arrival) (clocked : List Byte)
  /-- A REPEAT frame; `clocked` as for a POLL. -/
  | repeatFrame (a : Arrival) (clocked : List Byte)
  /-- A frame that fails a test of R164; `bytes` are its whole bytes. -/
  | faultyFrame (a : Arrival) (bytes : List Byte)
  -- resets
  | portReset (p : Port)
  | fullReset (cause : ResetCause)
  /-- The end of a full reset, with the strap pins RANK1 and RANK0 and the levels of CI0..CI3 (bit i is
  CIi, 1 is HIGH) as they stand then (R100, R126). -/
  | fullResetEnd (rank1 : Bool) (rank0 : Bool) (levels : InputSet)
  -- events
  | referenceMicrosecond
  | referenceMillisecond
  | slewDone
  | leaseExpiry
  | graceExpiry
  | captureEdge (i : InputIx) (edge : Edge)
  | expiry
  | pulseEnd (line : LineIx)
  | passComplete
  | portResetRelease (p : Port)
deriving DecidableEq, Repr

end Sys2Proof
end

