-- ==== Sys2Proof/Machine/Names.lean ====
section
/-! DEFINITION. The named values of the manual: states, policies, statuses, kinds and reasons. -/

namespace Sys2Proof.Machine

/-- Timebase state (R4). -/
inductive TimeState where
  | stopped
  | running
  | stopping
deriving DecidableEq, Repr

/-- How the first due of an entry is set (02, section 2.2). -/
inductive Trigger where
  | absolute
  | offset
  | onCapture
deriving DecidableEq, Repr

/-- Place of a non-free entry in its life (R27); FREE is a slot with no record (R23). -/
inductive EntryState where
  | scheduled
  | waiting
  | held
deriving DecidableEq, Repr

/-- Treatment of a due at a step (R63 to R66). -/
inductive StepPolicy where
  | keep
  | shift
  | drop
deriving DecidableEq, Repr

/-- Treatment of an entry at its owner's detach (R50). -/
inductive OrphanPolicy where
  | continue
  | cancel
deriving DecidableEq, Repr

/-- What a line action does (R80, R81). -/
inductive ActionKind where
  | pulse
  | assert
  | release
  | invert
deriving DecidableEq, Repr

/-- A logical level of a trigger line: its base, its output, the level of a force (R77). -/
inductive Level where
  | deasserted
  | asserted
deriving DecidableEq, Repr

/-- The level of a pin (R78, R126). -/
inductive PinLevel where
  | low
  | high
deriving DecidableEq, Repr

/-- How an output maps to its pin (R78). -/
inductive Polarity where
  | activeHigh
  | activeLow
deriving DecidableEq, Repr

/-- Whether several ports may reference a line (R88, R92). -/
inductive LineMode where
  | shared
  | exclusive
deriving DecidableEq, Repr

/-- State of the authority unit (R102). -/
inductive AuthState where
  | vacant
  | held
  | yielding
deriving DecidableEq, Repr

/-- Which edges of an input are looked for (R127, R129). -/
inductive EdgeSetting where
  | off
  | rising
  | falling
  | both
deriving DecidableEq, Repr

/-- Session state of a port (R177). -/
inductive Session where
  | detached
  | attached
deriving DecidableEq, Repr

/-- Kind of a transport fault (R164, R165); NONE is the absence of one. -/
inductive FrameFault where
  | none
  | crc
  | length
  | truncated
  | unknownType
  | requestWhileBusy
deriving DecidableEq, Repr

/-- The 30 request kinds (R192). -/
inductive Kind where
  | attach | detach | setAttention
  | queryTime | start | stop | step | slew
  | entryAdd | entryCancel | entryHold | entryResume | entryQuery | nextQuery | entryList
  | setQuota | purgePort
  | lineQuery | setLinePolicy | forceLine
  | claim | release | renew | queryAuthority | setGrace
  | setCapture | subscribe | readCaptures
  | fetchNotices | ackNotices
deriving DecidableEq, Repr

/-- The statuses of a response (R174). -/
inductive Status where
  | ok | granted | queued | withdrawn | overtaken
  | retry | busy
  | badKind | badLength | badField | badWidth | badState | badSeq
  | notAttached | alreadyAttached | notAuthority | notOwner | notHolder | alreadyHolder
  | alreadyWaiting | yieldPending | staleHandle
  | quotaExceeded | quotaBelowUse | tableFull | pastDue | timeRange | lineDenied | lineInUse
deriving DecidableEq, Repr

/-- Why an entry was freed without its owner's request (R29). -/
inductive CancelReason where
  | purged
  | step
  | stepRange
  | timeRange
deriving DecidableEq, Repr

/-- Why the holder place changed (R107, R116). -/
inductive AuthReason where
  | claim
  | released
  | leaseExpired
  | preempted
  | detached
deriving DecidableEq, Repr

/-- Why a slew ended (R15). -/
inductive SlewReason where
  | done
  | cancelled
  | superseded
  | stepped
  | timeEnd
deriving DecidableEq, Repr

/-- What a TIMEBASE_STATE notice tells (R148). -/
inductive TimeNews where
  | started
  | stopped
  | timeEnd
deriving DecidableEq, Repr

/-- Why a capture record was dropped (R133). -/
inductive DropReason where
  | logFull
  | sequenceInUse
deriving DecidableEq, Repr

/-- What a detach did to the port's place in the authority unit (R183). -/
inductive DetachAuthority where
  | none
  | released
  | withdrawn
deriving DecidableEq, Repr

/-- The fifteen notice kinds (R148). -/
inductive NoticeKind where
  | fired | entryCancelled | actionDenied | captureTriggered
  | authorityChanged | authorityWanted | yieldDemanded | authorityGranted | authorityLost
  | timeStepped | timebaseState | slewEnded
  | captureAvailable | captureDropped
  | overflow
deriving DecidableEq, Repr

end Sys2Proof.Machine
end

