-- ==== Sys2Proof/Machine/Codes.lean ====
section
/-! DEFINITION. The code tables of R192 and the payload lengths of R193. -/

namespace Sys2Proof.Machine

/-- Kind codes of the requests (R192). -/
def Kind.code : Kind → Byte
  | .attach => 0x10
  | .detach => 0x11
  | .setAttention => 0x12
  | .queryTime => 0x20
  | .start => 0x21
  | .stop => 0x22
  | .step => 0x23
  | .slew => 0x24
  | .entryAdd => 0x30
  | .entryCancel => 0x31
  | .entryHold => 0x32
  | .entryResume => 0x33
  | .entryQuery => 0x34
  | .nextQuery => 0x35
  | .entryList => 0x36
  | .setQuota => 0x37
  | .purgePort => 0x38
  | .lineQuery => 0x40
  | .setLinePolicy => 0x41
  | .forceLine => 0x42
  | .claim => 0x50
  | .release => 0x51
  | .renew => 0x52
  | .queryAuthority => 0x53
  | .setGrace => 0x54
  | .setCapture => 0x60
  | .subscribe => 0x61
  | .readCaptures => 0x62
  | .fetchNotices => 0x70
  | .ackNotices => 0x71

/-- The 30 kinds, in the order of their codes. -/
def allKinds : List Kind :=
  [.attach, .detach, .setAttention, .queryTime, .start, .stop, .step, .slew, .entryAdd,
   .entryCancel, .entryHold, .entryResume, .entryQuery, .nextQuery, .entryList, .setQuota,
   .purgePort, .lineQuery, .setLinePolicy, .forceLine, .claim, .release, .renew,
   .queryAuthority, .setGrace, .setCapture, .subscribe, .readCaptures, .fetchNotices,
   .ackNotices]

/-- The kind a code names, if any (R192). -/
def Kind.ofByte (b : Byte) : Option Kind := allKinds.find? (fun k => k.code == b)

/-- Whether a payload length suits a kind (R172 check 2, R193). -/
def Kind.takesLength (k : Kind) (n : Nat) : Bool :=
  match k with
  | .attach | .detach | .queryTime | .start | .stop | .nextQuery | .release | .queryAuthority => n == 0
  | .setAttention | .entryList | .purgePort | .lineQuery | .setGrace | .subscribe
  | .readCaptures | .fetchNotices => n == 1
  | .entryCancel | .entryHold | .entryResume | .entryQuery | .setQuota | .forceLine | .renew
  | .ackNotices => n == 2
  | .claim => n == 3
  | .slew | .setLinePolicy | .setCapture => n == 4
  | .step => n == 8
  | .entryAdd => n == 22 || n == 27 || n == 32 || n == 37 || n == 42

/-- Whether a detached port may send the kind (R172 check 3). -/
def Kind.takenDetached (k : Kind) : Bool :=
  match k with
  | .attach | .queryTime | .queryAuthority => true
  | .detach | .setAttention | .start | .stop | .step | .slew | .entryAdd | .entryCancel
  | .entryHold | .entryResume | .entryQuery | .nextQuery | .entryList | .setQuota | .purgePort
  | .lineQuery | .setLinePolicy | .forceLine | .claim | .release | .renew | .setGrace
  | .setCapture | .subscribe | .readCaptures | .fetchNotices | .ackNotices => false

/-- Status codes (R192). -/
def Status.code : Status → Byte
  | .ok => 0x00
  | .granted => 0x01
  | .queued => 0x02
  | .withdrawn => 0x03
  | .overtaken => 0x04
  | .retry => 0x10
  | .busy => 0x11
  | .badKind => 0x20
  | .badLength => 0x21
  | .badField => 0x22
  | .badWidth => 0x23
  | .badState => 0x24
  | .badSeq => 0x25
  | .notAttached => 0x30
  | .alreadyAttached => 0x31
  | .notAuthority => 0x32
  | .notOwner => 0x33
  | .notHolder => 0x34
  | .alreadyHolder => 0x35
  | .alreadyWaiting => 0x36
  | .yieldPending => 0x37
  | .staleHandle => 0x38
  | .quotaExceeded => 0x40
  | .quotaBelowUse => 0x41
  | .tableFull => 0x42
  | .pastDue => 0x43
  | .timeRange => 0x44
  | .lineDenied => 0x45
  | .lineInUse => 0x46

/-- The statuses whose response may carry a payload (R174). -/
def Status.carriesPayload : Status → Bool
  | .ok | .granted | .queued | .withdrawn | .overtaken => true
  | .retry | .busy | .badKind | .badLength | .badField | .badWidth | .badState | .badSeq
  | .notAttached | .alreadyAttached | .notAuthority | .notOwner | .notHolder | .alreadyHolder
  | .alreadyWaiting | .yieldPending | .staleHandle | .quotaExceeded | .quotaBelowUse
  | .tableFull | .pastDue | .timeRange | .lineDenied | .lineInUse => false

/-- Frame fault codes of an IDLE frame (R189). -/
def FrameFault.code : FrameFault → Byte
  | .none => 0x00
  | .crc => 0x01
  | .length => 0x02
  | .truncated => 0x03
  | .unknownType => 0x04
  | .requestWhileBusy => 0x05

/-- trigger codes (R192). -/
def Trigger.code : Trigger → Byte
  | .absolute => 0
  | .offset => 1
  | .onCapture => 2

/-- trigger named by a byte. -/
def Trigger.ofByte (b : Byte) : Option Trigger :=
  if b = 0 then some .absolute else if b = 1 then some .offset
  else if b = 2 then some .onCapture else none

/-- step_policy codes (R192). -/
def StepPolicy.code : StepPolicy → Byte
  | .keep => 0
  | .shift => 1
  | .drop => 2

/-- step_policy named by a byte. -/
def StepPolicy.ofByte (b : Byte) : Option StepPolicy :=
  if b = 0 then some .keep else if b = 1 then some .shift
  else if b = 2 then some .drop else none

/-- orphan_policy codes (R192). -/
def OrphanPolicy.code : OrphanPolicy → Byte
  | .continue => 0
  | .cancel => 1

/-- orphan_policy named by a byte. -/
def OrphanPolicy.ofByte (b : Byte) : Option OrphanPolicy :=
  if b = 0 then some .continue else if b = 1 then some .cancel else none

/-- action kind codes (R192). -/
def ActionKind.code : ActionKind → Byte
  | .pulse => 0
  | .assert => 1
  | .release => 2
  | .invert => 3

/-- action kind named by a byte. -/
def ActionKind.ofByte (b : Byte) : Option ActionKind :=
  if b = 0 then some .pulse else if b = 1 then some .assert
  else if b = 2 then some .release else if b = 3 then some .invert else none

/-- entry state codes (R192). -/
def EntryState.code : EntryState → Byte
  | .scheduled => 1
  | .waiting => 2
  | .held => 3

/-- timebase state codes (R192). -/
def TimeState.code : TimeState → Byte
  | .stopped => 0
  | .running => 1
  | .stopping => 2

/-- authority state codes (R192). -/
def AuthState.code : AuthState → Byte
  | .vacant => 0
  | .held => 1
  | .yielding => 2

/-- capture edge setting codes (R192). -/
def EdgeSetting.code : EdgeSetting → Byte
  | .off => 0
  | .rising => 1
  | .falling => 2
  | .both => 3

/-- capture edge setting named by a byte. -/
def EdgeSetting.ofByte (b : Byte) : Option EdgeSetting :=
  if b = 0 then some .off else if b = 1 then some .rising
  else if b = 2 then some .falling else if b = 3 then some .both else none

/-- Edge codes of a capture record (R194). -/
def edgeCode : Edge → Byte
  | .rising => 0
  | .falling => 1

/-- line base and output codes (R192). -/
def Level.code : Level → Byte
  | .deasserted => 0
  | .asserted => 1

/-- pin level codes (R192). -/
def PinLevel.code : PinLevel → Byte
  | .low => 0
  | .high => 1

/-- force codes (R192): NONE, FORCE_ASSERTED, FORCE_DEASSERTED. -/
def forceCode : Option Level → Byte
  | none => 0
  | some .asserted => 1
  | some .deasserted => 2

/-- FORCE_LINE value named by a byte (R192): `some none` is the value NONE. -/
def forceOfByte (b : Byte) : Option (Option Level) :=
  if b = 0 then some none else if b = 1 then some (some .asserted)
  else if b = 2 then some (some .deasserted) else none

/-- polarity codes (R192). -/
def Polarity.code : Polarity → Byte
  | .activeHigh => 0
  | .activeLow => 1

/-- polarity named by a byte. -/
def Polarity.ofByte (b : Byte) : Option Polarity :=
  if b = 0 then some .activeHigh else if b = 1 then some .activeLow else none

/-- line mode codes (R192). -/
def LineMode.code : LineMode → Byte
  | .shared => 0
  | .exclusive => 1

/-- line mode named by a byte. -/
def LineMode.ofByte (b : Byte) : Option LineMode :=
  if b = 0 then some .shared else if b = 1 then some .exclusive else none

/-- reset cause codes (R192); none is NONE. -/
def causeCode : Option ResetCause → Byte
  | none => 0
  | some .powerOn => 1
  | some .pin => 2

/-- detach authority codes (R192). -/
def DetachAuthority.code : DetachAuthority → Byte
  | .none => 0
  | .released => 1
  | .withdrawn => 2

/-- Notice kind codes (R192). -/
def NoticeKind.code : NoticeKind → Nat
  | .fired => 1
  | .entryCancelled => 2
  | .actionDenied => 3
  | .captureTriggered => 4
  | .authorityChanged => 5
  | .authorityWanted => 6
  | .yieldDemanded => 7
  | .authorityGranted => 8
  | .authorityLost => 9
  | .timeStepped => 10
  | .timebaseState => 11
  | .slewEnded => 12
  | .captureAvailable => 13
  | .captureDropped => 14
  | .overflow => 15

/-- ENTRY_CANCELLED reason codes (R192). -/
def CancelReason.code : CancelReason → Byte
  | .purged => 1
  | .step => 2
  | .stepRange => 3
  | .timeRange => 4

/-- AUTHORITY_CHANGED, AUTHORITY_GRANTED and AUTHORITY_LOST reason codes (R192). -/
def AuthReason.code : AuthReason → Byte
  | .claim => 0
  | .released => 1
  | .leaseExpired => 2
  | .preempted => 3
  | .detached => 4

/-- TIMEBASE_STATE codes (R192). -/
def TimeNews.code : TimeNews → Byte
  | .started => 0
  | .stopped => 1
  | .timeEnd => 2

/-- SLEW_ENDED reason codes (R192). -/
def SlewReason.code : SlewReason → Byte
  | .done => 0
  | .cancelled => 1
  | .superseded => 2
  | .stepped => 3
  | .timeEnd => 4

end Sys2Proof.Machine
end

