-- ==== Sys2Proof/Machine/Frame.lean ====
section
/-! DEFINITION. SPI frames: the tests of R164 and the REQUEST layout of R162 and R189. -/

namespace Sys2Proof.Machine

/-- Type byte of a REQUEST frame (R161). -/
def requestType : Byte := 0x51

/-- Type byte of a POLL frame (R161). -/
def pollType : Byte := 0x52

/-- Type byte of a REPEAT frame (R161). -/
def repeatType : Byte := 0x53

/-- The largest payload of a REQUEST (R162). -/
def maxPayload : Nat := 96

/-- What the port interface finds when nCSp rises (R161, R164). -/
inductive Verdict where
  | noFrame                  -- no whole byte was clocked (R161)
  | good
  | faulty (f : FrameFault)
deriving DecidableEq, Repr

/-- The tests of R164 on the whole bytes of one frame, in their order. -/
def judgeFrame (bytes : List Byte) : Verdict :=
  match bytes with
  | [] => .noFrame
  | type :: _ =>
    if type = pollType ∨ type = repeatType then .good
    else if type ≠ requestType then .faulty .unknownType
    else if bytes.length < 5 then .faulty .truncated
    else if (byteAt bytes 3).toNat > maxPayload ∨ bytes.length ≠ (byteAt bytes 3).toNat + 5 then
      .faulty .length
    else if crc8 bytes.dropLast ≠ byteAt bytes (bytes.length - 1) then .faulty .crc
    else .good

/-- The bytes a REQUEST frame's CRC covers (R163, R189). -/
def requestBody (tag kind : Byte) (payload : List Byte) : List Byte :=
  requestType :: tag :: kind :: natByte payload.length :: payload

/-- A REQUEST frame (R162, R189). -/
def requestFrame (tag kind : Byte) (payload : List Byte) : List Byte :=
  requestBody tag kind payload ++ [crc8 (requestBody tag kind payload)]

end Sys2Proof.Machine
end

