-- ==== Sys2Proof/WellFormed.lean ====
section
/-! DEFINITION. Which commands are well formed: the checks that the port interface's own rows rest on. -/

namespace Sys2Proof

open Machine

/-- A command is well formed when it is the event its row names: a request's payload fits a good
REQUEST frame (R162), the kind code of BAD_KIND names no kind (R172), and the bytes of FAULTY_FRAME
fail a test (R164). Every other command is well formed. -/
def Instr.wellFormed (c : Instr) : Bool :=
  match c with
  | .attach _ _ pl | .detach _ _ pl | .setAttention _ _ pl | .queryTime _ _ pl | .start _ _ pl
  | .stop _ _ pl | .step _ _ pl | .slew _ _ pl | .entryAdd _ _ pl | .entryCancel _ _ pl
  | .entryHold _ _ pl | .entryResume _ _ pl | .entryQuery _ _ pl | .nextQuery _ _ pl
  | .entryList _ _ pl | .setQuota _ _ pl | .purgePort _ _ pl | .lineQuery _ _ pl
  | .setLinePolicy _ _ pl | .forceLine _ _ pl | .claim _ _ pl | .release _ _ pl | .renew _ _ pl
  | .queryAuthority _ _ pl | .setGrace _ _ pl | .setCapture _ _ pl | .subscribe _ _ pl
  | .readCaptures _ _ pl | .fetchNotices _ _ pl | .ackNotices _ _ pl =>
    decide (pl.length ≤ maxPayload)
  | .badKind _ _ kind pl => decide (pl.length ≤ maxPayload) && decide (Kind.ofByte kind = none)
  | .faultyFrame _ bytes =>
    match judgeFrame bytes with
    | .faulty _ => true
    | .good | .noFrame => false
  | .poll _ _ | .repeatFrame _ _ | .portReset _ | .fullReset _ | .fullResetEnd _ _ _
  | .referenceMicrosecond | .referenceMillisecond | .slewDone | .leaseExpiry | .graceExpiry
  | .captureEdge _ _ | .expiry | .pulseEnd _ | .passComplete | .portResetRelease _ => true

end Sys2Proof
end

