-- ==== Sys2Proof/Decode.lean ====
section
/-! DEFINITION. From bits to commands: the table gives no row any bits; a whole SPI frame spells one command (R161 to R164, R189). -/

namespace Sys2Proof

open Machine

/-- spec/opcode_table.json gives none of its rows bits, so no word spells a command. -/
def decodeTableWord (_nbits _w : Nat) : Option Instr := none

/-- The command that a good REQUEST of a kind is. -/
def requestCommand (k : Kind) (a : Arrival) (tag : Byte) (payload : List Byte) : Instr :=
  match k with
  | .attach => .attach a tag payload
  | .detach => .detach a tag payload
  | .setAttention => .setAttention a tag payload
  | .queryTime => .queryTime a tag payload
  | .start => .start a tag payload
  | .stop => .stop a tag payload
  | .step => .step a tag payload
  | .slew => .slew a tag payload
  | .entryAdd => .entryAdd a tag payload
  | .entryCancel => .entryCancel a tag payload
  | .entryHold => .entryHold a tag payload
  | .entryResume => .entryResume a tag payload
  | .entryQuery => .entryQuery a tag payload
  | .nextQuery => .nextQuery a tag payload
  | .entryList => .entryList a tag payload
  | .setQuota => .setQuota a tag payload
  | .purgePort => .purgePort a tag payload
  | .lineQuery => .lineQuery a tag payload
  | .setLinePolicy => .setLinePolicy a tag payload
  | .forceLine => .forceLine a tag payload
  | .claim => .claim a tag payload
  | .release => .release a tag payload
  | .renew => .renew a tag payload
  | .queryAuthority => .queryAuthority a tag payload
  | .setGrace => .setGrace a tag payload
  | .setCapture => .setCapture a tag payload
  | .subscribe => .subscribe a tag payload
  | .readCaptures => .readCaptures a tag payload
  | .fetchNotices => .fetchNotices a tag payload
  | .ackNotices => .ackNotices a tag payload

/-- The command that the whole bytes of one nCSp assertion are; none when no whole byte was clocked
(R161). -/
def decodeFrame (a : Arrival) (bytes : List Byte) : Option Instr :=
  match judgeFrame bytes with
  | .noFrame => none
  | .faulty _ => some (.faultyFrame a bytes)
  | .good =>
    if byteAt bytes 0 = pollType then some (.poll a (bytes.drop 1))
    else if byteAt bytes 0 = repeatType then some (.repeatFrame a (bytes.drop 1))
    else
      match Kind.ofByte (byteAt bytes 2) with
      | some k => some (requestCommand k a (byteAt bytes 1) ((bytes.drop 4).dropLast))
      | none => some (.badKind a (byteAt bytes 1) (byteAt bytes 2) ((bytes.drop 4).dropLast))

/-- The frame that a command is on the wire, with its arrival; none for a command that is no frame. -/
def encodeFrame (c : Instr) : Option (Arrival × List Byte) :=
  match c with
  | .attach a tag pl => some (a, requestFrame tag Kind.attach.code pl)
  | .detach a tag pl => some (a, requestFrame tag Kind.detach.code pl)
  | .setAttention a tag pl => some (a, requestFrame tag Kind.setAttention.code pl)
  | .queryTime a tag pl => some (a, requestFrame tag Kind.queryTime.code pl)
  | .start a tag pl => some (a, requestFrame tag Kind.start.code pl)
  | .stop a tag pl => some (a, requestFrame tag Kind.stop.code pl)
  | .step a tag pl => some (a, requestFrame tag Kind.step.code pl)
  | .slew a tag pl => some (a, requestFrame tag Kind.slew.code pl)
  | .entryAdd a tag pl => some (a, requestFrame tag Kind.entryAdd.code pl)
  | .entryCancel a tag pl => some (a, requestFrame tag Kind.entryCancel.code pl)
  | .entryHold a tag pl => some (a, requestFrame tag Kind.entryHold.code pl)
  | .entryResume a tag pl => some (a, requestFrame tag Kind.entryResume.code pl)
  | .entryQuery a tag pl => some (a, requestFrame tag Kind.entryQuery.code pl)
  | .nextQuery a tag pl => some (a, requestFrame tag Kind.nextQuery.code pl)
  | .entryList a tag pl => some (a, requestFrame tag Kind.entryList.code pl)
  | .setQuota a tag pl => some (a, requestFrame tag Kind.setQuota.code pl)
  | .purgePort a tag pl => some (a, requestFrame tag Kind.purgePort.code pl)
  | .lineQuery a tag pl => some (a, requestFrame tag Kind.lineQuery.code pl)
  | .setLinePolicy a tag pl => some (a, requestFrame tag Kind.setLinePolicy.code pl)
  | .forceLine a tag pl => some (a, requestFrame tag Kind.forceLine.code pl)
  | .claim a tag pl => some (a, requestFrame tag Kind.claim.code pl)
  | .release a tag pl => some (a, requestFrame tag Kind.release.code pl)
  | .renew a tag pl => some (a, requestFrame tag Kind.renew.code pl)
  | .queryAuthority a tag pl => some (a, requestFrame tag Kind.queryAuthority.code pl)
  | .setGrace a tag pl => some (a, requestFrame tag Kind.setGrace.code pl)
  | .setCapture a tag pl => some (a, requestFrame tag Kind.setCapture.code pl)
  | .subscribe a tag pl => some (a, requestFrame tag Kind.subscribe.code pl)
  | .readCaptures a tag pl => some (a, requestFrame tag Kind.readCaptures.code pl)
  | .fetchNotices a tag pl => some (a, requestFrame tag Kind.fetchNotices.code pl)
  | .ackNotices a tag pl => some (a, requestFrame tag Kind.ackNotices.code pl)
  | .badKind a tag kind pl => some (a, requestFrame tag kind pl)
  | .poll a clocked => some (a, pollType :: clocked)
  | .repeatFrame a clocked => some (a, repeatType :: clocked)
  | .faultyFrame a bytes => some (a, bytes)
  | .portReset _ | .fullReset _ | .fullResetEnd _ _ _ | .referenceMicrosecond
  | .referenceMillisecond | .slewDone | .leaseExpiry | .graceExpiry | .captureEdge _ _ | .expiry
  | .pulseEnd _ | .passComplete | .portResetRelease _ => none

end Sys2Proof
end

