-- ==== Sys2Proof/Machine/State.lean ====
section
/-! DEFINITION. The state of the Zaltig 316, block by block, its reset, and the reasons a step can stop. -/

namespace Sys2Proof.Machine

/-- The handle of an entry (R24). -/
structure Handle where
  slot : SlotIx
  tag : BitVec 8
deriving DecidableEq, Repr

/-! ### Timebase (01) -/

/-- A pending STOP or STEP request: its port and the ticket the answer will carry (R6, R168). -/
structure Waiter where
  port : Port
  ticket : BitVec 16
deriving DecidableEq, Repr

/-- The slew record (01, section 1.6). -/
structure Slew where
  /-- signed ppm, -1000..-1 or 1..1000 -/
  rate : Int
  /-- whole slew milliseconds still to run -/
  remaining : Nat
  /-- slew microseconds run in the current slew millisecond, 0..999 -/
  phase : Nat
  /-- 0..999,999 -/
  accumulator : Nat
deriving DecidableEq, Repr

/-- The timebase record (01, section 1.3). -/
structure Timebase where
  state : TimeState
  now : Nat
  epoch : BitVec 16
  stopWaiters : List Waiter
  slew : Option Slew
  /-- dividers: REFCLK periods, 0..9 (R1) -/
  refclk : Nat
  /-- dividers: reference microseconds, 0..999 (R1) -/
  micros : Nat
  /-- the last reference microsecond completed a reference millisecond, not taken yet (R1; DEDUCED, log 4) -/
  msDue : Bool
deriving DecidableEq, Repr

/-! ### Schedule (02, 03) -/

/-- One line action of an entry (02, section 2.2). -/
structure LineAction where
  line : LineIx
  kind : ActionKind
  /-- present for PULSE, absent for the other kinds -/
  width : Option Nat
deriving DecidableEq, Repr

/-- The entry record (02, section 2.2). A FREE slot holds none. -/
structure Entry where
  owner : Port
  state : EntryState
  orphaned : Bool
  cancelPending : Bool
  due : Option Nat
  trigger : Trigger
  input : Option InputIx
  captureOffset : Option Nat
  period : Nat
  repeatsLeft : Nat
  stepPolicy : StepPolicy
  orphanPolicy : OrphanPolicy
  notify : Bool
  label : Option (BitVec 16)
  actions : List LineAction
  fired : Nat
  missed : Nat
deriving DecidableEq, Repr

/-- One slot: its tag, and its entry unless it is FREE (R23, R24). -/
structure Slot where
  tag : BitVec 8
  entry : Option Entry
deriving DecidableEq, Repr

/-- The reorder pass in flight (03, head; R63, R69). -/
structure Pass where
  /-- the stepping port and the ticket of its STEP -/
  stepper : Waiter
  oldNow : Nat
  newNow : Nat
  cancelled : Nat
  advanced : Bool
  /-- reference microseconds since the step (R69's bound; log 6) -/
  age : Nat
deriving DecidableEq, Repr

/-- What the schedule owns. -/
structure Schedule where
  slots : Table 64 Slot
  dueList : List SlotIx
  waiting : Table 4 (List SlotIx)
  quota : Table 3 Nat
  usage : Table 3 Nat
  /-- the open sweep with its members (R51) -/
  sweep : Option (List SlotIx)
  pass : Option Pass
deriving DecidableEq, Repr

/-! ### Line unit (04) -/

/-- A pulse in progress: pulse_end and pulse_source, present together (04, head). -/
structure Pulse where
  endTime : Nat
  source : Handle
deriving DecidableEq, Repr

/-- A force: its level and the port that set it, present together (04, head). -/
structure Force where
  level : Level
  port : Port
deriving DecidableEq, Repr

/-- One line record (04, head). -/
structure Line where
  base : Level
  pulse : Option Pulse
  force : Option Force
  polarity : Polarity
  mode : LineMode
  writerMask : PortSet
  refs : Table 3 Nat
  exclHolder : Option Port
  retriggers : Nat
deriving DecidableEq, Repr

/-! ### Authority unit (05) -/

/-- The holder with its lease_remaining, present together (05, head). -/
structure Tenure where
  port : Port
  leaseRemaining : Nat
deriving DecidableEq, Repr

/-- The demanding port with its grace_remaining, present together (05, head). -/
structure Demand where
  port : Port
  graceRemaining : Nat
deriving DecidableEq, Repr

/-- A waiter record (05, head). -/
structure WaiterRec where
  port : Port
  lease : Nat
  urgent : Bool
deriving DecidableEq, Repr

/-- The rank order, as the straps RANK1 and RANK0 that select it (R100). -/
structure Rank where
  rank1 : Bool
  rank0 : Bool
deriving DecidableEq, Repr

/-- What the authority unit owns. -/
structure Authority where
  tenure : Option Tenure
  waiters : List WaiterRec
  demand : Option Demand
  graceSetting : Nat
  rank : Rank
deriving DecidableEq, Repr

/-! ### Capture unit (06) -/

/-- One capture input (06, head). -/
structure CaptureInput where
  edge : EdgeSetting
  holdoff : Nat
  sinceLast : Option Nat
  level : PinLevel
deriving DecidableEq, Repr

/-- One record of the capture log (06, head). -/
structure CaptureRecord where
  seq : BitVec 16
  input : InputIx
  edge : Edge
  stamp : Nat
  stopped : Bool
  epoch : BitVec 16
  readers : PortSet
deriving DecidableEq, Repr

/-- What the capture unit owns. -/
structure Capture where
  inputs : Table 4 CaptureInput
  sequence : BitVec 16
  subscriptions : Table 3 InputSet
  log : List CaptureRecord
deriving DecidableEq, Repr

/-! ### Notice queues (07) -/

/-- Subject and detail of a notice, by kind (R148). -/
inductive NoticeBody where
  | fired (handle : Handle) (label : Option (BitVec 16)) (due now lateAmount : Nat) (late : Bool)
      (missed : Nat) (final timeRange : Bool)
  | entryCancelled (handle : Handle) (label : Option (BitVec 16)) (reason : CancelReason)
  | actionDenied (handle : Handle) (label : Option (BitVec 16)) (line : LineIx) (kind : ActionKind)
  | captureTriggered (handle : Handle) (label : Option (BitVec 16)) (input : InputIx)
      (seq : BitVec 16) (stamp due : Nat)
  | authorityChanged (newHolder : Option Port) (reason : AuthReason)
  | authorityWanted (claimant : Port) (urgent : Bool) (queueLength : Nat)
  | yieldDemanded (port : Port) (grace : Nat)
  | authorityGranted (former : Port) (lease : Nat) (reason : AuthReason)
  | authorityLost (newHolder : Option Port) (reason : AuthReason)
  | timeStepped (stepper : Port) (oldNow newNow : Nat) (epoch : BitVec 16)
  | timebaseState (news : TimeNews)
  | slewEnded (reason : SlewReason) (remaining : Nat)
  | captureAvailable (input : InputIx) (seq : BitVec 16) (owed : Nat)
  | captureDropped (input : InputIx) (edge : Edge) (seq : BitVec 16) (stamp : Nat) (stopped : Bool)
      (epoch : BitVec 16) (reason : DropReason)
  | overflow (kinds : BitVec 16)
deriving DecidableEq, Repr

/-- A stored notice (R147). -/
structure Notice where
  seq : BitVec 16
  stamp : Nat
  epoch : BitVec 16
  body : NoticeBody
deriving DecidableEq, Repr

/-- The notice queue of one port (07, head). -/
structure NoticeQueue where
  /-- oldest first -/
  queue : List Notice
  nextSeq : BitVec 16
  /-- bit k stands for the kind of code k (R192) -/
  overflow : BitVec 16
  attention : Bool
deriving DecidableEq, Repr

/-! ### Port interfaces (08, 09) -/

/-- The held request (08, head). -/
structure Held where
  tag : Byte
  kind : Byte
  ticket : BitVec 16
deriving DecidableEq, Repr

/-- The names of an entry that a response speaks of: its handle and its label, as they stood before the
entry was freed (R28). -/
structure EntryName where
  handle : Handle
  label : Option (BitVec 16)
deriving DecidableEq, Repr

/-- A response (R174); marker, length and CRC of its frame follow from tag, kind, status and payload.
`freed` is the handle and label that the response of an ENTRY_CANCEL carries by R28; its frame has no
bytes for them (R39, R174, R193; log 18). -/
structure Response where
  tag : Byte
  kind : Byte
  status : Status
  payload : List Byte
  freed : Option EntryName := none
deriving DecidableEq, Repr

/-- The request slot with what it holds (08, head). -/
inductive RequestSlot where
  | empty
  | working (held : Held)
  | answered (held : Held) (pending : Response)
deriving DecidableEq, Repr

/-- The port interface of one port (08, head; 09, head). -/
structure PortIf where
  session : Session
  slot : RequestSlot
  lastResponse : Option Response
  frameFault : FrameFault
  nextTicket : BitVec 16
  causeReported : Bool
  /-- nPRSTp is asserted (R175) -/
  inReset : Bool
  /-- the bytes shifted out on MISOp during the latest frame; the model's view of the pin (log 5) -/
  miso : List Byte
deriving DecidableEq, Repr

/-! ### The whole part -/

/-- The state of the part, and the queue of commands that are waiting. -/
structure State where
  timebase : Timebase
  schedule : Schedule
  lines : Table 16 Line
  authority : Authority
  capture : Capture
  notices : Table 3 NoticeQueue
  ports : Table 3 PortIf
  /-- the status bytes of each port since its previous frame, newest first, each different from the
  one before: what the bytes of its next frame may show (R166; the model's own record, log 13) -/
  trails : Table 3 (List Byte)
  /-- last reset cause (R178) -/
  resetCause : ResetCause
  /-- a full reset lasts (R188) -/
  inFullReset : Bool
  /-- the commands waiting, first in, first out -/
  pending : List Instr
  /-- how many free bytes have been used (log 5) -/
  freeCount : Nat
deriving DecidableEq, Repr

/-- Reasons for which the part stops: the manual names none (a frame fault is a value of the state,
a refused request a status), so there is no fault. -/
inductive Fault where
deriving DecidableEq, Repr

/-- Reasons for which a command has no meaning. -/
inductive Refusal where
  /-- Raised by exec for a command that has no meaning yet. Safe. -/
  | notModelled (mnemonic : String)
  /-- Raised by BAD_KIND with a kind code that names a kind and by FAULTY_FRAME with the bytes of a
  good frame: the operands spell another row's command, which has its own meaning (log 7). Safe. -/
  | notThisCommand
deriving DecidableEq, Repr

/-! ### Reset values (R21, R49, R98, R124, R141, R160, R176, R188) -/

/-- R21. -/
def Timebase.reset : Timebase :=
  { state := .stopped, now := 0, epoch := 0, stopWaiters := [], slew := none, refclk := 0,
    micros := 0, msDue := false }

/-- R49, R75. -/
def Schedule.reset : Schedule :=
  { slots := Table.fill 64 { tag := 0, entry := none }, dueList := [], waiting := Table.fill 4 [],
    quota := Table.fill 3 32, usage := Table.fill 3 0, sweep := none, pass := none }

/-- R98. -/
def Line.reset : Line :=
  { base := .deasserted, pulse := none, force := none, polarity := .activeHigh, mode := .shared,
    writerMask := 7, refs := Table.fill 3 0, exclHolder := none, retriggers := 0 }

/-- R124, with the rank order that the straps select. -/
def Authority.reset (rank : Rank) : Authority :=
  { tenure := none, waiters := [], demand := none, graceSetting := 50, rank := rank }

/-- R141: an input whose pin stands at a level when the reset ends. -/
def CaptureInput.reset (level : PinLevel) : CaptureInput :=
  { edge := .off, holdoff := 0, sinceLast := none, level := level }

/-- R141, with the levels of the pins. -/
def Capture.reset (levels : Table 4 PinLevel) : Capture :=
  { inputs := levels.map CaptureInput.reset, sequence := 0, subscriptions := Table.fill 3 0,
    log := [] }

/-- R160. -/
def NoticeQueue.reset : NoticeQueue :=
  { queue := [], nextSeq := 0, overflow := 0, attention := false }

/-- R176, R178, for a port whose nPRSTp pin is asserted or not. -/
def PortIf.reset (inReset : Bool) : PortIf :=
  { session := .detached, slot := .empty, lastResponse := none, frameFault := .none,
    nextTicket := 0, causeReported := false, inReset := inReset, miso := [] }

/-- The part right after a power-on reset has ended (R188). The straps, the levels of CI0..CI3, the
nPRSTp pins and the cause are the world's: DESIGN CHOICE straps 0, 0, inputs LOW, nPRSTp released,
cause POWER_ON (log 2). -/
def State.reset : State :=
  { timebase := .reset
    schedule := .reset
    lines := Table.fill 16 .reset
    authority := .reset { rank1 := false, rank0 := false }
    capture := .reset (Table.fill 4 .low)
    notices := Table.fill 3 .reset
    ports := Table.fill 3 (.reset false)
    trails := Table.fill 3 []
    resetCause := .powerOn
    inFullReset := false
    pending := []
    freeCount := 0 }

end Sys2Proof.Machine
end

