-- ==== Sys2Proof/Machine/Flags.lean ====
section
/-! DEFINITION. Values the part shows and does not store: line outputs, pins, the attention line, the status byte and the status bytes of a frame, the authority state, owed counts. -/

namespace Sys2Proof.Machine

/-- The output of a line (R77). -/
def Line.output (l : Line) : Level :=
  match l.force with
  | some f => f.level
  | none =>
    match l.pulse with
    | some _ => .asserted
    | none => l.base

/-- The pin level of a line: its output through its polarity (R78). -/
def Line.pin (l : Line) : PinLevel :=
  match l.polarity, l.output with
  | .activeHigh, .asserted => .high
  | .activeHigh, .deasserted => .low
  | .activeLow, .asserted => .low
  | .activeLow, .deasserted => .high

/-- Whether port `p` is ATTACHED. -/
def State.attached (s : State) (p : Port) : Bool := (s.ports.get p).session = .attached

/-- The attention line ATTNp, true when driven high (R156). -/
def State.attn (s : State) (p : Port) : Bool :=
  s.attached p && !(s.notices.get p).queue.isEmpty && (s.notices.get p).attention

/-- Slot state codes of a status byte and an IDLE frame (R189, R190). -/
def RequestSlot.code : RequestSlot → Byte
  | .empty => 0
  | .working _ => 1
  | .answered _ _ => 2

/-- The port status byte (R166, R190): 1010b, attached, attention, slot state. -/
def State.statusByte (s : State) (p : Port) : Byte :=
  0xA0#8 ||| (if s.attached p then 8#8 else 0#8) ||| (if s.attn p then 4#8 else 0#8)
    ||| (s.ports.get p).slot.code

/-- The status bytes of a port since its previous frame, newest first: the one that stands now, then
those that the commands before have noted (R166). -/
def State.trail (s : State) (p : Port) : List Byte :=
  if (s.trails.get p).head? = some (s.statusByte p) then s.trails.get p
  else s.statusByte p :: s.trails.get p

/-- The status bytes that `n` bytes of a frame show, out of a trail, when a byte began `lag` changes
before the frame is taken. A byte begins after the one before it, so no lag exceeds `oldest`, the lag
before it; a byte with no lag shows the status that stands now. -/
def statusRun (trail : List Byte) (oldest n : Nat) (lags : List Nat) : List Byte :=
  match lags with
  | [] => List.replicate n (trail.headD 0)
  | lag :: more =>
    match n with
    | 0 => []
    | m + 1 => trail.getD (min oldest lag) 0 :: statusRun trail (min oldest lag) m more

/-- The status bytes on the first `n` bytes of a frame (R166): each as it stood when that byte began.
A lag beyond the trail is its oldest byte. -/
def State.statusBytes (s : State) (p : Port) (lags : List Nat) (n : Nat) : List Byte :=
  statusRun (s.trail p) ((s.trail p).length - 1) n lags

/-- The authority holder, if any. -/
def Authority.holder (a : Authority) : Option Port := a.tenure.map Tenure.port

/-- The authority holder, if any. -/
def State.holder (s : State) : Option Port := s.authority.holder

/-- The state of the authority unit (R102's table): VACANT has no holder, YIELDING has a demanding
port. -/
def Authority.state (a : Authority) : AuthState :=
  match a.tenure, a.demand with
  | none, _ => .vacant
  | some _, none => .held
  | some _, some _ => .yielding

/-- The rank order code of R192: RANK1 x 2 + RANK0. -/
def Rank.code (r : Rank) : Byte := (if r.rank1 then 2#8 else 0#8) ||| (if r.rank0 then 1#8 else 0#8)

/-- How far down the rank order a port stands, 0 at the top; all equal for straps 1, 1 (R100). -/
def Rank.place (r : Rank) (p : Port) : Nat :=
  match r.rank1, r.rank0 with
  | false, false => p.val
  | false, true => (p.val + 2) % 3
  | true, false => (p.val + 1) % 3
  | true, true => 0

/-- Strict outranking (R101). -/
def Rank.outranks (r : Rank) (p q : Port) : Bool := r.place p < r.place q

/-- The owed count of a port: the records whose reader set holds it (06, head). -/
def Capture.owed (c : Capture) (p : Port) : Nat := c.log.countP fun r => hasBit r.readers p

/-- The kind of a notice (R148). -/
def NoticeBody.kind : NoticeBody → NoticeKind
  | .fired .. => .fired
  | .entryCancelled .. => .entryCancelled
  | .actionDenied .. => .actionDenied
  | .captureTriggered .. => .captureTriggered
  | .authorityChanged .. => .authorityChanged
  | .authorityWanted .. => .authorityWanted
  | .yieldDemanded .. => .yieldDemanded
  | .authorityGranted .. => .authorityGranted
  | .authorityLost .. => .authorityLost
  | .timeStepped .. => .timeStepped
  | .timebaseState .. => .timebaseState
  | .slewEnded .. => .slewEnded
  | .captureAvailable .. => .captureAvailable
  | .captureDropped .. => .captureDropped
  | .overflow .. => .overflow

/-- The bit of an overflow set that stands for a kind (R192). -/
def NoticeKind.bit (k : NoticeKind) : BitVec 16 := BitVec.twoPow 16 k.code

/-- The capture edge setting matches an edge (R129). -/
def EdgeSetting.isFor (e : EdgeSetting) (d : Edge) : Bool :=
  match e, d with
  | .off, _ => false
  | .rising, .rising => true
  | .rising, .falling => false
  | .falling, .rising => false
  | .falling, .falling => true
  | .both, _ => true

/-- The level before an edge of a direction (R126). -/
def levelBefore : Edge → PinLevel
  | .rising => .low
  | .falling => .high

/-- The level after an edge of a direction (R126). -/
def levelAfter : Edge → PinLevel
  | .rising => .high
  | .falling => .low

/-- An input's holdoff has elapsed (R128). -/
def CaptureInput.holdoffElapsed (c : CaptureInput) : Bool :=
  match c.sinceLast with
  | none => true
  | some n => c.holdoff ≤ n

end Sys2Proof.Machine
end

