-- ==== Sys2Proof/Machine/Records.lean ====
section
/-! DEFINITION. Records and frames as bytes (R174, R189, R191, R194, R195). -/

namespace Sys2Proof.Machine

/-- A handle in 2 bytes: the slot, then the tag (R191). -/
def handleBytes (h : Handle) : List Byte := [natByte h.slot.val, h.tag]

/-- A label in 2 bytes, 0 when absent (R194). -/
def labelBytes (l : Option (BitVec 16)) : List Byte := leBytes 2 (l.getD 0).toNat

/-- A 16-bit count in 2 bytes. -/
def wordBytes (w : BitVec 16) : List Byte := leBytes 2 w.toNat

/-- A byte of flags, bit 0 first. -/
def flagByte (bits : List Bool) : Byte :=
  natByte (bits.foldr (fun b n => (if b then 1 else 0) + 2 * n) 0)

/-- Bytes followed by 00h up to a length. -/
def padTo (n : Nat) (bytes : List Byte) : List Byte := bytes ++ List.replicate (n - bytes.length) 0

/-- An action place of the entry record: line, kind and width (R194). -/
def actionBytes (a : LineAction) : List Byte :=
  natByte a.line.val :: a.kind.code :: leBytes 3 (a.width.getD 0)

/-- The entry record of ENTRY_QUERY, 52 bytes (R194). -/
def entryRecord (h : Handle) (e : Entry) : List Byte :=
  handleBytes h ++ [natByte e.owner.val, e.state.code,
    flagByte [e.orphaned, e.cancelPending, e.notify, e.label.isSome, e.due.isSome]]
  ++ leBytes 6 (e.due.getD 0)
  ++ [e.trigger.code, match e.input with | some i => natByte i.val | none => 0xFF]
  ++ leBytes 4 (e.captureOffset.getD 0) ++ leBytes 4 e.period ++ leBytes 2 e.repeatsLeft
  ++ [e.stepPolicy.code, e.orphanPolicy.code] ++ labelBytes e.label
  ++ [natByte e.actions.length] ++ padTo 20 (e.actions.flatMap actionBytes)
  ++ leBytes 2 e.fired ++ leBytes 2 e.missed

/-- The line record of LINE_QUERY, 29 bytes (R97, R194). -/
def lineRecord (now : Nat) (l : Line) : List Byte :=
  leBytes 6 now
  ++ leBytes 6 (match l.pulse with | some u => u.endTime | none => 0)
  ++ (match l.pulse with | some u => handleBytes u.source | none => [0xFF, 0xFF])
  ++ [l.base.code, boolByte l.pulse.isSome, forceCode (l.force.map Force.level),
    portByte (l.force.map Force.port), l.polarity.code, l.mode.code, setByte l.writerMask,
    natByte (l.refs.get 0), natByte (l.refs.get 1), natByte (l.refs.get 2),
    portByte l.exclHolder]
  ++ leBytes 2 l.retriggers ++ [l.output.code, l.pin.code]

/-- The capture record of READ_CAPTURES, 13 bytes (R194). -/
def captureBytes (r : CaptureRecord) : List Byte :=
  wordBytes r.seq ++ [natByte r.input.val, edgeCode r.edge] ++ leBytes 6 r.stamp
  ++ [boolByte r.stopped] ++ wordBytes r.epoch

/-- The subject of a notice, 2 bytes (R194, R195). -/
def NoticeBody.subjectBytes : NoticeBody → List Byte
  | .fired h .. | .entryCancelled h .. | .actionDenied h .. | .captureTriggered h .. => handleBytes h
  | .authorityChanged p _ | .authorityLost p _ =>
    match p with
    | some q => [natByte q.val, 0]
    | none => [0xFF, 0xFF]
  | .authorityWanted p .. | .yieldDemanded p _ | .authorityGranted p .. | .timeStepped p .. =>
    [natByte p.val, 0]
  | .captureAvailable i .. | .captureDropped i .. => [natByte i.val, 0]
  | .timebaseState _ | .slewEnded .. | .overflow _ => [0xFF, 0xFF]

/-- The detail of a notice, before its padding to 10 bytes (R195). -/
def NoticeBody.detailBytes : NoticeBody → List Byte
  | .fired _ label due _ _ _ missed _ _ => leBytes 6 due ++ labelBytes label ++ leBytes 2 missed
  | .entryCancelled _ label reason => reason.code :: labelBytes label
  | .actionDenied _ label line kind => natByte line.val :: kind.code :: labelBytes label
  | .captureTriggered _ label _ seq _ due => leBytes 6 due ++ wordBytes seq ++ labelBytes label
  | .authorityChanged _ reason => [reason.code]
  | .authorityWanted _ urgent n => [boolByte urgent, natByte n]
  | .yieldDemanded _ grace => [natByte grace]
  | .authorityGranted _ lease reason => leBytes 2 lease ++ [reason.code]
  | .authorityLost _ reason => [reason.code]
  | .timeStepped _ oldNow _ _ => leBytes 6 oldNow
  | .timebaseState news => [news.code]
  | .slewEnded reason remaining => reason.code :: leBytes 2 remaining
  | .captureAvailable _ seq owed => wordBytes seq ++ [natByte owed]
  | .captureDropped _ _ seq stamp _ epoch _ => wordBytes seq ++ leBytes 6 stamp ++ wordBytes epoch
  | .overflow kinds => wordBytes kinds

/-- The flags of a notice's kind byte, bit 4 first (R195). -/
def NoticeBody.flags : NoticeBody → List Bool
  | .fired _ label _ _ _ late _ final timeRange => [label.isSome, late, final, timeRange]
  | .entryCancelled _ label _ => [label.isSome]
  | .actionDenied _ label _ _ => [label.isSome]
  | .captureTriggered _ label input _ _ _ =>
    [label.isSome, input.val % 2 == 1, input.val / 2 == 1]
  | .captureDropped _ edge _ _ stopped _ reason =>
    [edge == .falling, stopped, reason == .sequenceInUse]
  | .authorityChanged .. | .authorityWanted .. | .yieldDemanded .. | .authorityGranted ..
  | .authorityLost .. | .timeStepped .. | .timebaseState _ | .slewEnded .. | .captureAvailable ..
  | .overflow _ => []

/-- The notice record of FETCH_NOTICES, 23 bytes (R194, R195). -/
def noticeBytes (n : Notice) : List Byte :=
  [natByte n.body.kind.code ||| (flagByte n.body.flags <<< 4)] ++ wordBytes n.seq
  ++ leBytes 6 n.stamp ++ wordBytes n.epoch ++ n.body.subjectBytes
  ++ padTo 10 n.body.detailBytes

/-- The bytes a response frame's CRC covers (R163, R189). -/
def Response.body (r : Response) : List Byte :=
  0x6E#8 :: r.tag :: r.kind :: r.status.code :: natByte r.payload.length :: r.payload

/-- A response frame (R174, R189). -/
def Response.bytes (r : Response) : List Byte := r.body ++ [crc8 r.body]

/-- The bytes an IDLE frame's CRC covers (R163, R189). -/
def idleBody (f : FrameFault) (slot : RequestSlot) : List Byte := [0x6F#8, f.code, slot.code]

/-- An IDLE frame (R174, R189). -/
def idleFrame (f : FrameFault) (slot : RequestSlot) : List Byte :=
  idleBody f slot ++ [crc8 (idleBody f slot)]

end Sys2Proof.Machine
end

