-- ==== Sys2Proof/Machine/Ops.lean ====
section
/-! DEFINITION. Operations that several blocks share: the places of the state, posting a notice, taking a frame, answering a request, the authority check. -/

namespace Sys2Proof.Machine

/-- What a command answers. -/
abbrev Result := Host.Outcome State Fault Refusal

/-! ### Changing one place of the state -/

/-- Change one port interface. -/
def State.mapPort (s : State) (p : Port) (f : PortIf → PortIf) : State :=
  { s with ports := s.ports.upd p f }

/-- Change one notice queue. -/
def State.mapQueue (s : State) (p : Port) (f : NoticeQueue → NoticeQueue) : State :=
  { s with notices := s.notices.upd p f }

/-- Change one line record. -/
def State.mapLine (s : State) (l : LineIx) (f : Line → Line) : State :=
  { s with lines := s.lines.upd l f }

/-- Change the timebase record. -/
def State.mapTime (s : State) (f : Timebase → Timebase) : State :=
  { s with timebase := f s.timebase }

/-- Change what the schedule owns. -/
def State.mapSchedule (s : State) (f : Schedule → Schedule) : State :=
  { s with schedule := f s.schedule }

/-- Change what the authority unit owns. -/
def State.mapAuthority (s : State) (f : Authority → Authority) : State :=
  { s with authority := f s.authority }

/-- Change what the capture unit owns. -/
def State.mapCapture (s : State) (f : Capture → Capture) : State :=
  { s with capture := f s.capture }

/-! ### Notices (R145, R149) -/

/-- The room of a notice queue (R144). -/
def queueRoom : Nat := 16

/-- A notice of an ATTACHED port reaches its queue: stored with the next seq, or, when the queue holds 16,
discarded with its kind joining the overflow set (R145). After an ACK_NOTICES that removed one notice of
a full queue and appended OVERFLOW, the queue holds 16 again (R144): R155 calls the next notice stored,
and the model discards it (log 20). -/
def NoticeQueue.take (q : NoticeQueue) (now : Nat) (epoch : BitVec 16) (body : NoticeBody) :
    NoticeQueue :=
  if queueRoom ≤ q.queue.length then { q with overflow := q.overflow ||| body.kind.bit }
  else
    { q with
      queue := q.queue ++ [{ seq := q.nextSeq, stamp := now, epoch := epoch, body := body }]
      nextSeq := q.nextSeq + 1 }

/-- Post a notice to a port (R145), stamped with the Now and the epoch that stand. -/
def State.post (s : State) (p : Port) (body : NoticeBody) : State :=
  if s.attached p then s.mapQueue p fun q => q.take s.timebase.now s.timebase.epoch body else s

/-- Post one notice to each port of a list, in its order. -/
def State.postAll (s : State) (ps : List Port) (body : NoticeBody) : State :=
  ps.foldl (fun t p => t.post p body) s

/-- Post a notice to every attached port that a test selects (R145 stores nothing for the others). -/
def State.postWhere (s : State) (test : Port → Bool) (body : NoticeBody) : State :=
  s.postAll (allPorts.filter test) body

/-! ### Answers (R168, R174) -/

/-- A response: the payload is empty for every status but the five that R174 allows one. The response
of an ENTRY_CANCEL names the entry it freed (R28). -/
def responseOf (h : Held) (status : Status) (payload : List Byte)
    (freed : Option EntryName := none) : Response :=
  { tag := h.tag, kind := h.kind, status := status,
    payload := if status.carriesPayload then payload else [], freed := freed }

/-- An answer bearing a ticket reaches the port interface (R168): it becomes the pending response of
the request that holds the ticket, and is otherwise discarded. -/
def PortIf.takeAnswer (i : PortIf) (ticket : BitVec 16) (status : Status) (payload : List Byte)
    (freed : Option EntryName := none) : PortIf :=
  match i.slot with
  | .working h =>
    if h.ticket = ticket then { i with slot := .answered h (responseOf h status payload freed) }
    else i
  | .empty | .answered _ _ => i

/-- A block answers the request of a port that bears a ticket. -/
def State.answer (s : State) (p : Port) (ticket : BitVec 16) (status : Status)
    (payload : List Byte) (freed : Option EntryName := none) : State :=
  s.mapPort p fun i => i.takeAnswer ticket status payload freed

/-- A block refuses a request: an answer with an empty payload (R174). -/
def State.refuse (s : State) (p : Port) (ticket : BitVec 16) (status : Status) : State :=
  s.answer p ticket status []

/-! ### Frames (R161, R166, R167, R175, R176) -/

/-- The status byte of every port is noted, before a command changes it (R166). -/
def State.noted (s : State) : State := { s with trails := Table.ofFn 3 s.trail }

/-- A frame of port `p` is over: the bytes of its next frame show what has stood since (R166). -/
def State.frameEnds (s : State) (p : Port) : State :=
  { s with trails := s.noted.trails.set p [] }

/-- A frame of port `p`: `f` is what it does to the port interface, `bytes` are shifted out. -/
def State.frame (s : State) (p : Port) (bytes : List Byte) (f : PortIf → PortIf) : State :=
  (s.frameEnds p).mapPort p fun i => { f i with miso := bytes }

/-- The port takes no frame: it is held in port reset or in full reset (R175, R176). -/
def State.blocked (s : State) (p : Port) : Bool := s.inFullReset || (s.ports.get p).inReset

/-- The free bytes MISOp shifts out after the type byte of a POLL or REPEAT that is not taken (log 5). -/
def State.freeBytes (s : State) (n : Nat) : List Byte :=
  (List.range n).map fun k => Config.freeByte (s.freeCount + k)

/-- A frame that the port does not take (R175, R176): it records no fault, and nothing changes but the
model's record of MISOp. -/
def State.frameNotTaken (s : State) (p : Port) (bytes : List Byte) : State := s.frame p bytes id

/-- A POLL or REPEAT that is not taken (R175, R176): its type byte shows the status byte (R166), and the
`n` bytes after it answer nothing and are free (log 5). -/
def State.pollNotTaken (s : State) (p : Port) (lags : List Nat) (n : Nat) : State :=
  { s.frameNotTaken p (s.statusBytes p lags 1 ++ s.freeBytes n) with freeCount := s.freeCount + n }

/-- A good REQUEST takes the slot (R167, slot EMPTY or ANSWERED): WORKING with a new ticket, fault
NONE, the status byte shifted out on each of its bytes (R166). A pending response is lost. -/
def State.takeRequest (s : State) (p : Port) (lags : List Nat) (tag kind : Byte)
    (payload : List Byte) : State :=
  s.frame p (s.statusBytes p lags (payload.length + 5)) fun i =>
    { i with
      slot := .working { tag := tag, kind := kind, ticket := i.nextTicket }
      nextTicket := i.nextTicket + 1
      frameFault := .none }

/-- A REQUEST frame of `n` bytes that is not taken records its fault and nothing else: it fails a test
of R164, or finds the slot WORKING (R167). -/
def State.requestFault (s : State) (p : Port) (lags : List Nat) (f : FrameFault) (n : Nat) : State :=
  s.frame p (s.statusBytes p lags n) fun i => { i with frameFault := f }

/-- A REQUEST frame arrives (R161, R164 to R167). `handle` is what becomes of the request once it has
taken the slot, given its ticket. A payload above 96 bytes fits no good frame: fault LENGTH (R164). A
frame that a reset keeps from being taken shows the status byte like any other (R166, R175, R176). -/
def State.receive (s : State) (p : Port) (lags : List Nat) (tag kind : Byte) (payload : List Byte)
    (handle : BitVec 16 → State → State) : State :=
  if s.blocked p then s.frameNotTaken p (s.statusBytes p lags (payload.length + 5))
  else if maxPayload < payload.length then s.requestFault p lags .length (payload.length + 5)
  else
    match (s.ports.get p).slot with
    | .working _ => s.requestFault p lags .requestWhileBusy (payload.length + 5)
    | .empty | .answered _ _ =>
      handle (s.ports.get p).nextTicket (s.takeRequest p lags tag kind payload)

/-- The port-level checks of R172 on a request whose kind is known, then its block. -/
def State.portChecks (k : Kind) (p : Port) (payload : List Byte)
    (block : BitVec 16 → State → State) (ticket : BitVec 16) (s : State) : State :=
  if !k.takesLength payload.length then s.refuse p ticket .badLength
  else if !(s.attached p || k.takenDetached) then s.refuse p ticket .notAttached
  else block ticket s

/-- A request of a kind: the frame is received, checked by the port (R172) and handed to its block. -/
def State.request (s : State) (k : Kind) (p : Port) (lags : List Nat) (tag : Byte)
    (payload : List Byte) (block : BitVec 16 → State → State) : State :=
  s.receive p lags tag k.code payload (State.portChecks k p payload block)

/-- The authority check of R104, before every check of the block. -/
def State.privileged (s : State) (p : Port) (ticket : BitVec 16) (block : State → State) : State :=
  if s.holder = some p then block s else s.refuse p ticket .notAuthority

/-- An event of the part or of a pin: none is taken while a full reset lasts (R188). The status bytes
that stand before it are noted. -/
def State.event (s : State) (f : State → State) : State :=
  if s.inFullReset then s else f s.noted

end Sys2Proof.Machine
end

