-- ==== Sys2Proof/Machine/LineOps.lean ====
section
/-! DEFINITION. What the line unit does for the other blocks: references, line actions, pulse shifts, clearing forces. -/

namespace Sys2Proof.Machine

/-- A reference of port `p` is counted; it takes an EXCLUSIVE line that has no holder (R87, R88). -/
def Line.addRef (p : Port) (l : Line) : Line :=
  { l with
    refs := l.refs.upd p (· + 1)
    exclHolder := if l.mode = .exclusive ∧ l.exclHolder = none then some p else l.exclHolder }

/-- A reference of port `p` is dropped; the holder whose references fall to 0 lets go (R87, R89). -/
def Line.dropRef (p : Port) (l : Line) : Line :=
  { l with
    refs := l.refs.upd p (· - 1)
    exclHolder := if l.exclHolder = some p ∧ l.refs.get p - 1 = 0 then none else l.exclHolder }

/-- The references of an entry's actions are counted (R38 step 4). -/
def addRefs (p : Port) (actions : List LineAction) (lines : Table 16 Line) : Table 16 Line :=
  actions.foldl (fun ls a => ls.upd a.line (Line.addRef p)) lines

/-- The references of an entry's actions are dropped (R28 step 2). -/
def dropRefs (p : Port) (actions : List LineAction) (lines : Table 16 Line) : Table 16 Line :=
  actions.foldl (fun ls a => ls.upd a.line (Line.dropRef p)) lines

/-- The end of a pulse of width `w` begun at `now`, clamped (R81). -/
def pulseEndAt (now w : Nat) : Nat := min (now + w) maxNow

/-- A counter that stops at 65,535 (00_scope 6.1). -/
def saturate (n : Nat) : Nat := min n 65535

/-- An applied PULSE: a fresh pulse (R81) or a retrigger (R82). At Now = 2^48-1 a new end equals the
old end 2^48-1: R82 leaves the source, R84 says that the sending entry becomes it, and the model
follows R82 (log 19). -/
def Line.startPulse (now w : Nat) (h : Handle) (l : Line) : Line :=
  let newEnd := pulseEndAt now w
  match l.pulse with
  | none => { l with pulse := some { endTime := newEnd, source := h } }
  | some u =>
    { l with
      pulse := some (if u.endTime < newEnd then { endTime := newEnd, source := h } else u)
      retriggers := saturate (l.retriggers + 1) }

/-- The other of the two levels (R80). -/
def Level.other : Level → Level
  | .deasserted => .asserted
  | .asserted => .deasserted

/-- An applied action (R80 to R82). A PULSE carries its width. -/
def Line.apply (now : Nat) (h : Handle) (a : LineAction) (l : Line) : Line :=
  match a.kind with
  | .pulse => l.startPulse now (a.width.getD 0) h
  | .assert => { l with base := .asserted }
  | .release => { l with base := .deasserted }
  | .invert => { l with base := l.base.other }

/-- One line action of an expiry reaches the line unit (R54, R79): applied, or refused with
ACTION_DENIED to the owner unless the entry is orphaned. -/
def State.lineAction (s : State) (h : Handle) (e : Entry) (a : LineAction) : State :=
  if hasBit (s.lines.get a.line).writerMask e.owner then
    s.mapLine a.line (Line.apply s.timebase.now h a)
  else if e.orphaned then s
  else s.post e.owner (.actionDenied h e.label a.line a.kind)

/-- All the line actions of an expiry, in list order (R54). -/
def State.lineActions (s : State) (h : Handle) (e : Entry) : State :=
  e.actions.foldl (fun t a => t.lineAction h e a) s

/-- A value moved by a step, clamped to the range of Now (R85). -/
def shiftClamped (oldNow newNow v : Nat) : Nat :=
  (max 0 (min ((newNow : Int) + ((v : Int) - (oldNow : Int))) (maxNow : Int))).toNat

/-- A step moves the end of a pulse present (R85). -/
def Line.shiftPulse (oldNow newNow : Nat) (l : Line) : Line :=
  { l with
    pulse := l.pulse.map fun u => { u with endTime := shiftClamped oldNow newNow u.endTime } }

/-- A pulse end is due on a line (R83). -/
def Line.pulseDue (now : Nat) (l : Line) : Bool :=
  match l.pulse with
  | some u => u.endTime ≤ now
  | none => false

/-- The force of a line is cleared (R95). -/
def Line.clearForce (l : Line) : Line := { l with force := none }

/-- Every force is cleared, at every change of authority holder (R95). -/
def State.clearForces (s : State) : State := { s with lines := s.lines.map Line.clearForce }

/-- How many ports have references to a line (R90 check 2). -/
def Line.referencingPorts (l : Line) : Nat := allPorts.countP fun p => 0 < l.refs.get p

/-- The one port with references, if there is one (R92). -/
def Line.onlyReference (l : Line) : Option Port := allPorts.find? fun p => 0 < l.refs.get p

/-- The holder of a line after a change of mode (R92). -/
def Line.holderAfter (l : Line) (new : LineMode) : Option Port :=
  match l.mode, new with
  | .shared, .shared => none
  | .shared, .exclusive => l.onlyReference
  | .exclusive, .exclusive => l.exclHolder
  | .exclusive, .shared => none

end Sys2Proof.Machine
end

