-- ==== Sys2Proof/Machine/AuthorityOps.lean ====
section
/-! DEFINITION. The authority unit's procedures: the waiter queue, filling a vacancy, the demand, revocation, the reference millisecond. -/

namespace Sys2Proof.Machine

/-- A waiter joins the queue: an urgent one after every urgent one and before every other, a
non-urgent one at the end (R103). -/
def joinQueue (w : WaiterRec) : List WaiterRec → List WaiterRec
  | [] => [w]
  | x :: xs => if w.urgent && !x.urgent then w :: x :: xs else x :: joinQueue w xs

/-- A port's record leaves the queue (R103). -/
def leaveQueue (p : Port) (ws : List WaiterRec) : List WaiterRec := ws.filter fun w => w.port ≠ p

/-- Whether a port waits. -/
def Authority.waits (a : Authority) (p : Port) : Bool := a.waiters.any fun w => w.port = p

/-- The waiter that a vacancy would go to: the demanding port, otherwise the head of the queue
(R116 step 1). -/
def Authority.nextHolder (a : Authority) : Option WaiterRec :=
  match a.demand with
  | some d => a.waiters.find? fun w => w.port = d.port
  | none => a.waiters.head?

/-- The first urgent waiter that strictly outranks a port (R117). -/
def Authority.challenger (a : Authority) (holder : Port) : Option WaiterRec :=
  a.waiters.find? fun w => w.urgent && a.rank.outranks w.port holder

/-- Re-evaluating the demand (R117). -/
def State.reevaluate (s : State) : State :=
  match s.holder with
  | none => s.mapAuthority fun a => { a with demand := none }
  | some h =>
    match s.authority.challenger h with
    | none => s.mapAuthority fun a => { a with demand := none }
    | some w =>
      if s.authority.demand.map Demand.port = some w.port then s
      else
        (s.mapAuthority fun a =>
          { a with demand := some { port := w.port, graceRemaining := a.graceSetting } }).post h
            (.yieldDemanded w.port s.authority.graceSetting)

/-- Filling the vacancy that a former holder leaves (R116). -/
def State.fillVacancy (s : State) (former : Port) (reason : AuthReason) : State :=
  match s.authority.nextHolder with
  | none =>
    (((s.mapAuthority fun a => { a with tenure := none, demand := none }).postWhere
      (fun q => q ≠ former) (.authorityChanged none reason)).clearForces).reevaluate
  | some w =>
    ((((s.mapAuthority fun a =>
      { a with
        tenure := some { port := w.port, leaseRemaining := w.lease }
        waiters := leaveQueue w.port a.waiters
        demand := none }).post w.port (.authorityGranted former w.lease reason)).postWhere
      (fun q => q ≠ w.port ∧ q ≠ former) (.authorityChanged (some w.port) reason)).clearForces).reevaluate

/-- A waiter withdraws, by RELEASE or by detach (R110, R125): its record leaves the queue and the
demand is re-evaluated (R117). -/
def State.withdraw (s : State) (p : Port) : State :=
  (s.mapAuthority fun a => { a with waiters := leaveQueue p a.waiters }).reevaluate

/-- The holder is revoked: AUTHORITY_LOST, and the vacancy is filled (R113 to R115). -/
def State.revoke (s : State) (former : Port) (reason : AuthReason) : State :=
  (s.post former
    (.authorityLost (s.authority.nextHolder.map WaiterRec.port) reason)).fillVacancy former reason

/-- The counts of one reference millisecond (R112), and the expiry they bring (R113 to R115). -/
def State.countMillisecond (s : State) : State :=
  match s.authority.tenure with
  | none => s
  | some t =>
    match s.authority.demand with
    | none =>
      if t.leaseRemaining ≤ 1 then s.revoke t.port .leaseExpired
      else
        s.mapAuthority fun a =>
          { a with tenure := some { t with leaseRemaining := t.leaseRemaining - 1 } }
    | some d =>
      if d.graceRemaining ≤ 1 then s.revoke t.port .preempted
      else if t.leaseRemaining ≤ 1 then s.revoke t.port .leaseExpired
      else
        s.mapAuthority fun a =>
          { a with
            tenure := some { t with leaseRemaining := t.leaseRemaining - 1 }
            demand := some { d with graceRemaining := d.graceRemaining - 1 } }

/-- A reference millisecond is taken (R1, R112): the one that was due is due no longer (log 4). -/
def State.millisecond (s : State) : State :=
  (s.mapTime fun t => { t with msDue := false }).countMillisecond

/-- The lease reaches 0 at the next reference millisecond (R113). -/
def Authority.leaseRunsOut (a : Authority) : Bool :=
  match a.tenure with
  | some t => t.leaseRemaining ≤ 1
  | none => false

/-- The grace reaches 0 at the next reference millisecond (R114). -/
def Authority.graceRunsOut (a : Authority) : Bool :=
  match a.tenure, a.demand with
  | some _, some d => d.graceRemaining ≤ 1
  | _, _ => false

/-- The authority unit's part of the detach of port `p` (R125). -/
def State.detachAuthority (s : State) (p : Port) : State :=
  if s.holder = some p then s.fillVacancy p .detached
  else if s.authority.waits p then s.withdraw p
  else s

/-- What the detach of `p` does to its place in the authority unit (R183). -/
def State.detachPlace (s : State) (p : Port) : DetachAuthority :=
  if s.holder = some p then .released
  else if s.authority.waits p then .withdrawn
  else .none

end Sys2Proof.Machine
end

