-- ==== Sys2Proof/Machine/Operands.lean ====
section
/-! DEFINITION. The fields of a request payload (R191, R193); none is BAD_FIELD. -/

namespace Sys2Proof.Machine

/-- A byte that names one of `n` numbered things, if it does. -/
def finOfByte (n : Nat) (b : Byte) : Option (Fin n) :=
  if h : b.toNat < n then some ⟨b.toNat, h⟩ else none

/-- A byte that is a set of `n` things, unless it has a bit above them set (R191). -/
def setOfByte (n : Nat) (b : Byte) : Option (BitVec n) :=
  if b.toNat < 2 ^ n then some (b.setWidth n) else none

/-- What a STEP asks for (R16). -/
inductive StepTarget where
  | absolute (t : Nat)
  | offset (d : Int)
deriving DecidableEq, Repr

/-- The fields of a STEP: mode, sign, 6-byte value. In mode ABSOLUTE the sign is not examined (R16). -/
def decodeStep (pl : List Byte) : Option StepTarget :=
  if byteAt pl 0 = 0 then some (.absolute (natAt pl 2 6))
  else if byteAt pl 0 = 1 then
    if byteAt pl 1 = 0 then some (.offset (natAt pl 2 6))
    else if byteAt pl 1 = 1 then some (.offset (-(natAt pl 2 6 : Int)))
    else none
  else none

/-- The Now a STEP leads to, if it lies within 0 to 2^48-1 (R16 check 4). -/
def StepTarget.newNow (target : StepTarget) (now : Nat) : Option Nat :=
  match target with
  | .absolute t => if t ≤ maxNow then some t else none
  | .offset d =>
    if 0 ≤ (now : Int) + d ∧ (now : Int) + d ≤ maxNow then some ((now : Int) + d).toNat else none

/-- The fields of a SLEW (R11). -/
structure SlewFields where
  rate : Int
  duration : Nat
deriving DecidableEq, Repr

/-- A rate outside -1000 to 1000, or a non-zero rate with duration 0, is refused (R11). -/
def decodeSlew (pl : List Byte) : Option SlewFields :=
  let rate := signed16 (natAt pl 0 2)
  let duration := natAt pl 2 2
  if rate < -1000 ∨ 1000 < rate then none
  else if rate ≠ 0 ∧ duration = 0 then none
  else some { rate := rate, duration := duration }

/-- The fields of an ENTRY_ADD (02, section 2.6). -/
structure AddFields where
  trigger : Trigger
  time : Nat
  input : Option InputIx
  allowLate : Bool
  period : Nat
  repeats : Nat
  stepPolicy : StepPolicy
  orphanPolicy : OrphanPolicy
  notify : Bool
  label : Option (BitVec 16)
  actions : List LineAction
deriving DecidableEq, Repr

/-- The largest PULSE width (R35). -/
def maxWidth : Nat := 1048575

/-- One line action of an ENTRY_ADD payload (R35): the width is examined for a PULSE only. -/
def decodeAction (pl : List Byte) (j : Nat) : Option LineAction := do
  let off := 22 + 5 * j
  let line ← finOfByte 16 (byteAt pl off)
  let kind ← ActionKind.ofByte (byteAt pl (off + 1))
  match kind with
  | .pulse =>
    let w := natAt pl (off + 2) 3
    if 1 ≤ w ∧ w ≤ maxWidth then some { line := line, kind := kind, width := some w } else none
  | .assert | .release | .invert => some { line := line, kind := kind, width := none }

/-- The fields of an ENTRY_ADD payload that passes check 3 of R34 (R35, R191, R193). -/
def decodeAdd (pl : List Byte) : Option AddFields := do
  let trigger ← Trigger.ofByte (byteAt pl 0)
  let time := natAt pl 1 6
  let input ←
    match trigger with
    | .onCapture => (finOfByte 4 (byteAt pl 7)).map some
    | .absolute | .offset => some none
  let allowLate ←
    match trigger with
    | .absolute => boolOfByte (byteAt pl 8)
    | .offset | .onCapture => some false
  let stepPolicy ← StepPolicy.ofByte (byteAt pl 15)
  let orphanPolicy ← OrphanPolicy.ofByte (byteAt pl 16)
  let notify ← boolOfByte (byteAt pl 17)
  let labelled ← boolOfByte (byteAt pl 18)
  let count := (byteAt pl 21).toNat
  if trigger = .onCapture ∧ 4294967295 < time then none
  else if 4 < count ∨ pl.length ≠ 22 + 5 * count then none
  else
    let actions ← (List.range count).mapM (decodeAction pl)
    if ¬ (actions.map LineAction.line).Nodup then none
    else if count = 0 ∧ notify = false then none
    else
      some
        { trigger := trigger, time := time, input := input, allowLate := allowLate,
          period := natAt pl 9 4, repeats := natAt pl 13 2, stepPolicy := stepPolicy,
          orphanPolicy := orphanPolicy, notify := notify,
          label := if labelled then some (BitVec.ofNat 16 (natAt pl 19 2)) else none,
          actions := actions }

/-- The fields of a SET_QUOTA (R47). -/
def decodeQuota (pl : List Byte) : Option (Port × Nat) := do
  let q ← finOfByte 3 (byteAt pl 0)
  if (byteAt pl 1).toNat ≤ 64 then some (q, (byteAt pl 1).toNat) else none

/-- The fields of a SET_LINE_POLICY (R90). -/
structure PolicyFields where
  line : LineIx
  writerMask : PortSet
  mode : LineMode
  polarity : Polarity
deriving DecidableEq, Repr

/-- Check 1 of R90. -/
def decodePolicy (pl : List Byte) : Option PolicyFields := do
  let line ← finOfByte 16 (byteAt pl 0)
  let mask ← setOfByte 3 (byteAt pl 1)
  let mode ← LineMode.ofByte (byteAt pl 2)
  let polarity ← Polarity.ofByte (byteAt pl 3)
  some { line := line, writerMask := mask, mode := mode, polarity := polarity }

/-- The fields of a FORCE_LINE (R94); the value NONE is `none`. -/
def decodeForce (pl : List Byte) : Option (LineIx × Option Level) := do
  let line ← finOfByte 16 (byteAt pl 0)
  let value ← forceOfByte (byteAt pl 1)
  some (line, value)

/-- A lease in 2 bytes, 1 to 65,535 (R106, R111). -/
def decodeLease (pl : List Byte) : Option Nat :=
  if natAt pl 0 2 = 0 then none else some (natAt pl 0 2)

/-- The fields of a CLAIM: lease and urgency (R106 check 1). -/
def decodeClaim (pl : List Byte) : Option (Nat × Bool) := do
  let lease ← decodeLease pl
  let urgent ← boolOfByte (byteAt pl 2)
  some (lease, urgent)

/-- The fields of a SET_CAPTURE (R127). -/
structure CaptureFields where
  input : InputIx
  edge : EdgeSetting
  holdoff : Nat
deriving DecidableEq, Repr

/-- An input above 3 or an edge that is not named is refused (R127). -/
def decodeCapture (pl : List Byte) : Option CaptureFields := do
  let input ← finOfByte 4 (byteAt pl 0)
  let edge ← EdgeSetting.ofByte (byteAt pl 1)
  some { input := input, edge := edge, holdoff := natAt pl 2 2 }

/-- The max of a READ_CAPTURES or a FETCH_NOTICES, 1 to 4 (R138, R152). -/
def decodeMax (pl : List Byte) : Option Nat :=
  if 1 ≤ (byteAt pl 0).toNat ∧ (byteAt pl 0).toNat ≤ 4 then some (byteAt pl 0).toNat else none

end Sys2Proof.Machine
end

