-- ==== Sys2Proof/Machine/Authority.lean ====
section
/-! DEFINITION. The requests of the authority unit: CLAIM, RELEASE, RENEW, QUERY_AUTHORITY, SET_GRACE (05). -/

namespace Sys2Proof.Machine

/-- A CLAIM is granted in VACANT (R107). -/
def State.grantClaim (s : State) (p : Port) (ticket : BitVec 16) (lease : Nat) : State :=
  (((s.mapAuthority fun a =>
      { a with tenure := some { port := p, leaseRemaining := lease } }).clearForces).postWhere
    (fun q => q ≠ p) (.authorityChanged (some p) .claim)).answer p ticket .granted
      (leBytes 2 lease ++ [s.authority.rank.code])

/-- A CLAIM that would make a demand: HELD, urgent and strictly outranking (R108 step 2). -/
def Authority.demandsOf (a : Authority) (holder p : Port) (urgent : Bool) : Bool :=
  a.demand.isNone && urgent && a.rank.outranks p holder

/-- A CLAIM joins the queue behind a holder (R108). -/
def State.queueClaim (s : State) (p : Port) (ticket : BitVec 16) (w : WaiterRec) (holder : Port) :
    State :=
  let made := s.authority.demandsOf holder p w.urgent
  let queue := joinQueue w s.authority.waiters
  let s1 :=
    if made then
      (s.mapAuthority fun a =>
        { a with
          waiters := queue
          demand := some { port := p, graceRemaining := a.graceSetting } }).post holder
            (.yieldDemanded p s.authority.graceSetting)
    else
      (s.mapAuthority fun a => { a with waiters := queue }).post holder
        (.authorityWanted p w.urgent queue.length)
  s1.answer p ticket .queued
    [natByte (queue.findIdx (fun x => x.port = p) + 1), boolByte made, portByte (some holder),
      s.authority.rank.code]

/-- CLAIM is taken (R106 to R108). -/
def State.claimTaken (p : Port) (payload : List Byte) (ticket : BitVec 16) (s : State) : State :=
  match decodeClaim payload with
  | none => s.refuse p ticket .badField
  | some (lease, urgent) =>
    match s.holder with
    | none =>
      if s.authority.waits p then s.refuse p ticket .alreadyWaiting
      else s.grantClaim p ticket lease
    | some h =>
      if h = p then s.refuse p ticket .alreadyHolder
      else if s.authority.waits p then s.refuse p ticket .alreadyWaiting
      else s.queueClaim p ticket { port := p, lease := lease, urgent := urgent } h

/-- CLAIM (R106). -/
def execClaim (a : Arrival) (tag : Byte) (payload : List Byte) (s : State) : Result :=
  .next (s.request .claim a.port a.lags tag payload (State.claimTaken a.port payload))

/-- RELEASE is taken (R109, R110). -/
def State.releaseTaken (p : Port) (ticket : BitVec 16) (s : State) : State :=
  if s.holder = some p then
    let s1 := s.fillVacancy p .released
    s1.answer p ticket .ok [portByte s1.holder]
  else if s.authority.waits p then (s.withdraw p).answer p ticket .withdrawn []
  else s.refuse p ticket .notHolder

/-- RELEASE (R109, R110). -/
def execRelease (a : Arrival) (tag : Byte) (payload : List Byte) (s : State) : Result :=
  .next (s.request .release a.port a.lags tag payload (State.releaseTaken a.port))

/-- RENEW is taken (R111). -/
def State.renewTaken (p : Port) (payload : List Byte) (ticket : BitVec 16) (s : State) : State :=
  match decodeLease payload with
  | none => s.refuse p ticket .badField
  | some lease =>
    if s.holder ≠ some p then s.refuse p ticket .notHolder
    else if s.authority.state ≠ .held then s.refuse p ticket .yieldPending
    else
      (s.mapAuthority fun a =>
        { a with tenure := some { port := p, leaseRemaining := lease } }).answer p ticket .ok
          (leBytes 2 lease)

/-- RENEW (R111). -/
def execRenew (a : Arrival) (tag : Byte) (payload : List Byte) (s : State) : Result :=
  .next (s.request .renew a.port a.lags tag payload (State.renewTaken a.port payload))

/-- One waiter record of QUERY_AUTHORITY, 00h when unused (R193). -/
def waiterBytes (w : Option WaiterRec) : List Byte :=
  match w with
  | some x => [natByte x.port.val] ++ leBytes 2 x.lease ++ [boolByte x.urgent]
  | none => [0, 0, 0, 0]

/-- The response payload of a QUERY_AUTHORITY (R123, R193). -/
def Authority.payload (a : Authority) : List Byte :=
  [a.state.code, portByte a.holder]
  ++ leBytes 2 ((a.tenure.map Tenure.leaseRemaining).getD 0)
  ++ [natByte a.waiters.length] ++ waiterBytes a.waiters[0]? ++ waiterBytes a.waiters[1]?
  ++ [portByte (a.demand.map Demand.port), natByte ((a.demand.map Demand.graceRemaining).getD 0),
    natByte a.graceSetting, a.rank.code]

/-- QUERY_AUTHORITY is taken (R123). -/
def State.queryAuthorityTaken (p : Port) (ticket : BitVec 16) (s : State) : State :=
  s.answer p ticket .ok s.authority.payload

/-- QUERY_AUTHORITY (R123). -/
def execQueryAuthority (a : Arrival) (tag : Byte) (payload : List Byte) (s : State) : Result :=
  .next (s.request .queryAuthority a.port a.lags tag payload (State.queryAuthorityTaken a.port))

/-- SET_GRACE is taken from the holder (R122). -/
def State.graceTaken (p : Port) (payload : List Byte) (ticket : BitVec 16) (s : State) : State :=
  let ms := (byteAt payload 0).toNat
  if ms = 0 then s.refuse p ticket .badField
  else
    (s.mapAuthority fun a => { a with graceSetting := ms }).answer p ticket .ok
      [natByte s.authority.graceSetting]

/-- SET_GRACE (R122). -/
def execSetGrace (a : Arrival) (tag : Byte) (payload : List Byte) (s : State) : Result :=
  .next (s.request .setGrace a.port a.lags tag payload fun ticket t =>
    t.privileged a.port ticket (State.graceTaken a.port payload ticket))

end Sys2Proof.Machine
end

