-- ==== Sys2Proof/Machine/ScheduleOps.lean ====
section
/-! DEFINITION. The schedule's own procedures: the due list, freeing an entry, the sweep, one expiry, the step policies, the reorder pass. -/

namespace Sys2Proof.Machine

/-! ### Slots and collections (R23 to R31) -/

/-- The entry of a slot, none when FREE. -/
def Schedule.entryAt (c : Schedule) (i : SlotIx) : Option Entry := (c.slots.get i).entry

/-- The due of a slot's entry, 0 where it has none. -/
def Schedule.dueAt (c : Schedule) (i : SlotIx) : Nat := ((c.entryAt i).bind Entry.due).getD 0

/-- The handle of a slot's entry (R24). -/
def Schedule.handleAt (c : Schedule) (i : SlotIx) : Handle := { slot := i, tag := (c.slots.get i).tag }

/-- Change the entry of a slot. -/
def Schedule.mapEntry (c : Schedule) (i : SlotIx) (f : Entry → Entry) : Schedule :=
  { c with slots := c.slots.upd i fun sl => { sl with entry := sl.entry.map f } }

/-- The lowest-numbered FREE slot (R23). -/
def Schedule.freeSlot (c : Schedule) : Option SlotIx :=
  (indices 64).find? fun i => (c.entryAt i).isNone

/-- Place a slot in a list ordered by a key, after every one of equal key and before the first of
greater key (R30). -/
def placeByKey (key : SlotIx → Nat) (i : SlotIx) : List SlotIx → List SlotIx
  | [] => [i]
  | j :: js => if key i < key j then i :: j :: js else j :: placeByKey key i js

/-- A list put in order by a key, stable (R69). -/
def rebuildByKey (key : SlotIx → Nat) (is : List SlotIx) : List SlotIx :=
  is.foldl (fun acc i => placeByKey key i acc) []

/-- An entry that has its due is placed in the due list (R30); during a pass it is placed into the
pass, after those that stood there at the step (R69, R72). -/
def Schedule.place (c : Schedule) (i : SlotIx) : Schedule :=
  { c with
    dueList :=
      match c.pass with
      | some _ => c.dueList ++ [i]
      | none => placeByKey c.dueAt i c.dueList }

/-- An entry leaves the due list and stops being a member of the sweep (R30, R51). -/
def Schedule.leaveDueList (c : Schedule) (i : SlotIx) : Schedule :=
  { c with
    dueList := c.dueList.filter (· ≠ i)
    sweep := c.sweep.map fun m => m.filter (· ≠ i) }

/-- An entry leaves the waiting list it stands in (R31). -/
def Schedule.leaveWaiting (c : Schedule) (i : SlotIx) : Schedule :=
  { c with waiting := c.waiting.map fun w => w.filter (· ≠ i) }

/-! ### Freeing an entry (R28) -/

/-- Steps 1, 3, 4 and 5 of R28 for an entry of `owner` in a slot. -/
def Schedule.free (c : Schedule) (i : SlotIx) (owner : Port) : Schedule :=
  { (c.leaveDueList i).leaveWaiting i with
    usage := c.usage.upd owner (· - 1)
    slots := c.slots.upd i fun sl => { tag := sl.tag + 1, entry := none } }

/-- Freeing the entry of a slot (R28). -/
def State.freeEntry (s : State) (i : SlotIx) : State :=
  match s.schedule.entryAt i with
  | none => s
  | some e =>
    { s with
      schedule := s.schedule.free i e.owner
      lines := dropRefs e.owner e.actions s.lines }

/-- ENTRY_CANCELLED for an entry that has been freed, unless it was orphaned or cancel_pending (R29). -/
def State.postCancelled (s : State) (e : Entry) (h : Handle) (reason : CancelReason) : State :=
  if e.orphaned || e.cancelPending then s else s.post e.owner (.entryCancelled h e.label reason)

/-- An entry is freed for a cause its owner did not request, and then told (R28, R29). -/
def State.freeAndTell (s : State) (i : SlotIx) (reason : CancelReason) : State :=
  match s.schedule.entryAt i with
  | none => s
  | some e => (s.freeEntry i).postCancelled e (s.schedule.handleAt i) reason

/-! ### The sweep (R51) -/

/-- The head of the due list, if an open sweep may take its expiry: it is a member and due (R51), and
no reorder pass is in flight (R70). -/
def State.sweepHead (s : State) : Option SlotIx :=
  match s.schedule.pass, s.schedule.sweep, s.schedule.dueList with
  | none, some members, i :: _ =>
    if i ∈ members ∧ s.schedule.dueAt i ≤ s.timebase.now then some i else none
  | _, _, _ => none

/-- The sweep closes when its head cannot be taken (R51; log 8 says when this is looked at). -/
def State.closeIfDone (s : State) : State :=
  match s.sweepHead with
  | some _ => s
  | none => s.mapSchedule fun c => { c with sweep := none }

/-- A sweep opens: its members are the entries in the due list (R51, R74). -/
def State.openSweep (s : State) : State :=
  (s.mapSchedule fun c => { c with sweep := some c.dueList }).closeIfDone

/-! ### One expiry (R53 to R61) -/

/-- What becomes of an entry at its expiry. -/
inductive Repetition where
  /-- it is placed again with a new due and repeats_left, having skipped periods -/
  | again (due repeatsLeft skipped : Nat)
  /-- it ends, having skipped periods; for TIME_RANGE or not (R58) -/
  | ends (skipped : Nat) (timeRange : Bool)
deriving DecidableEq, Repr

/-- The next due and the periods to skip: the candidate due + period, moved above Now (R57). -/
def catchUp (due period now : Nat) : Nat × Nat :=
  let candidate := due + period
  if now < candidate then (candidate, 0)
  else
    let k := (now - candidate) / period + 1
    (candidate + k * period, k)

/-- Repetition and catch-up (R55 to R58). -/
def repetition (due period repeatsLeft now : Nat) : Repetition :=
  if period = 0 then .ends 0 false
  else if repeatsLeft = 1 then .ends 0 false
  else
    let next := (catchUp due period now).1
    let k := (catchUp due period now).2
    let left := repeatsLeft - 1
    if repeatsLeft ≠ 0 ∧ left ≤ k then .ends left false
    else if maxNow < next then .ends k true
    else .again next (if repeatsLeft = 0 then 0 else left - k) k

/-- The FIRED notice of an expiry, to an owner that wants it (R60). -/
def State.postFired (s : State) (e : Entry) (h : Handle) (due skipped : Nat)
    (final timeRange : Bool) : State :=
  if e.notify && !e.orphaned then
    s.post e.owner (.fired h e.label due s.timebase.now (s.timebase.now - due)
      (decide (1 < s.timebase.now - due)) (saturate skipped) final timeRange)
  else s

/-- The record of a periodic entry that goes on (R55, R57, R59). -/
def Entry.repeated (e : Entry) (due repeatsLeft skipped : Nat) : Entry :=
  { e with
    due := some due
    repeatsLeft := repeatsLeft
    fired := saturate (e.fired + 1)
    missed := saturate (e.missed + skipped) }

/-- The expiry of the entry `e` of a slot (R53 to R61): it leaves the due list, its line actions are
sent, and it repeats or ends. An entry that ends posts FIRED and is freed, or, with notify no and the
reason TIME_RANGE, is freed and posts ENTRY_CANCELLED (R58, R61). -/
def State.expireEntry (s : State) (i : SlotIx) (e : Entry) : State :=
  let h := s.schedule.handleAt i
  let due := s.schedule.dueAt i
  let s1 := (s.mapSchedule fun c => c.leaveDueList i).lineActions h e
  match repetition due e.period e.repeatsLeft s.timebase.now with
  | .again next left skipped =>
    (s1.mapSchedule fun c => (c.mapEntry i fun x => x.repeated next left skipped).place i).postFired
      e h due skipped false false
  | .ends skipped timeRange =>
    let s2 := (s1.postFired e h due skipped true timeRange).freeEntry i
    if timeRange && !e.notify then s2.postCancelled e h .timeRange else s2

/-- The expiry that an open sweep takes next, or the close of a sweep that is done (R51, R53). -/
def State.takeExpiry (s : State) : State :=
  match s.sweepHead with
  | none => s.closeIfDone
  | some i =>
    match s.schedule.entryAt i with
    | none => s.closeIfDone
    | some e => (s.expireEntry i e).closeIfDone

/-! ### Step policies and the pass (R63 to R74) -/

/-- One entry meets its step policy (R63 to R66); the count is the pass's cancelled count. -/
def meetPolicy (delta : Int) (acc : State × Nat) (i : SlotIx) : State × Nat :=
  match acc.1.schedule.entryAt i with
  | none => acc
  | some e =>
    match e.state with
    | .waiting => acc
    | .scheduled | .held =>
      match e.stepPolicy with
      | .keep => acc
      | .drop => (acc.1.freeAndTell i .step, acc.2 + 1)
      | .shift =>
        let due := (acc.1.schedule.dueAt i : Int) + delta
        if 0 ≤ due ∧ due ≤ maxNow then
          (acc.1.mapSchedule fun c => c.mapEntry i fun x => { x with due := some due.toNat }, acc.2)
        else (acc.1.freeAndTell i .stepRange, acc.2 + 1)

/-- The schedule is told of a step (R63): the policies in ascending slot order, the sweep closed
(R52), the pass begun. -/
def State.scheduleStep (s : State) (stepper : Waiter) (oldNow newNow : Nat) : State :=
  let r := (indices 64).foldl (meetPolicy ((newNow : Int) - (oldNow : Int))) (s, 0)
  r.1.mapSchedule fun c =>
    { c with
      sweep := none
      pass := some
        { stepper := stepper, oldNow := oldNow, newNow := newNow, cancelled := r.2,
          advanced := false, age := 0 } }

/-- An advance of Now is told to the schedule (R51, R70). -/
def State.tellAdvance (s : State) : State :=
  match s.schedule.pass with
  | some a => s.mapSchedule fun c => { c with pass := some { a with advanced := true } }
  | none => s.openSweep

/-- The slots whose entry a test selects, in ascending order. -/
def Schedule.slotsWhere (c : Schedule) (test : Entry → Bool) : List SlotIx :=
  (indices 64).filter fun i => ((c.entryAt i).map test).getD false

/-- Free each slot of a list, in its order, with no notice. -/
def State.freeAll (s : State) (is : List SlotIx) : State := is.foldl State.freeEntry s

/-- The completion event of the pass (R74): the STEP is answered (R18), the cancel_pending entries are
freed, the due list is put in order, and a completion sweep may open. -/
def State.completePass (s : State) : State :=
  match s.schedule.pass with
  | none => s
  | some a =>
    let s1 := s.answer a.stepper.port a.stepper.ticket .ok
      (leBytes 6 a.oldNow ++ leBytes 6 a.newNow ++ wordBytes s.timebase.epoch
        ++ [natByte a.cancelled])
    let s2 := s1.freeAll (s.schedule.slotsWhere Entry.cancelPending)
    let s3 := s2.mapSchedule fun c =>
      { c with pass := none, dueList := rebuildByKey c.dueAt c.dueList }
    if a.advanced || s.timebase.state ≠ .stopped then s3.openSweep else s3

/-- The pass has lasted as long as R69 allows, so its completion comes before anything more of
reference time (log 6). -/
def State.passOverdue (s : State) : Bool :=
  match s.schedule.pass with
  | some a => Config.passBound ≤ a.age
  | none => false

/-! ### Capture hand-over (R32, R72) -/

/-- One waiting entry is taken by a hand-over at a stamp (R32): scheduled at stamp plus
capture_offset, or freed for TIME_RANGE. -/
def State.handOverOne (stamp : Nat) (s : State) (i : SlotIx) : State :=
  match s.schedule.entryAt i with
  | none => s
  | some e =>
    let due := stamp + e.captureOffset.getD 0
    if maxNow < due then s.freeAndTell i .timeRange
    else
      s.mapSchedule fun c =>
        (c.mapEntry i fun x => { x with due := some due, state := .scheduled }).place i

/-- The schedule takes the waiting list of an input, first to last (R32). -/
def State.handOver (s : State) (input : InputIx) (stamp : Nat) : State :=
  (s.schedule.waiting.get input).foldl (State.handOverOne stamp)
    (s.mapSchedule fun c => { c with waiting := c.waiting.set input [] })

/-! ### Detach and attach (R50, R73) -/

/-- One entry of a detaching port meets its orphan policy (R50; during a pass R73). -/
def State.orphanOne (s : State) (i : SlotIx) : State :=
  match s.schedule.entryAt i with
  | none => s
  | some e =>
    match e.orphanPolicy with
    | .continue => s.mapSchedule fun c => c.mapEntry i fun x => { x with orphaned := true }
    | .cancel =>
      match s.schedule.pass with
      | some _ => s.mapSchedule fun c => c.mapEntry i fun x => { x with cancelPending := true }
      | none => s.freeEntry i

/-- The schedule's part of the detach of port `p` (R50, R182 part 5). -/
def State.orphanEntries (s : State) (p : Port) : State :=
  (s.schedule.slotsWhere fun e => e.owner = p).foldl State.orphanOne s

/-- An orphan of `p` that an ATTACH re-adopts (R50, R179). -/
def Entry.readoptable (p : Port) (e : Entry) : Bool :=
  e.owner = p && e.orphaned && !e.cancelPending

/-- The schedule's part of the ATTACH of port `p` (R179 part 3). -/
def Schedule.readopt (c : Schedule) (p : Port) : Schedule :=
  { c with
    slots := c.slots.map fun sl =>
      { sl with
        entry := sl.entry.map fun e =>
          if e.readoptable p then { e with orphaned := false } else e } }

/-- How many entries a test selects. -/
def Schedule.count (c : Schedule) (test : Entry → Bool) : Nat := (c.slotsWhere test).length

end Sys2Proof.Machine
end

