-- ==== Sys2Proof/Machine/CaptureOps.lean ====
section
/-! DEFINITION. The capture unit's procedures: an accepted edge with its hand-over and its record, and leaving reader sets. -/

namespace Sys2Proof.Machine

/-- The room of the capture log (R135). -/
def logRoom : Nat := 32

/-- An edge of a direction is accepted by an input (R129). -/
def CaptureInput.accepts (c : CaptureInput) (d : Edge) : Bool := c.edge.isFor d && c.holdoffElapsed

/-- The capture that an accepted edge makes, before its reader set is known (R130, R131). -/
def State.newCapture (s : State) (i : InputIx) (d : Edge) : CaptureRecord :=
  { seq := s.capture.sequence + 1
    input := i
    edge := d
    stamp := s.timebase.now
    stopped := decide (s.timebase.state = .stopped)
    epoch := s.timebase.epoch
    readers := portsWhere fun p => s.attached p && hasBit (s.capture.subscriptions.get p) i }

/-- The CAPTURE_TRIGGERED of an entry that a hand-over scheduled (R132), by the record the entry had
before and the due it was given. -/
def State.postTriggered (r : CaptureRecord) (before : Schedule) (s : State) (i : SlotIx) : State :=
  match before.entryAt i with
  | none => s
  | some e =>
    let due := r.stamp + e.captureOffset.getD 0
    if due ≤ maxNow && e.notify && !e.orphaned && !e.cancelPending then
      s.post e.owner (.captureTriggered (before.handleAt i) e.label r.input r.seq r.stamp due)
    else s

/-- The hand-over of a capture and its notices: those of the schedule first, then CAPTURE_TRIGGERED
in waiting-list order (R132). -/
def State.handOverCapture (s : State) (r : CaptureRecord) : State :=
  (s.schedule.waiting.get r.input).foldl (State.postTriggered r s.schedule)
    (s.handOver r.input r.stamp)

/-- The members of a port set, in ascending order. -/
def members (m : PortSet) : List Port := allPorts.filter fun p => hasBit m p

/-- A record is dropped (R133). -/
def State.dropCapture (s : State) (r : CaptureRecord) (reason : DropReason) : State :=
  s.postAll (members r.readers)
    (.captureDropped r.input r.edge r.seq r.stamp r.stopped r.epoch reason)

/-- A record is appended to the log, and each reader whose owed count was 0 is told (R134). -/
def State.appendCapture (s : State) (r : CaptureRecord) : State :=
  (s.mapCapture fun c => { c with log := c.log ++ [r] }).postWhere
    (fun p => hasBit r.readers p && s.capture.owed p = 0) (.captureAvailable r.input r.seq 1)

/-- The fate of a record (R133). -/
def State.storeCapture (s : State) (r : CaptureRecord) : State :=
  if r.readers = 0 then s
  else if logRoom ≤ s.capture.log.length then s.dropCapture r .logFull
  else if s.capture.log.any fun x => x.seq = r.seq then s.dropCapture r .sequenceInUse
  else s.appendCapture r

/-- An accepted edge (R129 to R135), as one event: number, stamp, hand-over, record. -/
def State.acceptEdge (s : State) (i : InputIx) (d : Edge) : State :=
  let r := s.newCapture i d
  let s1 := s.mapCapture fun c =>
    { c with
      sequence := r.seq
      inputs := c.inputs.upd i fun x => { x with level := levelAfter d, sinceLast := some 0 } }
  (s1.handOverCapture r).storeCapture r

/-- An edge on an input (R126, R129). A pin that does not stand at the level before the edge has no
such edge (log 14). -/
def State.takeEdge (s : State) (i : InputIx) (d : Edge) : State :=
  if (s.capture.inputs.get i).level ≠ levelBefore d then s
  else if (s.capture.inputs.get i).accepts d then s.acceptEdge i d
  else s.mapCapture fun c => { c with inputs := c.inputs.upd i fun x => { x with level := levelAfter d } }

/-- A record without one of its readers; none when no reader is left (R135). -/
def CaptureRecord.readBy (p : Port) (r : CaptureRecord) : Option CaptureRecord :=
  let m := dropBit r.readers p
  if m = 0 then none else some { r with readers := m }

/-- A port leaves the reader sets of the records that a test selects (R136, R142). -/
def Capture.leave (c : Capture) (p : Port) (test : CaptureRecord → Bool) : Capture :=
  { c with
    log := c.log.filterMap fun r =>
      if hasBit r.readers p && test r then r.readBy p else some r }

/-- The oldest records owed to a port, up to a number of them (R139). -/
def Capture.oldestOwed (c : Capture) (p : Port) (max : Nat) : List CaptureRecord :=
  (c.log.filter fun r => hasBit r.readers p).take max

/-- The log after a port has read its oldest records, up to a number of them (R139). -/
def consume (p : Port) : Nat → List CaptureRecord → List CaptureRecord
  | _, [] => []
  | 0, rs => rs
  | n + 1, r :: rs =>
    if hasBit r.readers p then (r.readBy p).toList ++ consume p n rs else r :: consume p (n + 1) rs

/-- The capture unit's part of the detach of port `p` (R142). -/
def Capture.detach (c : Capture) (p : Port) : Capture :=
  { c.leave p (fun _ => true) with subscriptions := c.subscriptions.set p 0 }

end Sys2Proof.Machine
end

