-- ==== Sys2Proof/Machine/Capture.lean ====
section
/-! DEFINITION. The requests of the capture unit: SET_CAPTURE, SUBSCRIBE, READ_CAPTURES (06). -/

namespace Sys2Proof.Machine

/-- SET_CAPTURE is taken from the holder (R127). -/
def State.setCaptureTaken (p : Port) (payload : List Byte) (ticket : BitVec 16) (s : State) : State :=
  match decodeCapture payload with
  | none => s.refuse p ticket .badField
  | some f =>
    let old := s.capture.inputs.get f.input
    (s.mapCapture fun c =>
      { c with
        inputs := c.inputs.upd f.input fun x =>
          { x with edge := f.edge, holdoff := f.holdoff } }).answer p ticket .ok
      ([old.edge.code] ++ leBytes 2 old.holdoff)

/-- SET_CAPTURE (R127). -/
def execSetCapture (a : Arrival) (tag : Byte) (payload : List Byte) (s : State) : Result :=
  .next (s.request .setCapture a.port a.lags tag payload fun ticket t =>
    t.privileged a.port ticket (State.setCaptureTaken a.port payload ticket))

/-- A new subscription of a port: it leaves the reader sets of the inputs it drops (R136). -/
def Capture.resubscribe (c : Capture) (p : Port) (new : InputSet) : Capture :=
  { c.leave p (fun r => hasBit (c.subscriptions.get p) r.input && !hasBit new r.input) with
    subscriptions := c.subscriptions.set p new }

/-- SUBSCRIBE is taken (R136). -/
def State.subscribeTaken (p : Port) (payload : List Byte) (ticket : BitVec 16) (s : State) : State :=
  match setOfByte 4 (byteAt payload 0) with
  | none => s.refuse p ticket .badField
  | some new =>
    let after := s.capture.resubscribe p new
    (s.mapCapture fun _ => after).answer p ticket .ok
      [setByte (s.capture.subscriptions.get p), setByte new, natByte (after.owed p)]

/-- SUBSCRIBE (R136). -/
def execSubscribe (a : Arrival) (tag : Byte) (payload : List Byte) (s : State) : Result :=
  .next (s.request .subscribe a.port a.lags tag payload (State.subscribeTaken a.port payload))

/-- The response payload of a READ_CAPTURES (R139, R193). -/
def Capture.readPayload (c : Capture) (p : Port) (max : Nat) (after : Capture) : List Byte :=
  [natByte (c.oldestOwed p max).length, natByte (after.owed p)]
  ++ (c.oldestOwed p max).flatMap captureBytes

/-- READ_CAPTURES is taken (R138, R139). -/
def State.readTaken (p : Port) (payload : List Byte) (ticket : BitVec 16) (s : State) : State :=
  match decodeMax payload with
  | none => s.refuse p ticket .badField
  | some max =>
    let after := { s.capture with log := consume p max s.capture.log }
    (s.mapCapture fun _ => after).answer p ticket .ok (s.capture.readPayload p max after)

/-- READ_CAPTURES (R138, R139). -/
def execReadCaptures (a : Arrival) (tag : Byte) (payload : List Byte) (s : State) : Result :=
  .next (s.request .readCaptures a.port a.lags tag payload (State.readTaken a.port payload))

end Sys2Proof.Machine
end

