-- ==== Sys2Proof/Machine/TimeOps.lean ====
section
/-! DEFINITION. The timebase's procedures: answers to pending STOPs, the slew, the advance, the time end, the step, the reference microsecond. -/

namespace Sys2Proof.Machine

/-- A slew ends (R15): the record becomes absent and the holder, if there is one, is told. -/
def State.endSlew (s : State) (reason : SlewReason) : State :=
  match s.timebase.slew with
  | none => s
  | some sl =>
    let s1 := s.mapTime fun t => { t with slew := none }
    match s.holder with
    | some h => s1.post h (.slewEnded reason sl.remaining)
    | none => s1

/-- Every request in stop_waiters is answered with a status and Now, and the set empties (R5, R7, R9). -/
def State.answerStops (s : State) (status : Status) : State :=
  (s.timebase.stopWaiters.foldl
    (fun t w => t.answer w.port w.ticket status (leBytes 6 s.timebase.now)) s).mapTime
      fun t => { t with stopWaiters := [] }

/-- Whether a port has a STOP in stop_waiters. -/
def Timebase.stopPendingOf (t : Timebase) (p : Port) : Bool := t.stopWaiters.any fun w => w.port = p

/-- The final advance of a STOPPING is over (R7): STOPPED, the STOPs answered OK, the other attached
ports told. -/
def State.stopCompletes (s : State) : State :=
  ((s.mapTime fun t => { t with state := .stopped }).answerStops .ok).postWhere
    (fun p => !s.timebase.stopPendingOf p) (.timebaseState .stopped)

/-- The time end (R9), its four parts in order. -/
def State.timeEnd (s : State) : State :=
  ((((s.mapTime fun t => { t with state := .stopped }).answerStops .ok).endSlew .timeEnd).postWhere
    (fun _ => true) (.timebaseState .timeEnd))

/-- The accumulator after the gain of one slew microsecond (R12). -/
def Slew.gained (sl : Slew) : Nat := sl.accumulator + sl.rate.natAbs

/-- This slew microsecond makes a correction (R12). -/
def Slew.corrects (sl : Slew) : Bool := 1000000 ≤ sl.gained

/-- The advance amount of a microsecond (R3, R12). -/
def advanceAmount (slew : Option Slew) : Nat :=
  match slew with
  | none => 1
  | some sl => if sl.corrects then (if 0 < sl.rate then 2 else 0) else 1

/-- The slew record after one slew microsecond: accumulator (R12), phase and remaining (R13). -/
def Slew.tick (sl : Slew) : Slew :=
  { sl with
    accumulator := if sl.corrects then sl.gained - 1000000 else sl.gained
    phase := if sl.phase + 1 < 1000 then sl.phase + 1 else 0
    remaining := if sl.phase + 1 < 1000 then sl.remaining else sl.remaining - 1 }

/-- Now after one advance, saturating (R3). -/
def Timebase.advancedNow (t : Timebase) : Nat := min (t.now + advanceAmount t.slew) maxNow

/-- A slew that has reached remaining 0 ends with DONE (R13). -/
def State.endSlewIfDone (s : State) : State :=
  match s.timebase.slew with
  | some sl => if sl.remaining = 0 then s.endSlew .done else s
  | none => s

/-- After an advance: the time end (R9), or the end of a STOPPING (R7), or neither. -/
def State.settleState (s : State) : State :=
  if s.timebase.now = maxNow then s.timeEnd
  else if s.timebase.state = .stopping then s.stopCompletes
  else s

/-- One advance, taken in RUNNING or STOPPING (R3, R7, R9, R12, R13). Now moves before the slew's
countdown (log 9). The schedule is told when Now changed or the time end was taken. -/
def State.advance (s : State) : State :=
  let s1 := s.mapTime fun t => { t with now := t.advancedNow, slew := t.slew.map Slew.tick }
  let s2 := s1.endSlewIfDone.settleState
  if s1.timebase.now ≠ s.timebase.now ∨ s1.timebase.now = maxNow then s2.tellAdvance else s2

/-- The dividers at a reference microsecond (R1). -/
def Timebase.divide (t : Timebase) : Timebase :=
  { t with
    refclk := 0
    micros := if t.micros + 1 < 1000 then t.micros + 1 else 0
    msDue := if t.micros + 1 < 1000 then t.msDue else true }

/-- The pass in flight is one reference microsecond older (R69). -/
def Schedule.agePass (c : Schedule) : Schedule :=
  { c with pass := c.pass.map fun a => { a with age := a.age + 1 } }

/-- since_last of an input at a reference microsecond (R128). -/
def CaptureInput.countHoldoff (c : CaptureInput) : CaptureInput :=
  { c with sinceLast := c.sinceLast.map fun n => saturate (n + 1) }

/-- The capture unit's part of a reference microsecond (R128). -/
def Capture.countHoldoffs (c : Capture) : Capture :=
  { c with inputs := c.inputs.map CaptureInput.countHoldoff }

/-- The dividers, the age of the pass and the holdoffs at a reference microsecond. -/
def State.countMicrosecond (s : State) : State :=
  ((s.mapTime Timebase.divide).mapSchedule Schedule.agePass).mapCapture Capture.countHoldoffs

/-- A reference microsecond (R1, R3): an overdue pass has completed before it, as an event of its own
(R69, log 6); the timebase advances in RUNNING and STOPPING; the holdoffs count. -/
def State.microsecond (s : State) : State :=
  let s1 := (if s.passOverdue then s.completePass.noted else s).countMicrosecond
  if s1.timebase.state = .stopped then s1 else s1.advance

/-- The next slew microsecond brings the slew's remaining to 0 (R13). -/
def Timebase.slewRunsOut (t : Timebase) : Bool :=
  match t.slew with
  | some sl => t.state ≠ .stopped && sl.tick.remaining = 0
  | none => false

/-- A step to a new Now is taken (R17): Now and the epoch, the slew's end, TIME_STEPPED, the
schedule, the line unit. -/
def State.takeStep (s : State) (stepper : Waiter) (newNow : Nat) : State :=
  let oldNow := s.timebase.now
  let s1 := (s.mapTime fun t => { t with now := newNow, epoch := t.epoch + 1 }).endSlew .stepped
  let s2 := s1.postWhere (fun q => q ≠ stepper.port)
    (.timeStepped stepper.port oldNow newNow s1.timebase.epoch)
  let s3 := s2.scheduleStep stepper oldNow newNow
  { s3 with lines := s3.lines.map (Line.shiftPulse oldNow newNow) }

end Sys2Proof.Machine
end

