-- ==== Sys2Proof/Machine/SessionOps.lean ====
section
/-! DEFINITION. The detach that DETACH and a port reset share, a port reset, and a full reset (R175, R182, R187, R188). -/

namespace Sys2Proof.Machine

/-- The notice queue's part of a detach (R160). -/
def NoticeQueue.detach (q : NoticeQueue) : NoticeQueue :=
  { q with queue := [], overflow := 0, attention := false }

/-- The detach of port `p` (R182), its five parts in order. -/
def State.detach (s : State) (p : Port) : State :=
  ((((s.mapPort p fun i => { i with session := .detached }).mapQueue p NoticeQueue.detach).mapCapture
    fun c => c.detach p).detachAuthority p).orphanEntries p

/-- The port interface cleared by a port reset, with nPRSTp asserted (R175). -/
def PortIf.clear (i : PortIf) : PortIf :=
  { i with slot := .empty, lastResponse := none, frameFault := .none, inReset := true }

/-- A port reset (R175, R187). The status bytes before it stay noted: a frame that it overlaps is not
taken, and its bytes that began before it show them (R166). During a full reset it adds nothing but
the level of its pin (R188). -/
def State.resetPort (s : State) (p : Port) : State :=
  if s.inFullReset then s.mapPort p fun i => { i with inReset := true }
  else
    let s1 := s.noted
    (if s.attached p then s1.detach p else s1).mapPort p PortIf.clear

/-- The cause that a full reset records (R178): an nRST asserted before the power-on reset has ended
leaves POWER_ON. -/
def State.causeOf (s : State) (cause : ResetCause) : ResetCause :=
  if s.inFullReset ∧ s.resetCause = .powerOn then .powerOn else cause

/-- A full reset begins (R188): every block returns to its reset values; the nPRSTp pins, the levels
of CI0..CI3 and the straps are taken again when it ends. The status bytes before it stay noted, for the
frames that it overlaps (R166, R176). -/
def State.beginReset (s : State) (cause : ResetCause) : State :=
  { s with
    timebase := .reset
    schedule := .reset
    lines := Table.fill 16 .reset
    authority := .reset s.authority.rank
    capture := .reset (s.capture.inputs.map CaptureInput.level)
    notices := Table.fill 3 .reset
    ports := s.ports.map fun i => .reset i.inReset
    trails := s.noted.trails
    resetCause := s.causeOf cause
    inFullReset := true }

/-- A full reset ends (R188): the straps are sampled (R100), the dividers start from 0 (R1) and each
input's level is taken from its pin (R126). A frame that comes after it has not overlapped it. -/
def State.endReset (s : State) (rank1 rank0 : Bool) (levels : InputSet) : State :=
  if s.inFullReset then
    { s with
      inFullReset := false
      trails := Table.fill 3 []
      timebase := { s.timebase with refclk := 0, micros := 0, msDue := false }
      authority := { s.authority with rank := { rank1 := rank1, rank0 := rank0 } }
      capture :=
        { s.capture with
          inputs :=
            Table.ofFn 4 fun i =>
              { s.capture.inputs.get i with
                level := if hasBit levels i then .high else .low } } }
  else s

end Sys2Proof.Machine
end

