-- ==== Sys2Proof/Machine/Events.lean ====
section
/-! DEFINITION. The events of the part itself: the reference clock, the ends of slew, lease and grace, edges, expiries, pulse ends, the completion of a pass; and which of them it takes on its own. -/

namespace Sys2Proof.Machine

/-- REFERENCE_MICROSECOND (R1, R3). -/
def execReferenceMicrosecond (s : State) : Result := .next (s.event State.microsecond)

/-- REFERENCE_MILLISECOND (R112). -/
def execReferenceMillisecond (s : State) : Result := .next (s.event State.millisecond)

/-- SLEW_DONE (R13): the reference microsecond at which the slew's remaining reaches 0, taken whole,
since the slew's end and the advance are one event (R14; log 15). Where the next microsecond does
not bring remaining to 0 there is no such event. -/
def execSlewDone (s : State) : Result :=
  .next (s.event fun t => if t.timebase.slewRunsOut then t.microsecond else t)

/-- LEASE_EXPIRY (R113): the reference millisecond that is due and at which the lease reaches 0, taken
whole (R112, R115; log 15). -/
def execLeaseExpiry (s : State) : Result :=
  .next (s.event fun t =>
    if t.timebase.msDue && t.authority.leaseRunsOut then t.millisecond else t)

/-- GRACE_EXPIRY (R114): the reference millisecond that is due and at which the grace reaches 0, taken
whole (R112, R115; log 15). -/
def execGraceExpiry (s : State) : Result :=
  .next (s.event fun t =>
    if t.timebase.msDue && t.authority.graceRunsOut then t.millisecond else t)

/-- CAPTURE_EDGE (R126, R129). -/
def execCaptureEdge (i : InputIx) (edge : Edge) (s : State) : Result :=
  .next (s.event fun t => t.takeEdge i edge)

/-- EXPIRY (R51, R53). -/
def execExpiry (s : State) : Result := .next (s.event State.takeExpiry)

/-- PULSE_END (R83): the pulse of a line whose end Now has reached ends. -/
def execPulseEnd (line : LineIx) (s : State) : Result :=
  .next (s.event fun t =>
    if (t.lines.get line).pulseDue t.timebase.now then
      t.mapLine line fun l => { l with pulse := none }
    else t)

/-- PASS_COMPLETE (R74). -/
def execPassComplete (s : State) : Result := .next (s.event State.completePass)

/-- The event that the part takes on its own when no command waits (log 3): a millisecond that is due,
a pulse end that is due, the open sweep, an overdue pass, or the reference microsecond that the
tenth REFCLK period completes; none while the tenth period has not passed. -/
def State.ownEvent (s : State) : Option Instr :=
  if s.inFullReset then none
  else if s.timebase.msDue then some .referenceMillisecond
  else
    match (indices 16).find? fun l => (s.lines.get l).pulseDue s.timebase.now with
    | some l => some (.pulseEnd l)
    | none =>
      if s.schedule.sweep.isSome then some .expiry
      else if s.passOverdue then some .passComplete
      else if 9 ≤ s.timebase.refclk then some .referenceMicrosecond
      else none

/-- One REFCLK period passes (R1); the dividers stand still during a full reset (R188). It changes no
status byte, so none is noted. -/
def State.refclkPeriod (s : State) : State :=
  if s.inFullReset then s else s.mapTime fun b => { b with refclk := b.refclk + 1 }

end Sys2Proof.Machine
end

