-- ==== Sys2Proof/Machine/Frames.lean ====
section
/-! DEFINITION. The other frames: BAD_KIND, POLL, REPEAT, FAULTY_FRAME (08). -/

namespace Sys2Proof.Machine

/-- BAD_KIND (R172 check 1): a good REQUEST whose kind code names no kind takes the slot and is
answered BAD_KIND by the port. A code that names a kind is another row's command (log 7). -/
def execBadKind (a : Arrival) (tag kind : Byte) (payload : List Byte) (s : State) : Result :=
  match Kind.ofByte kind with
  | some _ => .refused .notThisCommand
  | none =>
    .next (s.receive a.port a.lags tag kind payload fun ticket t => t.refuse a.port ticket .badKind)

/-- The `n + 1` bytes shifted out by a frame whose type byte showed `status`: that byte, then a frame,
then 00h (R166, R169). -/
def shiftedOut (status frame : List Byte) (n : Nat) : List Byte :=
  (status ++ padTo n frame).take (n + 1)

/-- The pending response is delivered (R169, R170, slot ANSWERED): it becomes the last response. -/
def State.deliver (s : State) (p : Port) (lags : List Nat) (r : Response) (n : Nat) : State :=
  s.frame p (shiftedOut (s.statusBytes p lags 1) r.bytes n) fun i =>
    { i with slot := .empty, lastResponse := some r, frameFault := .none }

/-- An IDLE frame reports the frame fault and the slot state, and the fault clears (R169, R170). -/
def State.shiftIdle (s : State) (p : Port) (lags : List Nat) (n : Nat) : State :=
  s.frame p
    (shiftedOut (s.statusBytes p lags 1)
      (idleFrame (s.ports.get p).frameFault (s.ports.get p).slot) n)
    fun i => { i with frameFault := .none }

/-- The last response is shifted out again, and the fault clears (R170, slot EMPTY). -/
def State.shiftLast (s : State) (p : Port) (lags : List Nat) (r : Response) (n : Nat) : State :=
  s.frame p (shiftedOut (s.statusBytes p lags 1) r.bytes n) fun i => { i with frameFault := .none }

/-- A POLL is taken (R169). -/
def State.pollTaken (s : State) (p : Port) (lags : List Nat) (n : Nat) : State :=
  match (s.ports.get p).slot with
  | .answered _ r => s.deliver p lags r n
  | .empty | .working _ => s.shiftIdle p lags n

/-- POLL (R169); the values of the clocked bytes are not examined (R162). -/
def execPoll (a : Arrival) (clocked : List Byte) (s : State) : Result :=
  .next
    (if s.blocked a.port then s.pollNotTaken a.port a.lags clocked.length
      else s.pollTaken a.port a.lags clocked.length)

/-- A REPEAT is taken (R170). -/
def State.repeatTaken (s : State) (p : Port) (lags : List Nat) (n : Nat) : State :=
  match (s.ports.get p).slot with
  | .answered _ r => s.deliver p lags r n
  | .working _ => s.shiftIdle p lags n
  | .empty =>
    match (s.ports.get p).lastResponse with
    | some r => s.shiftLast p lags r n
    | none => s.shiftIdle p lags n

/-- REPEAT (R170). -/
def execRepeat (a : Arrival) (clocked : List Byte) (s : State) : Result :=
  .next
    (if s.blocked a.port then s.pollNotTaken a.port a.lags clocked.length
      else s.repeatTaken a.port a.lags clocked.length)

/-- The bytes shifted out during a faulty frame of `n` bytes (R164, R166): 00h after the type byte
where the type is unknown. -/
def State.faultyShift (s : State) (p : Port) (lags : List Nat) (f : FrameFault) (n : Nat) :
    List Byte :=
  if f = .unknownType then shiftedOut (s.statusBytes p lags 1) [] (n - 1)
  else s.statusBytes p lags n

/-- A faulty frame records its fault and changes nothing else in the port interface (R164). -/
def State.recordFault (s : State) (p : Port) (lags : List Nat) (f : FrameFault) (n : Nat) : State :=
  s.frame p (s.faultyShift p lags f n) fun i => { i with frameFault := f }

/-- FAULTY_FRAME (R164): the tests of R164 name the fault. No whole byte is no frame (R161); the bytes
of a good frame are another row's command (log 7). -/
def execFaultyFrame (a : Arrival) (bytes : List Byte) (s : State) : Result :=
  match judgeFrame bytes with
  | .noFrame => .next s
  | .good => .refused .notThisCommand
  | .faulty f =>
    .next
      (if s.blocked a.port then s.frameNotTaken a.port (s.faultyShift a.port a.lags f bytes.length)
        else s.recordFault a.port a.lags f bytes.length)

end Sys2Proof.Machine
end

