-- ==== Sys2Proof/Machine/Lines.lean ====
section
/-! DEFINITION. The requests of the line unit: LINE_QUERY, SET_LINE_POLICY, FORCE_LINE (04). -/

namespace Sys2Proof.Machine

/-- LINE_QUERY is taken (R97). -/
def State.lineQueryTaken (p : Port) (payload : List Byte) (ticket : BitVec 16) (s : State) : State :=
  match finOfByte 16 (byteAt payload 0) with
  | none => s.refuse p ticket .badField
  | some l => s.answer p ticket .ok (lineRecord s.timebase.now (s.lines.get l))

/-- LINE_QUERY (R97). -/
def execLineQuery (a : Arrival) (tag : Byte) (payload : List Byte) (s : State) : Result :=
  .next (s.request .lineQuery a.port a.lags tag payload (State.lineQueryTaken a.port payload))

/-- A line under a new policy (R91, R92). -/
def Line.setPolicy (f : PolicyFields) (l : Line) : Line :=
  { l with
    writerMask := f.writerMask
    mode := f.mode
    polarity := f.polarity
    exclHolder := l.holderAfter f.mode }

/-- SET_LINE_POLICY is taken from the holder (R90). -/
def State.policyTaken (p : Port) (payload : List Byte) (ticket : BitVec 16) (s : State) : State :=
  match decodePolicy payload with
  | none => s.refuse p ticket .badField
  | some f =>
    let l := s.lines.get f.line
    if l.mode = .shared ∧ f.mode = .exclusive ∧ 1 < l.referencingPorts then
      s.refuse p ticket .lineInUse
    else
      (s.mapLine f.line (Line.setPolicy f)).answer p ticket .ok
        [setByte l.writerMask, l.mode.code, l.polarity.code, portByte (l.holderAfter f.mode)]

/-- SET_LINE_POLICY (R90). -/
def execSetLinePolicy (a : Arrival) (tag : Byte) (payload : List Byte) (s : State) : Result :=
  .next (s.request .setLinePolicy a.port a.lags tag payload fun ticket t =>
    t.privileged a.port ticket (State.policyTaken a.port payload ticket))

/-- A line with a force that a port sets, or with none (R94). -/
def Line.setForce (p : Port) (value : Option Level) (l : Line) : Line :=
  { l with force := value.map fun v => { level := v, port := p } }

/-- FORCE_LINE is taken from the holder (R94). -/
def State.forceTaken (p : Port) (payload : List Byte) (ticket : BitVec 16) (s : State) : State :=
  match decodeForce payload with
  | none => s.refuse p ticket .badField
  | some (line, value) =>
    let l := s.lines.get line
    let after := l.setForce p value
    (s.mapLine line (Line.setForce p value)).answer p ticket .ok
      [forceCode (l.force.map Force.level), after.output.code, after.pin.code]

/-- FORCE_LINE (R94). -/
def execForceLine (a : Arrival) (tag : Byte) (payload : List Byte) (s : State) : Result :=
  .next (s.request .forceLine a.port a.lags tag payload fun ticket t =>
    t.privileged a.port ticket (State.forceTaken a.port payload ticket))

end Sys2Proof.Machine
end

