-- ==== Sys2Proof/Machine/Notices.lean ====
section
/-! DEFINITION. The requests of the notice queue: SET_ATTENTION, FETCH_NOTICES, ACK_NOTICES (07). -/

namespace Sys2Proof.Machine

/-- SET_ATTENTION is taken (R157). -/
def State.attentionTaken (p : Port) (payload : List Byte) (ticket : BitVec 16) (s : State) : State :=
  match boolOfByte (byteAt payload 0) with
  | none => s.refuse p ticket .badField
  | some on =>
    (s.mapQueue p fun q => { q with attention := on }).answer p ticket .ok
      [boolByte (s.notices.get p).attention]

/-- SET_ATTENTION (R157). -/
def execSetAttention (a : Arrival) (tag : Byte) (payload : List Byte) (s : State) : Result :=
  .next (s.request .setAttention a.port a.lags tag payload (State.attentionTaken a.port payload))

/-- The response payload of a FETCH_NOTICES (R152, R193). -/
def NoticeQueue.fetchPayload (q : NoticeQueue) (max : Nat) : List Byte :=
  [natByte (q.queue.take max).length, natByte q.queue.length] ++ wordBytes q.overflow
  ++ (q.queue.take max).flatMap noticeBytes

/-- FETCH_NOTICES is taken (R152); it changes no state but the answer. -/
def State.fetchTaken (p : Port) (payload : List Byte) (ticket : BitVec 16) (s : State) : State :=
  match decodeMax payload with
  | none => s.refuse p ticket .badField
  | some max => s.answer p ticket .ok ((s.notices.get p).fetchPayload max)

/-- FETCH_NOTICES (R152). -/
def execFetchNotices (a : Arrival) (tag : Byte) (payload : List Byte) (s : State) : Result :=
  .next (s.request .fetchNotices a.port a.lags tag payload (State.fetchTaken a.port payload))

/-- The notices after the one of a seq (R153). -/
def noticesAfter (seq : BitVec 16) : List Notice → List Notice
  | [] => []
  | n :: ns => if n.seq = seq then ns else noticesAfter seq ns

/-- The OVERFLOW notice is appended when the set is non-empty, and the set empties (R151). -/
def NoticeQueue.appendOverflow (q : NoticeQueue) (now : Nat) (epoch : BitVec 16) : NoticeQueue :=
  if q.overflow = 0 then q
  else
    { q with
      queue := q.queue ++
        [{ seq := q.nextSeq, stamp := now, epoch := epoch, body := .overflow q.overflow }]
      nextSeq := q.nextSeq + 1
      overflow := 0 }

/-- The queue after an acknowledgement through a seq that it holds (R153). -/
def NoticeQueue.acknowledge (q : NoticeQueue) (seq : BitVec 16) (now : Nat) (epoch : BitVec 16) :
    NoticeQueue :=
  { q with queue := noticesAfter seq q.queue }.appendOverflow now epoch

/-- The response payload of an ACK_NOTICES (R153, R193). -/
def NoticeQueue.ackPayload (q : NoticeQueue) (seq : BitVec 16) (after : NoticeQueue) : List Byte :=
  [natByte (q.queue.length - (noticesAfter seq q.queue).length), natByte after.queue.length,
   boolByte (q.overflow ≠ 0)]
  ++ (if q.overflow = 0 then [0, 0] else wordBytes q.nextSeq)

/-- ACK_NOTICES is taken (R153). -/
def State.ackTaken (p : Port) (payload : List Byte) (ticket : BitVec 16) (s : State) : State :=
  let seq := BitVec.ofNat 16 (natAt payload 0 2)
  let q := s.notices.get p
  if q.queue.any fun n => n.seq = seq then
    let after := q.acknowledge seq s.timebase.now s.timebase.epoch
    (s.mapQueue p fun _ => after).answer p ticket .ok (q.ackPayload seq after)
  else s.refuse p ticket .badSeq

/-- ACK_NOTICES (R153). -/
def execAckNotices (a : Arrival) (tag : Byte) (payload : List Byte) (s : State) : Result :=
  .next (s.request .ackNotices a.port a.lags tag payload (State.ackTaken a.port payload))

end Sys2Proof.Machine
end

