-- ==== Sys2Proof/Machine/Resets.lean ====
section
/-! DEFINITION. The resets: PORT_RESET, PORT_RESET_RELEASE, FULL_RESET, FULL_RESET_END (08, 09). -/

namespace Sys2Proof.Machine

/-- PORT_RESET (R175, R187): nPRSTp is asserted. -/
def execPortReset (p : Port) (s : State) : Result := .next (s.resetPort p)

/-- PORT_RESET_RELEASE (R175, R187): nPRSTp is released; the port takes frames again, detached. A
frame that comes after it has not overlapped the reset. -/
def execPortResetRelease (p : Port) (s : State) : Result :=
  .next ((s.frameEnds p).mapPort p fun i => { i with inReset := false })

/-- FULL_RESET (R188): power is applied or nRST is asserted. -/
def execFullReset (cause : ResetCause) (s : State) : Result := .next (s.beginReset cause)

/-- FULL_RESET_END (R188). -/
def execFullResetEnd (rank1 rank0 : Bool) (levels : InputSet) (s : State) : Result :=
  .next (s.endReset rank1 rank0 levels)

end Sys2Proof.Machine
end

