-- ==== Sys2Proof/Machine/Schedule.lean ====
section
/-! DEFINITION. The requests of the schedule (02). -/

namespace Sys2Proof.Machine

/-- Checks 4 to 10 of R34 on an ENTRY_ADD, in their order: the status of the first that fails. -/
def State.addRefusal (s : State) (p : Port) (f : AddFields) : Option Status :=
  if f.period ≠ 0 ∧ (f.actions.any fun a => a.kind = .pulse && f.period ≤ a.width.getD 0) then
    some .badWidth
  else if f.actions.any fun a => !hasBit (s.lines.get a.line).writerMask p then some .lineDenied
  else if f.actions.any fun a =>
      (s.lines.get a.line).mode = .exclusive && (s.lines.get a.line).exclHolder ≠ none
        && (s.lines.get a.line).exclHolder ≠ some p then
    some .lineInUse
  else if s.schedule.quota.get p ≤ s.schedule.usage.get p then some .quotaExceeded
  else if s.schedule.freeSlot = none then some .tableFull
  else
    match f.trigger with
    | .absolute => if !f.allowLate && f.time ≤ s.timebase.now then some .pastDue else none
    | .offset => if maxNow < s.timebase.now + f.time then some .timeRange else none
    | .onCapture => none

/-- The due of a new entry (R26). -/
def AddFields.due (f : AddFields) (now : Nat) : Option Nat :=
  match f.trigger with
  | .absolute => some f.time
  | .offset => some (now + f.time)
  | .onCapture => none

/-- The state a new entry is born in (R38). -/
def AddFields.state (f : AddFields) : EntryState :=
  match f.trigger with
  | .absolute | .offset => .scheduled
  | .onCapture => .waiting

/-- The record of a new entry (R26, R38 step 2). -/
def AddFields.entry (f : AddFields) (p : Port) (now : Nat) : Entry :=
  { owner := p
    state := f.state
    orphaned := false
    cancelPending := false
    due := f.due now
    trigger := f.trigger
    input := f.input
    captureOffset := if f.trigger = .onCapture then some f.time else none
    period := f.period
    repeatsLeft := if f.period = 0 then 0 else f.repeats
    stepPolicy := f.stepPolicy
    orphanPolicy := f.orphanPolicy
    notify := f.notify
    label := f.label
    actions := f.actions
    fired := 0
    missed := 0 }

/-- A new entry stands in the due list, or in the waiting list of its input (R38 step 5). -/
def Schedule.enlist (c : Schedule) (i : SlotIx) (input : Option InputIx) : Schedule :=
  match input with
  | some n => { c with waiting := c.waiting.upd n (· ++ [i]) }
  | none => c.place i

/-- An entry is created in a slot (R38 steps 2 to 5). -/
def State.createEntry (s : State) (p : Port) (i : SlotIx) (f : AddFields) : State :=
  { s with
    schedule :=
      { s.schedule with
        usage := s.schedule.usage.upd p (· + 1)
        slots := s.schedule.slots.upd i fun sl =>
          { sl with entry := some (f.entry p s.timebase.now) } }.enlist i f.input
    lines := addRefs p f.actions s.lines }

/-- The response payload of an ENTRY_ADD (R38, R193). -/
def State.addPayload (s : State) (i : SlotIx) (f : AddFields) : List Byte :=
  handleBytes (s.schedule.handleAt i) ++ [f.state.code]
  ++ leBytes 6 ((f.due s.timebase.now).getD 0)

/-- ENTRY_ADD is taken (R34, R38). -/
def State.addTaken (p : Port) (payload : List Byte) (ticket : BitVec 16) (s : State) : State :=
  if s.schedule.pass.isSome then s.refuse p ticket .retry
  else
    match decodeAdd payload with
    | none => s.refuse p ticket .badField
    | some f =>
      match s.addRefusal p f, s.schedule.freeSlot with
      | some status, _ => s.refuse p ticket status
      | none, none => s.refuse p ticket .tableFull
      | none, some i => (s.createEntry p i f).answer p ticket .ok (s.addPayload i f)

/-- ENTRY_ADD (R34). -/
def execEntryAdd (a : Arrival) (tag : Byte) (payload : List Byte) (s : State) : Result :=
  .next (s.request .entryAdd a.port a.lags tag payload (State.addTaken a.port payload))

/-- The slot and tag checks of R25 on a handle at the head of a payload. -/
def State.handleCheck (s : State) (p : Port) (payload : List Byte) (ticket : BitVec 16)
    (block : SlotIx → Entry → State) : State :=
  match finOfByte 64 (byteAt payload 0) with
  | none => s.refuse p ticket .badField
  | some i =>
    match s.schedule.entryAt i with
    | none => s.refuse p ticket .staleHandle
    | some e =>
      if (s.schedule.slots.get i).tag = byteAt payload 1 then block i e
      else s.refuse p ticket .staleHandle

/-- Checks 2 to 5 of R39: no pass, slot, tag, owner. -/
def State.ownEntry (s : State) (p : Port) (payload : List Byte) (ticket : BitVec 16)
    (block : SlotIx → Entry → State) : State :=
  if s.schedule.pass.isSome then s.refuse p ticket .retry
  else
    s.handleCheck p payload ticket fun i e =>
      if e.owner = p then block i e else s.refuse p ticket .notOwner

/-- How many lines have a pulse in progress whose source is a handle (R39). -/
def State.pulsesBegun (s : State) (h : Handle) : Nat :=
  (indices 16).countP fun l => (s.lines.get l).pulse.map Pulse.source = some h

/-- ENTRY_CANCEL is taken (R39). Its response carries the entry's handle and label as they stood before
the free (R28), kept beside the payload; the payload is given by the rule of the request (R174): the
four fields of R39 in the 6 bytes of R193 (log 18). -/
def State.cancelTaken (p : Port) (payload : List Byte) (ticket : BitVec 16) (s : State) : State :=
  s.ownEntry p payload ticket fun i e =>
    (s.freeEntry i).answer p ticket .ok
      ([e.state.code] ++ leBytes 2 e.fired ++ leBytes 2 e.missed
        ++ [natByte (s.pulsesBegun (s.schedule.handleAt i))])
      (some { handle := s.schedule.handleAt i, label := e.label })

/-- ENTRY_CANCEL (R39). -/
def execEntryCancel (a : Arrival) (tag : Byte) (payload : List Byte) (s : State) : Result :=
  .next (s.request .entryCancel a.port a.lags tag payload (State.cancelTaken a.port payload))

/-- ENTRY_HOLD is taken (R41). -/
def State.holdTaken (p : Port) (payload : List Byte) (ticket : BitVec 16) (s : State) : State :=
  s.ownEntry p payload ticket fun i e =>
    match e.state with
    | .scheduled =>
      (s.mapSchedule fun c =>
        (c.leaveDueList i).mapEntry i fun x => { x with state := .held }).answer p ticket .ok
          (leBytes 6 (e.due.getD 0))
    | .waiting | .held => s.refuse p ticket .badState

/-- ENTRY_HOLD (R41). -/
def execEntryHold (a : Arrival) (tag : Byte) (payload : List Byte) (s : State) : Result :=
  .next (s.request .entryHold a.port a.lags tag payload (State.holdTaken a.port payload))

/-- ENTRY_RESUME is taken (R42). -/
def State.resumeTaken (p : Port) (payload : List Byte) (ticket : BitVec 16) (s : State) : State :=
  s.ownEntry p payload ticket fun i e =>
    match e.state with
    | .held =>
      (s.mapSchedule fun c =>
        (c.mapEntry i fun x => { x with state := .scheduled }).place i).answer p ticket .ok
          (leBytes 6 (e.due.getD 0) ++ [boolByte (e.due.getD 0 ≤ s.timebase.now)])
    | .scheduled | .waiting => s.refuse p ticket .badState

/-- ENTRY_RESUME (R42). -/
def execEntryResume (a : Arrival) (tag : Byte) (payload : List Byte) (s : State) : Result :=
  .next (s.request .entryResume a.port a.lags tag payload (State.resumeTaken a.port payload))

/-- ENTRY_QUERY is taken (R44): from the owner or the authority holder, in a pass too. -/
def State.entryQueryTaken (p : Port) (payload : List Byte) (ticket : BitVec 16) (s : State) :
    State :=
  s.handleCheck p payload ticket fun i e =>
    if e.owner = p ∨ s.holder = some p then
      s.answer p ticket .ok (entryRecord (s.schedule.handleAt i) e)
    else s.refuse p ticket .notOwner

/-- ENTRY_QUERY (R44). -/
def execEntryQuery (a : Arrival) (tag : Byte) (payload : List Byte) (s : State) : Result :=
  .next (s.request .entryQuery a.port a.lags tag payload (State.entryQueryTaken a.port payload))

/-- A port's number of entries in a state, in a byte (R45). -/
def Schedule.countByte (c : Schedule) (p : Port) (st : EntryState) : Byte :=
  natByte (c.count fun e => e.owner = p && e.state = st)

/-- The response payload of a NEXT_QUERY (R45, R193). -/
def State.nextPayload (s : State) : List Byte :=
  leBytes 6 s.timebase.now ++ [boolByte s.schedule.dueList.isEmpty]
  ++ leBytes 6 (match s.schedule.dueList with | i :: _ => s.schedule.dueAt i | [] => 0)
  ++ (allPorts.flatMap fun p =>
      [s.schedule.countByte p .scheduled, s.schedule.countByte p .waiting,
       s.schedule.countByte p .held])
  ++ (allPorts.flatMap fun p =>
      [natByte (s.schedule.quota.get p), natByte (s.schedule.usage.get p)])
  ++ [natByte ((indices 64).countP fun i => (s.schedule.entryAt i).isNone)]

/-- NEXT_QUERY is taken (R45). -/
def State.nextQueryTaken (p : Port) (ticket : BitVec 16) (s : State) : State :=
  if s.schedule.pass.isSome then s.refuse p ticket .retry
  else s.answer p ticket .ok s.nextPayload

/-- NEXT_QUERY (R45). -/
def execNextQuery (a : Arrival) (tag : Byte) (payload : List Byte) (s : State) : Result :=
  .next (s.request .nextQuery a.port a.lags tag payload (State.nextQueryTaken a.port))

/-- The slots of a port's entries at or above a start slot (R46). -/
def Schedule.ownedFrom (c : Schedule) (p : Port) (start : SlotIx) : List SlotIx :=
  (c.slotsWhere fun e => e.owner = p).filter fun i => start ≤ i

/-- The continuation index of an ENTRY_LIST: the slot after the sixteenth handle given when another
entry lies beyond it, otherwise 64 (R46). -/
def continuation (owned : List SlotIx) : Nat :=
  if 16 < owned.length then
    match owned[15]? with
    | some i => i.val + 1
    | none => 64
  else 64

/-- The response payload of an ENTRY_LIST (R46, R193). -/
def Schedule.listPayload (c : Schedule) (p : Port) (start : SlotIx) : List Byte :=
  let owned := c.ownedFrom p start
  [natByte (owned.take 16).length, natByte (continuation owned), natByte (c.usage.get p)]
  ++ (owned.take 16).flatMap fun i => handleBytes (c.handleAt i)

/-- ENTRY_LIST is taken (R46). -/
def State.entryListTaken (p : Port) (payload : List Byte) (ticket : BitVec 16) (s : State) :
    State :=
  if s.schedule.pass.isSome then s.refuse p ticket .retry
  else
    match finOfByte 64 (byteAt payload 0) with
    | none => s.refuse p ticket .badField
    | some start => s.answer p ticket .ok (s.schedule.listPayload p start)

/-- ENTRY_LIST (R46). -/
def execEntryList (a : Arrival) (tag : Byte) (payload : List Byte) (s : State) : Result :=
  .next (s.request .entryList a.port a.lags tag payload (State.entryListTaken a.port payload))

/-- SET_QUOTA is taken from the holder (R47). -/
def State.quotaTaken (p : Port) (payload : List Byte) (ticket : BitVec 16) (s : State) : State :=
  match decodeQuota payload with
  | none => s.refuse p ticket .badField
  | some (q, n) =>
    if n < s.schedule.usage.get q then s.refuse p ticket .quotaBelowUse
    else
      (s.mapSchedule fun c => { c with quota := c.quota.set q n }).answer p ticket .ok
        [natByte (s.schedule.quota.get q), natByte (s.schedule.usage.get q)]

/-- SET_QUOTA (R47). -/
def execSetQuota (a : Arrival) (tag : Byte) (payload : List Byte) (s : State) : Result :=
  .next (s.request .setQuota a.port a.lags tag payload fun ticket t =>
    t.privileged a.port ticket (State.quotaTaken a.port payload ticket))

/-- PURGE_PORT frees the entries of a port in ascending slot order (R48), telling an attached port
other than the requester of each. -/
def State.purge (s : State) (p q : Port) : State :=
  (s.schedule.slotsWhere fun e => e.owner = q).foldl
    (fun t i => if q = p then t.freeEntry i else t.freeAndTell i .purged) s

/-- PURGE_PORT is taken from the holder (R48, R71): RETRY before any other check. -/
def State.purgeTaken (p : Port) (payload : List Byte) (ticket : BitVec 16) (s : State) : State :=
  if s.schedule.pass.isSome then s.refuse p ticket .retry
  else
    match finOfByte 3 (byteAt payload 0) with
    | none => s.refuse p ticket .badField
    | some q =>
      (s.purge p q).answer p ticket .ok [natByte (s.schedule.count fun e => e.owner = q)]

/-- PURGE_PORT (R48). -/
def execPurgePort (a : Arrival) (tag : Byte) (payload : List Byte) (s : State) : Result :=
  .next (s.request .purgePort a.port a.lags tag payload fun ticket t =>
    t.privileged a.port ticket (State.purgeTaken a.port payload ticket))

end Sys2Proof.Machine
end

