-- ==== Sys2Proof/Machine/Session.lean ====
section
/-! DEFINITION. The session requests: ATTACH and DETACH (09). -/

namespace Sys2Proof.Machine

/-- The cause an ATTACH reports: the last reset cause, or NONE once the port has been told (R178). -/
def State.causeToReport (s : State) (p : Port) : Option ResetCause :=
  if (s.ports.get p).causeReported then none else some s.resetCause

/-- The response payload of an ATTACH (R180, R193). -/
def State.attachPayload (s : State) (p : Port) : List Byte :=
  [causeCode (s.causeToReport p), natByte (s.schedule.count (Entry.readoptable p))]
  ++ leBytes 6 s.timebase.now ++ wordBytes s.timebase.epoch
  ++ [s.timebase.state.code, portByte s.holder, s.authority.rank.code]

/-- The session of a port opens (R179, parts 1 to 4). -/
def State.openSession (s : State) (p : Port) : State :=
  ((s.mapPort p fun i => { i with session := .attached, causeReported := true }).mapQueue p
    fun _ => { queue := [], nextSeq := 0, overflow := 0, attention := true }).mapSchedule
      fun c => c.readopt p

/-- ATTACH is taken (R179). -/
def State.attachTaken (p : Port) (ticket : BitVec 16) (s : State) : State :=
  if s.attached p then s.refuse p ticket .alreadyAttached
  else (s.openSession p).answer p ticket .ok (s.attachPayload p)

/-- ATTACH (R179). -/
def execAttach (a : Arrival) (tag : Byte) (payload : List Byte) (s : State) : Result :=
  .next (s.request .attach a.port a.lags tag payload (State.attachTaken a.port))

/-- The response payload of a DETACH (R183, R193), with the holder after the detach (log 11, log 12). -/
def State.detachPayload (s : State) (p : Port) (after : State) : List Byte :=
  [natByte (s.schedule.count fun e => e.owner = p && e.orphanPolicy = .continue),
   natByte (s.schedule.count fun e => e.owner = p && e.orphanPolicy = .cancel),
   boolByte s.schedule.pass.isSome, (s.detachPlace p).code,
   portByte (if s.detachPlace p = .released then after.holder else none)]

/-- DETACH is taken (R183): the detach of R182, the last response cleared (R177), the answer. -/
def State.detachTaken (p : Port) (ticket : BitVec 16) (s : State) : State :=
  let after := s.detach p
  (after.mapPort p fun i => { i with lastResponse := none }).answer p ticket .ok
    (s.detachPayload p after)

/-- DETACH (R183). -/
def execDetach (a : Arrival) (tag : Byte) (payload : List Byte) (s : State) : Result :=
  .next (s.request .detach a.port a.lags tag payload (State.detachTaken a.port))

end Sys2Proof.Machine
end

