-- ==== Sys2Proof/Machine/Timebase.lean ====
section
/-! DEFINITION. The requests of the timebase: QUERY_TIME, START, STOP, STEP, SLEW (01). -/

namespace Sys2Proof.Machine

/-- The response payload of a QUERY_TIME (R20, R193). -/
def State.timePayload (s : State) : List Byte :=
  leBytes 6 s.timebase.now ++ [s.timebase.state.code] ++ wordBytes s.timebase.epoch
  ++ [flagByte [!s.timebase.stopWaiters.isEmpty, s.schedule.pass.isSome]]
  ++ (match s.timebase.slew with
      | some sl => leSigned16 sl.rate ++ leBytes 2 sl.remaining
      | none => [0, 0, 0, 0])

/-- QUERY_TIME is taken (R20). -/
def State.queryTimeTaken (p : Port) (ticket : BitVec 16) (s : State) : State :=
  s.answer p ticket .ok s.timePayload

/-- QUERY_TIME (R20). -/
def execQueryTime (a : Arrival) (tag : Byte) (payload : List Byte) (s : State) : Result :=
  .next (s.request .queryTime a.port a.lags tag payload (State.queryTimeTaken a.port))

/-- START is taken from the holder (R5). -/
def State.startTaken (p : Port) (ticket : BitVec 16) (s : State) : State :=
  match s.timebase.state with
  | .stopped =>
    if s.timebase.now = maxNow then s.refuse p ticket .timeRange
    else
      ((s.mapTime fun t => { t with state := .running }).answer p ticket .ok
        (leBytes 6 s.timebase.now)).postWhere (fun q => q ≠ p) (.timebaseState .started)
  | .running => s.answer p ticket .ok (leBytes 6 s.timebase.now)
  | .stopping =>
    ((s.mapTime fun t => { t with state := .running }).answerStops .overtaken).answer p ticket .ok
      (leBytes 6 s.timebase.now)

/-- START (R5). -/
def execStart (a : Arrival) (tag : Byte) (payload : List Byte) (s : State) : Result :=
  .next (s.request .start a.port a.lags tag payload fun ticket t =>
    t.privileged a.port ticket (State.startTaken a.port ticket))

/-- STOP is taken from the holder (R6): held in stop_waiters, unless the timebase is STOPPED. -/
def State.stopTaken (p : Port) (ticket : BitVec 16) (s : State) : State :=
  match s.timebase.state with
  | .stopped => s.answer p ticket .ok (leBytes 6 s.timebase.now)
  | .running | .stopping =>
    s.mapTime fun t =>
      { t with
        state := .stopping
        stopWaiters := t.stopWaiters ++ [{ port := p, ticket := ticket }] }

/-- STOP (R6). -/
def execStop (a : Arrival) (tag : Byte) (payload : List Byte) (s : State) : Result :=
  .next (s.request .stop a.port a.lags tag payload fun ticket t =>
    t.privileged a.port ticket (State.stopTaken a.port ticket))

/-- STEP is taken from the holder: checks 2 to 4 of R16, then the step (R17). It is answered when the
pass completes (R18). -/
def State.stepTaken (p : Port) (payload : List Byte) (ticket : BitVec 16) (s : State) : State :=
  match decodeStep payload with
  | none => s.refuse p ticket .badField
  | some target =>
    if s.schedule.pass.isSome then s.refuse p ticket .busy
    else
      match target.newNow s.timebase.now with
      | none => s.refuse p ticket .timeRange
      | some newNow => s.takeStep { port := p, ticket := ticket } newNow

/-- STEP (R16, R17). -/
def execStep (a : Arrival) (tag : Byte) (payload : List Byte) (s : State) : Result :=
  .next (s.request .step a.port a.lags tag payload fun ticket t =>
    t.privileged a.port ticket (State.stepTaken a.port payload ticket))

/-- The remaining milliseconds of the slew in progress, 0 when there is none (R11). -/
def Timebase.slewRemaining (t : Timebase) : Nat :=
  match t.slew with
  | some sl => sl.remaining
  | none => 0

/-- SLEW is taken from the holder (R11). -/
def State.slewTaken (p : Port) (payload : List Byte) (ticket : BitVec 16) (s : State) : State :=
  match decodeSlew payload with
  | none => s.refuse p ticket .badField
  | some f =>
    let s1 :=
      if f.rate = 0 then s.endSlew .cancelled
      else
        (s.endSlew .superseded).mapTime fun t =>
          { t with
            slew := some
              { rate := f.rate, remaining := f.duration, phase := 0, accumulator := 0 } }
    s1.answer p ticket .ok (leBytes 2 s.timebase.slewRemaining)

/-- SLEW (R11). -/
def execSlew (a : Arrival) (tag : Byte) (payload : List Byte) (s : State) : Result :=
  .next (s.request .slew a.port a.lags tag payload fun ticket t =>
    t.privileged a.port ticket (State.slewTaken a.port payload ticket))

end Sys2Proof.Machine
end

