-- ==== Sys2Proof/Machine/Dispatch.lean ====
section
/-! DEFINITION. One arm per command. -/

namespace Sys2Proof.Machine

/-- The effect of a command on everything but the queue. -/
def exec (i : Instr) (s : State) : Host.Outcome State Fault Refusal :=
  match i with
  | .attach a tag payload => Sys2Proof.Machine.execAttach a tag payload s
  | .detach a tag payload => Sys2Proof.Machine.execDetach a tag payload s
  | .setAttention a tag payload => Sys2Proof.Machine.execSetAttention a tag payload s
  | .queryTime a tag payload => Sys2Proof.Machine.execQueryTime a tag payload s
  | .start a tag payload => Sys2Proof.Machine.execStart a tag payload s
  | .stop a tag payload => Sys2Proof.Machine.execStop a tag payload s
  | .step a tag payload => Sys2Proof.Machine.execStep a tag payload s
  | .slew a tag payload => Sys2Proof.Machine.execSlew a tag payload s
  | .entryAdd a tag payload => Sys2Proof.Machine.execEntryAdd a tag payload s
  | .entryCancel a tag payload => Sys2Proof.Machine.execEntryCancel a tag payload s
  | .entryHold a tag payload => Sys2Proof.Machine.execEntryHold a tag payload s
  | .entryResume a tag payload => Sys2Proof.Machine.execEntryResume a tag payload s
  | .entryQuery a tag payload => Sys2Proof.Machine.execEntryQuery a tag payload s
  | .nextQuery a tag payload => Sys2Proof.Machine.execNextQuery a tag payload s
  | .entryList a tag payload => Sys2Proof.Machine.execEntryList a tag payload s
  | .setQuota a tag payload => Sys2Proof.Machine.execSetQuota a tag payload s
  | .purgePort a tag payload => Sys2Proof.Machine.execPurgePort a tag payload s
  | .lineQuery a tag payload => Sys2Proof.Machine.execLineQuery a tag payload s
  | .setLinePolicy a tag payload => Sys2Proof.Machine.execSetLinePolicy a tag payload s
  | .forceLine a tag payload => Sys2Proof.Machine.execForceLine a tag payload s
  | .claim a tag payload => Sys2Proof.Machine.execClaim a tag payload s
  | .release a tag payload => Sys2Proof.Machine.execRelease a tag payload s
  | .renew a tag payload => Sys2Proof.Machine.execRenew a tag payload s
  | .queryAuthority a tag payload => Sys2Proof.Machine.execQueryAuthority a tag payload s
  | .setGrace a tag payload => Sys2Proof.Machine.execSetGrace a tag payload s
  | .setCapture a tag payload => Sys2Proof.Machine.execSetCapture a tag payload s
  | .subscribe a tag payload => Sys2Proof.Machine.execSubscribe a tag payload s
  | .readCaptures a tag payload => Sys2Proof.Machine.execReadCaptures a tag payload s
  | .fetchNotices a tag payload => Sys2Proof.Machine.execFetchNotices a tag payload s
  | .ackNotices a tag payload => Sys2Proof.Machine.execAckNotices a tag payload s
  | .badKind a tag kind payload => Sys2Proof.Machine.execBadKind a tag kind payload s
  | .poll a clocked => Sys2Proof.Machine.execPoll a clocked s
  | .repeatFrame a clocked => Sys2Proof.Machine.execRepeat a clocked s
  | .faultyFrame a bytes => Sys2Proof.Machine.execFaultyFrame a bytes s
  | .portReset p => Sys2Proof.Machine.execPortReset p s
  | .fullReset cause => Sys2Proof.Machine.execFullReset cause s
  | .fullResetEnd rank1 rank0 levels => Sys2Proof.Machine.execFullResetEnd rank1 rank0 levels s
  | .referenceMicrosecond => Sys2Proof.Machine.execReferenceMicrosecond s
  | .referenceMillisecond => Sys2Proof.Machine.execReferenceMillisecond s
  | .slewDone => Sys2Proof.Machine.execSlewDone s
  | .leaseExpiry => Sys2Proof.Machine.execLeaseExpiry s
  | .graceExpiry => Sys2Proof.Machine.execGraceExpiry s
  | .captureEdge n edge => Sys2Proof.Machine.execCaptureEdge n edge s
  | .expiry => Sys2Proof.Machine.execExpiry s
  | .pulseEnd line => Sys2Proof.Machine.execPulseEnd line s
  | .passComplete => Sys2Proof.Machine.execPassComplete s
  | .portResetRelease p => Sys2Proof.Machine.execPortResetRelease p s

end Sys2Proof.Machine
end

