-- ==== Sys2Proof/Machine/Step.lean ====
section
/-! DEFINITION. One step: the command at the front of the queue, or what the part does on its own. -/

namespace Sys2Proof.Machine

/-- One step takes the command at the front of the queue. On an empty queue the part takes an event of
its own, or one REFCLK period passes (log 3). -/
def step (s : State) : Host.Outcome State Fault Refusal :=
  match s.pending with
  | c :: rest => exec c { s with pending := rest }
  | [] =>
    match s.ownEvent with
    | some c => exec c s
    | none => .next s.refclkPeriod

/-- The state with the command that a table word spells at the front of its queue. -/
def State.withFetchWord (s : State) (nbits w : Nat) : State :=
  match decodeTableWord nbits w with
  | some c => { s with pending := c :: s.pending }
  | none => s

end Sys2Proof.Machine
end

