-- ==== Sys2Proof/Safety.lean ====
section
/-! DEFINITION. The words of the statements: a port that takes a request, an answered port, notices told, what a free, a fill and a detach leave; and the invariants of the part. -/

namespace Sys2Proof.Machine

/-! ### Requests and answers -/

/-- The slot is WORKING (08, head). -/
def RequestSlot.isWorking : RequestSlot → Bool
  | .working _ => true
  | .empty | .answered _ _ => false

/-- Port `p` takes a good REQUEST frame: no reset holds it and its slot is not WORKING (R167, R175, R176). -/
def Ready (s : State) (p : Port) : Prop :=
  s.inFullReset = false ∧ (s.ports.get p).inReset = false ∧ (s.ports.get p).slot.isWorking = false

/-- Port `p` once it has taken a request of `n` payload bytes (R167). -/
def askedPort (s : State) (p : Port) (lags : List Nat) (tag kind : Byte) (n : Nat) : PortIf :=
  { s.ports.get p with
    slot := .working { tag := tag, kind := kind, ticket := (s.ports.get p).nextTicket }
    nextTicket := (s.ports.get p).nextTicket + 1
    frameFault := .none
    miso := s.statusBytes p lags (n + 5) }

/-- Port `p` once that request has been answered (R168, R174). -/
def answeredPort (s : State) (p : Port) (lags : List Nat) (tag kind : Byte) (n : Nat) (st : Status)
    (pl : List Byte) (freed : Option EntryName := none) : PortIf :=
  { askedPort s p lags tag kind n with
    slot :=
      .answered { tag := tag, kind := kind, ticket := (s.ports.get p).nextTicket }
        { tag := tag, kind := kind, status := st, payload := pl, freed := freed } }

/-- The ports once port `p` has taken a request and been answered. -/
def answeredPorts (s : State) (p : Port) (lags : List Nat) (tag kind : Byte) (n : Nat) (st : Status)
    (pl : List Byte) (freed : Option EntryName := none) : Table 3 PortIf :=
  s.ports.set p (answeredPort s p lags tag kind n st pl freed)

/-- The state in which the request of port `p` has been answered and nothing else has changed but the
model's record of the status bytes (log 13). -/
def answeredState (s : State) (p : Port) (lags : List Nat) (tag kind : Byte) (n : Nat) (st : Status)
    (pl : List Byte) : State :=
  { s.frameEnds p with ports := answeredPorts s p lags tag kind n st pl }

/-- The privileged requests (R104). -/
def privilegedKinds : List Kind :=
  [.start, .stop, .step, .slew, .setQuota, .purgePort, .setLinePolicy, .forceLine, .setCapture,
   .setGrace]

/-- The requests that RETRY answers during a pass (R71). -/
def retryKinds : List Kind :=
  [.entryAdd, .entryCancel, .entryHold, .entryResume, .nextQuery, .entryList, .purgePort]

/-- A port stands to send a request of a kind: attached, and the holder where it is privileged. -/
def Admitted (s : State) (p : Port) (k : Kind) : Prop :=
  s.attached p = true ∧ (k ∈ privilegedKinds → s.holder = some p)

/-! ### Fields that BAD_FIELD refuses (R16, R25, R35, R191 and the rule of each request) -/

/-- An ENTRY_ADD payload shows one of the faults of R35, or a byte its field does not name (R191), or a
count that does not suit its length (R193). -/
def badAdd (pl : List Byte) : Prop :=
  let at_ (off : Nat) : Nat := (pl.getD off 0).toNat
  2 < at_ 0
  ∨ (at_ 0 = 2 ∧ (3 < at_ 7 ∨ 4294967295 < natAt pl 1 6))
  ∨ (at_ 0 = 0 ∧ 1 < at_ 8)
  ∨ 2 < at_ 15 ∨ 1 < at_ 16 ∨ 1 < at_ 17 ∨ 1 < at_ 18
  ∨ 4 < at_ 21 ∨ pl.length ≠ 22 + 5 * at_ 21
  ∨ (∃ j ∈ List.range (at_ 21),
      15 < at_ (22 + 5 * j) ∨ 3 < at_ (23 + 5 * j)
      ∨ (at_ (23 + 5 * j) = 0 ∧ (natAt pl (24 + 5 * j) 3 = 0 ∨ 1048575 < natAt pl (24 + 5 * j) 3)))
  ∨ (∃ j ∈ List.range (at_ 21), ∃ k ∈ List.range j, at_ (22 + 5 * j) = at_ (22 + 5 * k))
  ∨ (at_ 21 = 0 ∧ at_ 17 = 0)

/-- A payload of the right length holds a field that its request refuses with BAD_FIELD. -/
def badField (k : Kind) (pl : List Byte) : Prop :=
  let at_ (off : Nat) : Nat := (pl.getD off 0).toNat
  match k with
  | .setAttention => 1 < at_ 0
  | .step => 1 < at_ 0 ∨ (at_ 0 = 1 ∧ 1 < at_ 1)
  | .slew =>
    (1000 < natAt pl 0 2 ∧ natAt pl 0 2 < 64536) ∨ (natAt pl 0 2 ≠ 0 ∧ natAt pl 2 2 = 0)
  | .entryAdd => badAdd pl
  | .entryCancel | .entryHold | .entryResume | .entryQuery | .entryList => 63 < at_ 0
  | .setQuota => 2 < at_ 0 ∨ 64 < at_ 1
  | .purgePort => 2 < at_ 0
  | .lineQuery => 15 < at_ 0
  | .setLinePolicy => 15 < at_ 0 ∨ 7 < at_ 1 ∨ 1 < at_ 2 ∨ 1 < at_ 3
  | .forceLine => 15 < at_ 0 ∨ 2 < at_ 1
  | .claim => natAt pl 0 2 = 0 ∨ 1 < at_ 2
  | .renew => natAt pl 0 2 = 0
  | .setGrace => at_ 0 = 0
  | .setCapture => 3 < at_ 0 ∨ 3 < at_ 1
  | .subscribe => 15 < at_ 0
  | .readCaptures | .fetchNotices => at_ 0 = 0 ∨ 4 < at_ 0
  | .attach | .detach | .queryTime | .start | .stop | .nextQuery | .release | .queryAuthority
  | .ackNotices => False

/-! ### Notices -/

/-- From `s` to `t` the notices `news q` were posted to each port `q`, in this order, and no other, with
the Now and the epoch of `t` (R145, R146). -/
def Told (s t : State) (news : Port → List NoticeBody) : Prop :=
  ∀ q : Port,
    t.notices.get q =
      if s.attached q then
        (news q).foldl (fun k b => k.take t.timebase.now t.timebase.epoch b) (s.notices.get q)
      else s.notices.get q

/-! ### The authority (R100, R116, R117) -/

/-- The ports from the highest rank down, by the straps; none stands above another for 1, 1 (R100). -/
def Rank.order (r : Rank) : List Port :=
  match r.rank1, r.rank0 with
  | false, false => [0, 1, 2]
  | false, true => [1, 2, 0]
  | true, false => [2, 0, 1]
  | true, true => []

/-- The waiter to whom a vacancy goes: the demanding port's record, otherwise the head of the queue (R116
step 1). -/
def Authority.heir (a : Authority) : Option WaiterRec :=
  match a.demand with
  | some d => a.waiters.find? fun w => w.port = d.port
  | none => a.waiters.head?

/-- The waiters but the one of a port, in their order (R103). -/
def Authority.others (a : Authority) (p : Port) : List WaiterRec :=
  a.waiters.filter fun w => w.port ≠ p

/-- The demand that a new holder finds among the waiters: the first urgent one that outranks it (R117). -/
def freshDemand (a : Authority) (ws : List WaiterRec) (holder : Port) : Option Demand :=
  (ws.find? fun x => x.urgent && a.rank.outranks x.port holder).map fun x =>
    { port := x.port, graceRemaining := a.graceSetting }

/-- The authority unit once a vacancy has been filled (R116). -/
def Authority.filled (a : Authority) : Authority :=
  match a.heir with
  | none => { a with tenure := none, demand := none }
  | some w =>
    { a with
      tenure := some { port := w.port, leaseRemaining := w.lease }
      waiters := a.others w.port
      demand := freshDemand a (a.others w.port) w.port }

/-- The notices of a fill (R116 steps 3, 4 and 6). -/
def fillNews (s : State) (former : Port) (reason : AuthReason) (q : Port) : List NoticeBody :=
  match s.authority.heir with
  | none => if q = former then [] else [.authorityChanged none reason]
  | some w =>
    if q = w.port then
      .authorityGranted former w.lease reason ::
        match s.authority.filled.demand with
        | some d => [.yieldDemanded d.port d.graceRemaining]
        | none => []
    else if q = former then []
    else [.authorityChanged (some w.port) reason]

/-- The authority unit once a waiter has withdrawn (R110, R117): the demand goes to the first urgent
waiter that outranks the holder, and runs on where that is the one it was. -/
def Authority.withdrawn (a : Authority) (p : Port) : Authority :=
  { a with
    waiters := a.others p
    demand :=
      match a.tenure with
      | none => none
      | some h =>
        match freshDemand a (a.others p) h.port with
        | none => none
        | some d => if a.demand.map Demand.port = some d.port then a.demand else some d }

/-- The notices of a withdrawal: YIELD_DEMANDED to the holder for a new demand (R117). -/
def withdrawNews (s : State) (p q : Port) : List NoticeBody :=
  match (s.authority.withdrawn p).demand with
  | some d =>
    if s.holder = some q ∧ s.authority.demand.map Demand.port ≠ some d.port then
      [.yieldDemanded d.port d.graceRemaining]
    else []
  | none => []

/-- No line carries a force, and nothing else of any line has changed (R95). -/
def Unforced (s t : State) : Prop := ∀ l : LineIx, t.lines.get l = { s.lines.get l with force := none }

/-- A holder is revoked at a reference millisecond (R113 to R116). -/
def Revoked (s t : State) (holder : Port) (reason : AuthReason) : Prop :=
  t = { s.noted with
        timebase := { s.timebase with msDue := false }
        authority := s.authority.filled
        lines := t.lines
        notices := t.notices }
  ∧ Unforced s t
  ∧ Told s t fun q =>
      (if q = holder then
        [.authorityLost (s.authority.heir.map WaiterRec.port) reason] else [])
        ++ fillNews s holder reason q

/-! ### Entries -/

/-- The lines an entry's actions name. -/
def Entry.lines (e : Entry) : List LineIx := e.actions.map LineAction.line

/-- A line with one reference of a port fewer (R87, R89). -/
def Line.unreferenced (p : Port) (l : Line) : Line :=
  { l with
    refs := l.refs.set p (l.refs.get p - 1)
    exclHolder := if l.exclHolder = some p ∧ l.refs.get p ≤ 1 then none else l.exclHolder }

/-- What R28 leaves of the schedule and of the lines, from `s` to `t`, for the entry `e` of a slot. -/
def Freed (s t : State) (i : SlotIx) (e : Entry) : Prop :=
  t.schedule =
    { s.schedule with
      slots := s.schedule.slots.set i { tag := (s.schedule.slots.get i).tag + 1, entry := none }
      dueList := s.schedule.dueList.filter (· ≠ i)
      waiting := s.schedule.waiting.map fun w => w.filter (· ≠ i)
      usage := s.schedule.usage.set e.owner (s.schedule.usage.get e.owner - 1)
      sweep := t.schedule.sweep }
  ∧ ∀ l : LineIx,
      t.lines.get l =
        if l ∈ e.lines then (s.lines.get l).unreferenced e.owner else s.lines.get l

/-- The entry of a slot, of a port `q`, has been freed from `s` to `t`. -/
def freedOf (s t : State) (q : Port) (i : SlotIx) : Bool :=
  (s.schedule.entryAt i).map Entry.owner == some q && (t.schedule.entryAt i).isNone

/-- How many references of a port to a line the entries freed from `s` to `t` held (R28 step 2). -/
def freedRefs (s t : State) (q : Port) (l : LineIx) : Nat :=
  ((indices 64).map fun i =>
    if freedOf s t q i then
      (match s.schedule.entryAt i with
        | some e => e.lines.count l
        | none => 0)
    else 0).sum

/-- The entries that `s` holds and `t` does not have been freed by R28: the usage of their owners and
the references to lines count them no longer (R33, R87), and an exclusive holder whose references have
fallen to 0 has let go (R89). -/
structure Uncounted (s t : State) : Prop where
  usage : ∀ q : Port,
    t.schedule.usage.get q = s.schedule.usage.get q - (indices 64).countP (freedOf s t q)
  refs : ∀ (l : LineIx) (q : Port),
    (t.lines.get l).refs.get q = (s.lines.get l).refs.get q - freedRefs s t q l
  holders : ∀ l : LineIx,
    (t.lines.get l).exclHolder =
      match (s.lines.get l).exclHolder with
      | none => none
      | some h =>
        if 0 < freedRefs s t h l ∧ (s.lines.get l).refs.get h ≤ freedRefs s t h l then none
        else some h

/-- A record of the capture log without one of its readers; none when no reader is left (R135). -/
def unread (p : Port) (r : CaptureRecord) : Option CaptureRecord :=
  if dropBit r.readers p = 0 then none else some { r with readers := dropBit r.readers p }

/-- A slot after the detach of port `p` (R50, R73). -/
def detachedSlot (p : Port) (inPass : Bool) (sl : Slot) : Slot :=
  match sl.entry with
  | none => sl
  | some e =>
    if e.owner ≠ p then sl
    else
      match e.orphanPolicy with
      | .continue => { sl with entry := some { e with orphaned := true } }
      | .cancel =>
        if inPass then { sl with entry := some { e with cancelPending := true } }
        else { tag := sl.tag + 1, entry := none }

/-- Why a step to a Now that lies `delta` further frees an entry, if it does (R63 to R66). -/
def stepReason (delta : Int) (e : Entry) : Option CancelReason :=
  match e.state, e.stepPolicy with
  | .waiting, _ => none
  | .scheduled, .keep | .held, .keep => none
  | .scheduled, .drop | .held, .drop => some .step
  | .scheduled, .shift | .held, .shift =>
    if 0 ≤ (e.due.getD 0 : Int) + delta ∧ (e.due.getD 0 : Int) + delta ≤ maxNow then none
    else some .stepRange

/-- A slot after a step to a Now that lies `delta` further (R63 to R66). -/
def steppedSlot (delta : Int) (sl : Slot) : Slot :=
  match sl.entry with
  | none => sl
  | some e =>
    match stepReason delta e with
    | some _ => { tag := sl.tag + 1, entry := none }
    | none =>
      if e.state ≠ .waiting ∧ e.stepPolicy = .shift then
        { sl with entry := some { e with due := some ((e.due.getD 0 : Int) + delta).toNat } }
      else sl

/-- A pass in flight has lasted the 100 reference microseconds of R69 (its age is the model's, log 6). -/
abbrev Overdue (s : State) : Prop := 100 ≤ (s.schedule.pass.map Pass.age).getD 0

/-! ### Invariants -/

/-- A slew record lies in its ranges (01, section 1.6). -/
def Slew.Wf (sl : Slew) : Prop :=
  sl.rate ≠ 0 ∧ -1000 ≤ sl.rate ∧ sl.rate ≤ 1000 ∧ 1 ≤ sl.remaining ∧ sl.remaining ≤ 65535
  ∧ sl.phase < 1000 ∧ sl.accumulator < 1000000

/-- The timebase record lies in its ranges (R1, R2), and STOPs wait exactly in STOPPING (R4). -/
structure TimebaseWf (s : State) : Prop where
  now : s.timebase.now ≤ maxNow
  waiters : s.timebase.stopWaiters = [] ↔ s.timebase.state ≠ .stopping
  slew : ∀ sl, s.timebase.slew = some sl → sl.Wf
  refclk : s.timebase.refclk ≤ 9
  micros : s.timebase.micros < 1000

/-- One notice queue holds at most 16 notices of consecutive seq, and a non-empty overflow set only when
full (R144, R149). -/
structure QueueWf (q : NoticeQueue) : Prop where
  room : q.queue.length ≤ 16
  overflowing : q.overflow ≠ 0 → q.queue.length = 16
  noOverflowKind : q.overflow &&& 0x8001#16 = 0
  consecutive : ∀ (j : Nat) (n : Notice), q.queue[j]? = some n →
    n.seq = q.nextSeq - BitVec.ofNat 16 (q.queue.length - j)

/-- The queues are well formed, and empty while their port is detached (R144, R160). -/
structure NoticesWf (s : State) : Prop where
  queues : ∀ p : Port, QueueWf (s.notices.get p)
  detached : ∀ p : Port, s.attached p = false →
    (s.notices.get p).queue = [] ∧ (s.notices.get p).overflow = 0
      ∧ (s.notices.get p).attention = false

/-- The authority unit is as R102 and R103 say. -/
structure AuthorityWf (s : State) : Prop where
  holder : ∀ x, s.authority.tenure = some x →
    s.attached x.port = true ∧ 1 ≤ x.leaseRemaining ∧ x.leaseRemaining ≤ 65535
  waiters : ∀ w ∈ s.authority.waiters,
    s.attached w.port = true ∧ s.holder ≠ some w.port ∧ 1 ≤ w.lease ∧ w.lease ≤ 65535
  distinct : (s.authority.waiters.map WaiterRec.port).Nodup
  urgentFirst : s.authority.waiters.Pairwise fun a b => b.urgent = true → a.urgent = true
  vacant : s.authority.tenure = none → s.authority.waiters = [] ∧ s.authority.demand = none
  demand : ∀ x, s.authority.tenure = some x → ∀ d, s.authority.demand = some d →
    s.authority.rank.outranks d.port x.port = true ∧ 1 ≤ d.graceRemaining
      ∧ d.graceRemaining ≤ 255 ∧ ∃ w ∈ s.authority.waiters, w.port = d.port ∧ w.urgent = true
  grace : 1 ≤ s.authority.graceSetting ∧ s.authority.graceSetting ≤ 255
  inReset : s.inFullReset = true → s.authority.tenure = none

/-- The capture log is as R135 says: at most 32 records of different seq, each with a non-empty reader set
of attached ports that subscribe to its input; a detached port subscribes to nothing (R142). -/
structure CaptureWf (s : State) : Prop where
  room : s.capture.log.length ≤ 32
  distinct : (s.capture.log.map CaptureRecord.seq).Nodup
  readers : ∀ r ∈ s.capture.log, r.readers ≠ 0 ∧ ∀ p : Port, hasBit r.readers p = true →
    s.attached p = true ∧ hasBit (s.capture.subscriptions.get p) r.input = true
  detached : ∀ p : Port, s.attached p = false → s.capture.subscriptions.get p = 0
  inputs : ∀ i : InputIx, (s.capture.inputs.get i).holdoff ≤ 65535
    ∧ ∀ n, (s.capture.inputs.get i).sinceLast = some n → n ≤ 65535

/-- A line carries a force only while the port that set it holds the authority (R95); its counts lie in
their ranges (04, head). -/
structure LinesWf (s : State) : Prop where
  forces : ∀ (l : LineIx) (f : Force), (s.lines.get l).force = some f → s.holder = some f.port
  retriggers : ∀ l : LineIx, (s.lines.get l).retriggers ≤ 65535
  pulses : ∀ (l : LineIx) (u : Pulse), (s.lines.get l).pulse = some u → u.endTime ≤ maxNow

/-- A slot is WORKING only under a STOP in stop_waiters or the STEP of the pass in flight (R173). -/
def WorkingWf (s : State) : Prop :=
  ∀ (p : Port) (h : Held), (s.ports.get p).slot = .working h →
    { port := p, ticket := h.ticket } ∈ s.timebase.stopWaiters
    ∨ s.schedule.pass.map Pass.stepper = some { port := p, ticket := h.ticket }

/-- An entry's own fields (R26, R27, R35, R73, R185). -/
structure EntryWf (s : State) (e : Entry) : Prop where
  due : ∀ d, e.due = some d → d ≤ maxNow
  waiting : e.state = .waiting ↔ e.due = none
  counts : e.fired ≤ 65535 ∧ e.missed ≤ 65535
  actions : e.actions.length ≤ 4 ∧ e.lines.Nodup
  widths : ∀ a ∈ e.actions,
    if a.kind = .pulse then ∃ w ∈ a.width, 1 ≤ w ∧ w ≤ 1048575 else a.width = none
  cancelPending : e.cancelPending = true →
    s.schedule.pass.isSome = true ∧ e.orphanPolicy = .cancel
  orphaned : e.orphaned = true → s.attached e.owner = false ∧ e.orphanPolicy = .continue

/-- Usage, quotas and references count the entries (R33, R87), and an EXCLUSIVE line is referenced by its
holder alone (R88, R89). -/
structure EntriesWf (s : State) : Prop where
  entries : ∀ i : SlotIx, ∀ e, s.schedule.entryAt i = some e → EntryWf s e
  usage : ∀ p : Port, s.schedule.usage.get p = s.schedule.count fun e => e.owner = p
  quota : ∀ p : Port, s.schedule.usage.get p ≤ s.schedule.quota.get p ∧ s.schedule.quota.get p ≤ 64
  refs : ∀ (l : LineIx) (p : Port),
    (s.lines.get l).refs.get p = s.schedule.count fun e => e.owner = p && decide (l ∈ e.lines)
  shared : ∀ l : LineIx, (s.lines.get l).mode = .shared → (s.lines.get l).exclHolder = none
  exclusive : ∀ (l : LineIx) (p : Port), (s.lines.get l).mode = .exclusive →
    (0 < (s.lines.get l).refs.get p ↔ (s.lines.get l).exclHolder = some p)

/-- The due list and the waiting lists are as R30, R31 and R51 say, and the pass as R63 and R69. -/
structure ListsWf (s : State) : Prop where
  dueOnce : s.schedule.dueList.Nodup
  due : ∀ i : SlotIx,
    i ∈ s.schedule.dueList ↔ (s.schedule.entryAt i).map Entry.state = some .scheduled
  waitingOnce : ∀ n : InputIx, (s.schedule.waiting.get n).Nodup
  waiting : ∀ (n : InputIx) (i : SlotIx),
    i ∈ s.schedule.waiting.get n ↔
      (s.schedule.entryAt i).map (fun e => (e.state, e.input)) = some (.waiting, some n)
  inputs : ∀ i : SlotIx, ∀ e, s.schedule.entryAt i = some e → e.state = .waiting → e.input.isSome = true
  ordered : s.schedule.pass = none →
    s.schedule.dueList.Pairwise fun i j => s.schedule.dueAt i ≤ s.schedule.dueAt j
  sweep : ∀ m, s.schedule.sweep = some m → s.schedule.pass = none ∧ ∀ i ∈ m, i ∈ s.schedule.dueList
  pass : ∀ a, s.schedule.pass = some a → a.cancelled ≤ 64 ∧ a.age ≤ 100

/-! ### The detach -/

/-- What the detach of port `p` leaves in the blocks, from `s` to `t` (R182). -/
structure DetachLeaves (s t : State) (p : Port) : Prop where
  /-- part 2: the queue of `p` -/
  queue : t.notices.get p =
    { s.notices.get p with queue := [], overflow := 0, attention := false }
  /-- part 3: the capture unit -/
  capture : t.capture =
    { s.capture with
      subscriptions := s.capture.subscriptions.set p 0
      log := s.capture.log.filterMap fun r => if r.readers.getLsbD p then unread p r else some r }
  owed : ∀ q : Port, q ≠ p → t.capture.owed q = s.capture.owed q
  /-- part 4: the authority unit, and the forces where the holder leaves -/
  authority : t.authority =
    if s.holder = some p then s.authority.filled
    else if s.authority.waits p then s.authority.withdrawn p
    else s.authority
  forces : ∀ l : LineIx,
    (t.lines.get l).force = if s.holder = some p then none else (s.lines.get l).force
  told : ∀ q : Port, q ≠ p →
    t.notices.get q =
      if s.attached q then
        (if s.holder = some p then fillNews s p .detached q
          else if s.authority.waits p then withdrawNews s p q else []).foldl
            (fun k b => k.take t.timebase.now t.timebase.epoch b) (s.notices.get q)
      else s.notices.get q
  /-- the port is neither holder nor waiter, where the unit is as R102 says -/
  gone : AuthorityWf s → t.holder ≠ some p ∧ t.authority.waits p = false
  /-- part 5: the schedule -/
  slots : ∀ i : SlotIx,
    t.schedule.slots.get i = detachedSlot p s.schedule.pass.isSome (s.schedule.slots.get i)
  schedule : t.schedule =
    { s.schedule with
      slots := t.schedule.slots
      usage := t.schedule.usage
      dueList := s.schedule.dueList.filter fun i => !freedOf s t p i
      waiting := s.schedule.waiting.map fun w => w.filter fun i => !freedOf s t p i
      sweep := s.schedule.sweep.map fun m => m.filter fun i => !freedOf s t p i }
  uncounted : Uncounted s t
  /-- what no part of a detach reaches -/
  rest : t.timebase = s.timebase ∧ t.resetCause = s.resetCause ∧ t.inFullReset = s.inFullReset
    ∧ t.pending = s.pending ∧ t.freeCount = s.freeCount
  policies : ∀ l : LineIx,
    t.lines.get l =
      { s.lines.get l with
        force := (t.lines.get l).force
        refs := (t.lines.get l).refs
        exclHolder := (t.lines.get l).exclHolder }

end Sys2Proof.Machine
end

