-- ==== Sys2Proof/Certificates/Slice0/Obligations.lean ====
section
/-! DEFINITION. The statements about the Zaltig 316 that are put to the provers. -/

open Sys2Proof Sys2Proof.Machine

/-! ### The queue of commands, and completion -/

/-- A step takes the command at the front of the queue: it is exec of that command with the queue's rest
(the model's queue, log 1). -/
def Obligations.StepTakesTheFrontCommand : Prop :=
  ∀ (c : Instr) (s : State), step { s with pending := c :: s.pending } = exec c s

/-- On an empty queue the part takes the work it owes, or one REFCLK period passes (the model's choice,
log 3): a due millisecond, the lowest line whose pulse end is due, the open sweep, an overdue pass, and
the reference microsecond of every tenth period (R1). -/
def Obligations.StepOnAnEmptyQueue : Prop :=
  ∀ (s : State), s.pending = [] →
    (s.inFullReset = true → step s = .next s)
    ∧ (s.inFullReset = false →
        (s.timebase.msDue = true → step s = exec .referenceMillisecond s)
        ∧ (s.timebase.msDue = false →
            (∀ l : LineIx, (s.lines.get l).pulseDue s.timebase.now = true →
              (∀ k : LineIx, k < l → (s.lines.get k).pulseDue s.timebase.now = false) →
                step s = exec (.pulseEnd l) s)
            ∧ ((∀ l : LineIx, (s.lines.get l).pulseDue s.timebase.now = false) →
                (s.schedule.sweep.isSome = true → step s = exec .expiry s)
                ∧ (s.schedule.sweep.isSome = false →
                    (Overdue s → step s = exec .passComplete s)
                    ∧ (¬ Overdue s →
                        (9 ≤ s.timebase.refclk → step s = exec .referenceMicrosecond s)
                        ∧ (s.timebase.refclk < 9 →
                            step s =
                              .next
                                { s with
                                  timebase :=
                                    { s.timebase with refclk := s.timebase.refclk + 1 } }))))))

/-- Every well-formed command answers a next state in every state. Of the others, BAD_KIND with a code that
names a kind and FAULTY_FRAME with the bytes of a good frame are refused as another row's command, no
whole byte is no frame (log 7), and a request of more than 96 payload bytes answers next (log 16). -/
def Obligations.EveryWellFormedCommandAnswersNext : Prop :=
  ∀ (c : Instr) (s : State),
    (c.wellFormed = true → ∃ t, exec c s = .next t)
    ∧ (∀ k a tag pl, c = requestCommand k a tag pl → ∃ t, exec c s = .next t)
    ∧ (∀ a tag kind pl, c = .badKind a tag kind pl → Kind.ofByte kind ≠ none →
        exec c s = .refused .notThisCommand)
    ∧ (∀ a bytes, c = .faultyFrame a bytes → judgeFrame bytes = .good →
        exec c s = .refused .notThisCommand)
    ∧ (∀ a, c = .faultyFrame a [] → exec c s = .next s)

/-- Frames and commands correspond: the frame of a well-formed command is decoded as that command, with
its arrival, tag, kind, payload and bytes; and the command that whole bytes are decoded as is well formed
and has those bytes as its frame. -/
def Obligations.FramesAndCommandsCorrespond : Prop :=
  (∀ (c : Instr) (a : Arrival) (bytes : List Byte),
    c.wellFormed = true → encodeFrame c = some (a, bytes) → decodeFrame a bytes = some c)
  ∧ ∀ (c : Instr) (a : Arrival) (bytes : List Byte),
    decodeFrame a bytes = some c → c.wellFormed = true ∧ encodeFrame c = some (a, bytes)

/-! ### Frames at the port (08) -/

/-- A REQUEST that finds its slot WORKING is discarded with the fault REQUEST_WHILE_BUSY, whatever it is
(R167). A port held in port reset or in full reset takes no frame and records no fault (R175, R176):
nothing changes but the model's records of MISO and of the status bytes (log 13). Every byte of a REQUEST,
the type byte of a POLL or REPEAT and the first byte of a frame of unknown type show the status byte all the
same (R164, R166, R190); the bytes after the type byte of a POLL or REPEAT are free and counted (log 5). -/
def Obligations.FramesThatAreNotTaken : Prop :=
  ∀ (p : Port) (lags : List Nat) (tag kind : Byte) (k : Kind) (pl bytes : List Byte) (s : State),
    Kind.ofByte kind = none →
    (s.inFullReset = false → (s.ports.get p).inReset = false →
      (s.ports.get p).slot.isWorking = true → pl.length ≤ 96 →
      (∀ c ∈ [requestCommand k ⟨p, lags⟩ tag pl, Instr.badKind ⟨p, lags⟩ tag kind pl],
        exec c s =
          .next
            { s.frameEnds p with
              ports :=
                s.ports.set p
                  { s.ports.get p with
                    frameFault := .requestWhileBusy
                    miso := s.statusBytes p lags (pl.length + 5) } }))
    ∧ (s.inFullReset = true ∨ (s.ports.get p).inReset = true →
      (∀ c ∈ [(requestCommand k ⟨p, lags⟩ tag pl, s.statusBytes p lags (pl.length + 5)),
              (Instr.badKind ⟨p, lags⟩ tag kind pl, s.statusBytes p lags (pl.length + 5))]
            ++ (match judgeFrame bytes with
                | .faulty .unknownType =>
                  [(Instr.faultyFrame ⟨p, lags⟩ bytes,
                    s.statusBytes p lags 1 ++ List.replicate (bytes.length - 1) 0)]
                | .faulty _ =>
                  [(Instr.faultyFrame ⟨p, lags⟩ bytes, s.statusBytes p lags bytes.length)]
                | .good | .noFrame => []),
        exec c.1 s =
          .next
            { s.frameEnds p with
              ports := s.ports.set p { s.ports.get p with miso := c.2 } })
      ∧ (∀ c ∈ [Instr.poll ⟨p, lags⟩ pl, Instr.repeatFrame ⟨p, lags⟩ pl],
          ∃ t, exec c s = .next t
            ∧ t = { s.frameEnds p with
                    ports := s.ports.set p { s.ports.get p with miso := (t.ports.get p).miso }
                    freeCount := s.freeCount + pl.length }
            ∧ (t.ports.get p).miso.take 1 = s.statusBytes p lags 1
            ∧ (t.ports.get p).miso.length = pl.length + 1))

/-- A faulty frame sets the frame fault by the first test of R164 that fails and changes nothing else in
the port interface; a frame of unknown type shifts out the status byte and then 00h (R164, R166). A
request command of more than 96 payload bytes is a frame of that length: fault LENGTH (log 16). The
record of status bytes is the model's (log 13). -/
def Obligations.FaultyFrameSetsTheFrameFault : Prop :=
  ∀ (p : Port) (lags : List Nat) (type : Byte) (more : List Byte) (s : State),
    s.inFullReset = false → (s.ports.get p).inReset = false →
    let bytes := type :: more
    let n := (bytes.getD 3 0).toNat
    let faulted (f : FrameFault) (out : List Byte) : State :=
      { s.frameEnds p with
        ports := s.ports.set p { s.ports.get p with frameFault := f, miso := out } }
    let gives (f : FrameFault) (out : List Byte) : Prop :=
      exec (.faultyFrame ⟨p, lags⟩ bytes) s = .next (faulted f out)
    let status := s.statusBytes p lags bytes.length
    (type ≠ 0x51 → type ≠ 0x52 → type ≠ 0x53 →
      gives .unknownType (s.statusBytes p lags 1 ++ List.replicate more.length 0))
    ∧ (type = 0x51 → bytes.length < 5 → gives .truncated status)
    ∧ (type = 0x51 → 5 ≤ bytes.length → (96 < n ∨ bytes.length ≠ n + 5) → gives .length status)
    ∧ (type = 0x51 → bytes.length = n + 5 → n ≤ 96 →
        crc8 (bytes.take (n + 4)) ≠ bytes.getD (n + 4) 0 → gives .crc status)
    ∧ ∀ (tag kind : Byte) (k : Kind) (pl : List Byte), 96 < pl.length → Kind.ofByte kind = none →
        ∀ c ∈ [requestCommand k ⟨p, lags⟩ tag pl, Instr.badKind ⟨p, lags⟩ tag kind pl],
          exec c s = .next (faulted .length (s.statusBytes p lags (pl.length + 5)))

/-- A POLL delivers the pending response, which becomes the last response, or shifts out an IDLE frame
with the frame fault and the slot state; the fault clears (R169). Marker, fields and CRC-8 of the two
frames stand as R163 and R189 lay them out, with the status codes of R192. The record of status bytes is
the model's (log 13). -/
def Obligations.PollDeliversOrIdles : Prop :=
  ∀ (p : Port) (lags : List Nat) (clocked : List Byte) (s : State),
    s.inFullReset = false → (s.ports.get p).inReset = false →
    let crc (bytes : List Byte) : Byte :=
      bytes.foldl
        (fun c b =>
          (List.range 8).foldl (fun x _ => if x.msb then (x <<< 1) ^^^ 0x2F else x <<< 1) (c ^^^ b))
        0xFF
    let withCrc (bytes : List Byte) : List Byte := bytes ++ [crc bytes]
    let shifted (frame : List Byte) : List Byte :=
      (s.statusBytes p lags 1 ++ (frame ++ List.replicate clocked.length 0)).take
        (clocked.length + 1)
    let fault : Byte :=
      match (s.ports.get p).frameFault with
      | .none => 0 | .crc => 1 | .length => 2 | .truncated => 3 | .unknownType => 4
      | .requestWhileBusy => 5
    (∀ bytes, crc8 bytes = crc bytes)
    ∧ (∀ h r, (s.ports.get p).slot = .answered h r →
      exec (.poll ⟨p, lags⟩ clocked) s =
        .next
          { s.frameEnds p with
            ports :=
              s.ports.set p
                { s.ports.get p with
                  slot := .empty, lastResponse := some r, frameFault := .none
                  miso :=
                    shifted
                      (withCrc
                        ([0x6E, r.tag, r.kind, r.status.code, BitVec.ofNat 8 r.payload.length]
                          ++ r.payload)) } })
    ∧ ((∀ h r, (s.ports.get p).slot ≠ .answered h r) →
      exec (.poll ⟨p, lags⟩ clocked) s =
        .next
          { s.frameEnds p with
            ports :=
              s.ports.set p
                { s.ports.get p with
                  frameFault := .none
                  miso :=
                    shifted
                      (withCrc
                        [0x6F, fault, if (s.ports.get p).slot.isWorking then 1 else 0]) } })
    ∧ [Status.ok, .granted, .queued, .withdrawn, .overtaken, .retry, .busy, .badKind, .badLength,
        .badField, .badWidth, .badState, .badSeq, .notAttached, .alreadyAttached, .notAuthority,
        .notOwner, .notHolder, .alreadyHolder, .alreadyWaiting, .yieldPending, .staleHandle,
        .quotaExceeded, .quotaBelowUse, .tableFull, .pastDue, .timeRange, .lineDenied,
        .lineInUse].map Status.code =
      [0x00, 0x01, 0x02, 0x03, 0x04, 0x10, 0x11, 0x20, 0x21, 0x22, 0x23, 0x24, 0x25, 0x30, 0x31,
        0x32, 0x33, 0x34, 0x35, 0x36, 0x37, 0x38, 0x40, 0x41, 0x42, 0x43, 0x44, 0x45, 0x46]

/-- A REPEAT delivers a pending response as a POLL does; with the slot EMPTY it shifts out the last
response again, unchanged in every byte; otherwise an IDLE frame (the layouts of R189). The slot and the
last response stay (R170). The record of status bytes is the model's (log 13). -/
def Obligations.RepeatReturnsTheLastResponse : Prop :=
  ∀ (p : Port) (lags : List Nat) (clocked : List Byte) (s : State),
    s.inFullReset = false → (s.ports.get p).inReset = false →
    let response (r : Response) : List Byte :=
      [0x6E, r.tag, r.kind, r.status.code, BitVec.ofNat 8 r.payload.length] ++ r.payload
    let idle : List Byte :=
      [0x6F,
        (match (s.ports.get p).frameFault with
          | .none => 0 | .crc => 1 | .length => 2 | .truncated => 3 | .unknownType => 4
          | .requestWhileBusy => 5),
        if (s.ports.get p).slot.isWorking then 1 else 0]
    let shifted (body : List Byte) : List Byte :=
      (s.statusBytes p lags 1
        ++ (body ++ [crc8 body] ++ List.replicate clocked.length 0)).take (clocked.length + 1)
    (∀ h r, (s.ports.get p).slot = .answered h r →
      exec (.repeatFrame ⟨p, lags⟩ clocked) s =
        .next
          { s.frameEnds p with
            ports :=
              s.ports.set p
                { s.ports.get p with
                  slot := .empty, lastResponse := some r, frameFault := .none
                  miso := shifted (response r) } })
    ∧ (∀ r, (s.ports.get p).slot = .empty → (s.ports.get p).lastResponse = some r →
      exec (.repeatFrame ⟨p, lags⟩ clocked) s =
        .next
          { s.frameEnds p with
            ports :=
              s.ports.set p
                { s.ports.get p with frameFault := .none, miso := shifted (response r) } })
    ∧ (((s.ports.get p).slot = .empty ∧ (s.ports.get p).lastResponse = none
          ∨ (s.ports.get p).slot.isWorking = true) →
      exec (.repeatFrame ⟨p, lags⟩ clocked) s =
        .next
          { s.frameEnds p with
            ports :=
              s.ports.set p { s.ports.get p with frameFault := .none, miso := shifted idle } })

/-- The three checks of the port on a request it has taken, in their order, each answered at once with
an empty payload and no change to any block (R172); the kind codes are those of R192, the payload
lengths those of R193. The record of status bytes is the model's (log 13). -/
def Obligations.PortChecksRefuse : Prop :=
  ∀ (p : Port) (lags : List Nat) (tag kind : Byte) (k : Kind) (pl : List Byte) (s : State),
    Ready s p → pl.length ≤ 96 →
    let lengths : List Nat :=
      match k with
      | .attach | .detach | .queryTime | .start | .stop | .nextQuery | .release
      | .queryAuthority => [0]
      | .setAttention | .entryList | .purgePort | .lineQuery | .setGrace | .subscribe
      | .readCaptures | .fetchNotices => [1]
      | .entryCancel | .entryHold | .entryResume | .entryQuery | .setQuota | .forceLine | .renew
      | .ackNotices => [2]
      | .claim => [3]
      | .slew | .setLinePolicy | .setCapture => [4]
      | .step => [8]
      | .entryAdd => (List.range 5).map fun c => 22 + 5 * c
    ((∀ j ∈ allKinds, j.code ≠ kind) →
      exec (.badKind ⟨p, lags⟩ tag kind pl) s =
        .next (answeredState s p lags tag kind pl.length .badKind []))
    ∧ allKinds.map Kind.code =
        [0x10, 0x11, 0x12, 0x20, 0x21, 0x22, 0x23, 0x24, 0x30, 0x31, 0x32, 0x33, 0x34, 0x35, 0x36,
          0x37, 0x38, 0x40, 0x41, 0x42, 0x50, 0x51, 0x52, 0x53, 0x54, 0x60, 0x61, 0x62, 0x70, 0x71]
    ∧ k ∈ allKinds
    ∧ (k.takesLength pl.length = true ↔ pl.length ∈ lengths)
    ∧ (pl.length ∉ lengths →
      exec (requestCommand k ⟨p, lags⟩ tag pl) s =
        .next (answeredState s p lags tag k.code pl.length .badLength []))
    ∧ (pl.length ∈ lengths → s.attached p = false →
        k ∉ [Kind.attach, Kind.queryTime, Kind.queryAuthority] →
      exec (requestCommand k ⟨p, lags⟩ tag pl) s =
        .next (answeredState s p lags tag k.code pl.length .notAttached []))

/-- A privileged request from an attached port that is not the holder is refused with NOT_AUTHORITY
whatever its fields hold (R104). While a pass is in flight, the schedule answers RETRY to the requests
that depend on the order of the due list, before any other check of the request (R71). Neither changes
anything but the answer. The record of status bytes is the model's (log 13). -/
def Obligations.AuthorityAndRetryChecks : Prop :=
  ∀ (p : Port) (lags : List Nat) (tag : Byte) (k : Kind) (pl : List Byte) (s : State),
    Ready s p → s.attached p = true → k.takesLength pl.length = true →
    (k ∈ privilegedKinds → s.holder ≠ some p →
      exec (requestCommand k ⟨p, lags⟩ tag pl) s =
        .next (answeredState s p lags tag k.code pl.length .notAuthority []))
    ∧ (Admitted s p k → k ∈ retryKinds → s.schedule.pass.isSome = true →
      exec (requestCommand k ⟨p, lags⟩ tag pl) s =
        .next (answeredState s p lags tag k.code pl.length .retry []))

/-- A request of a port that may send it is refused with BAD_FIELD when a field of it lies outside its
range or names no value, and nothing changes (R191, and the rule of each request); in a pass too, where
it is no request that RETRY answers (R71; a STEP by R16 before BUSY). The record of status bytes is the
model's (log 13). -/
def Obligations.BadFieldsAreRefused : Prop :=
  ∀ (p : Port) (lags : List Nat) (tag : Byte) (k : Kind) (pl : List Byte) (s : State),
    Ready s p → Admitted s p k → k.takesLength pl.length = true →
    (s.schedule.pass = none ∨ k ∉ retryKinds) → badField k pl →
      exec (requestCommand k ⟨p, lags⟩ tag pl) s =
        .next (answeredState s p lags tag k.code pl.length .badField [])

/-- An answer becomes the pending response of the request that bears its ticket, and is otherwise
discarded (R168). -/
def Obligations.AnswersGoToTheirTicket : Prop :=
  ∀ (p : Port) (ticket : BitVec 16) (st : Status) (pl : List Byte) (s : State),
    (∀ h, (s.ports.get p).slot = .working h → h.ticket = ticket →
      s.answer p ticket st pl =
        { s with
          ports :=
            s.ports.set p
              { s.ports.get p with
                slot :=
                  .answered h
                    { tag := h.tag, kind := h.kind, status := st
                      payload := if st.carriesPayload then pl else [] } } })
    ∧ ((∀ h, (s.ports.get p).slot = .working h → h.ticket ≠ ticket) → s.answer p ticket st pl = s)

/-! ### Sessions and resets (09) -/

/-- ATTACH from a detached port opens a session (R179, R180): the notice queue is new, the port's
orphans that are not cancel_pending are re-adopted, the reset cause is reported once. From an attached
port it is refused with ALREADY_ATTACHED and changes nothing. The record of status bytes is the model's
(log 13). -/
def Obligations.AttachOpensASession : Prop :=
  ∀ (p : Port) (lags : List Nat) (tag : Byte) (s : State), Ready s p →
    (s.attached p = false →
      let readopted (e : Entry) : Bool := e.owner = p && e.orphaned && !e.cancelPending
      let cause : Byte :=
        if (s.ports.get p).causeReported then 0
        else match s.resetCause with | .powerOn => 1 | .pin => 2
      exec (.attach ⟨p, lags⟩ tag []) s =
        .next
          { s.frameEnds p with
            ports :=
              s.ports.set p
                { answeredPort s p lags tag 0x10 0 .ok
                    ([cause, natByte (s.schedule.count readopted)] ++ leBytes 6 s.timebase.now
                      ++ leBytes 2 s.timebase.epoch.toNat
                      ++ [s.timebase.state.code, portByte s.holder, s.authority.rank.code]) with
                  session := .attached, causeReported := true }
            notices :=
              s.notices.set p { queue := [], nextSeq := 0, overflow := 0, attention := true }
            schedule :=
              { s.schedule with
                slots :=
                  s.schedule.slots.map fun sl =>
                    { sl with
                      entry :=
                        sl.entry.map fun e =>
                          if readopted e then { e with orphaned := false } else e } } })
    ∧ (s.attached p = true →
      exec (.attach ⟨p, lags⟩ tag []) s =
        .next (answeredState s p lags tag 0x10 0 .alreadyAttached []))

/-- DETACH makes the detach of R182, clears the last response and is answered with the counts of R183
(the reading of `cancelled` and `deferred` is the model's, log 11 and log 12). The record of status
bytes is the model's (log 13). -/
def Obligations.DetachClosesTheSession : Prop :=
  ∀ (p : Port) (lags : List Nat) (tag : Byte) (s : State), Ready s p → s.attached p = true →
    ∃ t, exec (.detach ⟨p, lags⟩ tag []) s = .next t
      ∧ DetachLeaves s t p ∧ t.trails = (s.frameEnds p).trails
      ∧ t.ports =
          s.ports.set p
            { answeredPort s p lags tag 0x11 0 .ok
                [natByte (s.schedule.count fun e => e.owner = p && e.orphanPolicy = .continue),
                 natByte (s.schedule.count fun e => e.owner = p && e.orphanPolicy = .cancel),
                 boolByte s.schedule.pass.isSome,
                 (if s.holder = some p then 1 else if s.authority.waits p then 2 else 0),
                 (if s.holder = some p then portByte t.holder else 0xFF)] with
              session := .detached, lastResponse := none }

/-- A port reset detaches an attached port and clears its interface; next ticket and the cause reported
flag keep their values; the release of the pin changes nothing but the pin (R175, R187). A port reset
asserted during a full reset adds nothing but the level of its pin (R188). In a port reset the status byte
is A0h (R190). The record of status bytes is the model's: those before a port reset stay noted, for the
frames it overlaps, those before its release do not (log 13). -/
def Obligations.PortResetDetachesAndClears : Prop :=
  ∀ (p : Port) (s : State),
    (s.inFullReset = false →
      ∃ t, exec (.portReset p) s = .next t
        ∧ (s.attached p = true → DetachLeaves s t p)
        ∧ (s.attached p = false → t = { s with trails := t.trails, ports := t.ports })
        ∧ t.trails = s.noted.trails ∧ t.statusByte p = 0xA0
        ∧ t.ports =
            s.ports.set p
              { s.ports.get p with
                session := .detached, slot := .empty, lastResponse := none, frameFault := .none
                inReset := true })
    ∧ (s.inFullReset = true →
      exec (.portReset p) s =
        .next { s with ports := s.ports.set p { s.ports.get p with inReset := true } })
    ∧ exec (.portResetRelease p) s =
        .next
          { s.frameEnds p with
            ports := s.ports.set p { s.ports.get p with inReset := false } }

/-- A full reset returns every block to its reset values and holds the part; the nPRSTp pins stand as they
are, and the cause is that of R178 (R188). Every status byte is A0h (R190). Of the model's own records, no
byte of MISO is left (log 5), and the status bytes before the reset stay noted, for the frames it overlaps
(log 13). While it lasts, no event of the part and no edge of a capture input is taken: nothing changes
(R126, R188; log 14). -/
def Obligations.FullResetReturnsEveryBlock : Prop :=
  ∀ (cause : ResetCause) (s : State),
    (s.inFullReset = true → ∀ (l : LineIx) (n : InputIx) (edge : Edge),
      ∀ c ∈ [Instr.referenceMicrosecond, .referenceMillisecond, .slewDone, .leaseExpiry,
          .graceExpiry, .captureEdge n edge, .expiry, .pulseEnd l, .passComplete],
        exec c s = .next s)
    ∧ ∃ t, exec (.fullReset cause) s = .next t
      ∧ t.inFullReset = true
      ∧ t.resetCause =
          (if s.inFullReset = true ∧ s.resetCause = .powerOn then .powerOn else cause)
      ∧ t.timebase =
          { state := .stopped, now := 0, epoch := 0, stopWaiters := [], slew := none, refclk := 0
            micros := 0, msDue := false }
      ∧ (∀ i : SlotIx, t.schedule.slots.get i = { tag := 0, entry := none })
      ∧ t.schedule.dueList = [] ∧ (∀ n : InputIx, t.schedule.waiting.get n = [])
      ∧ t.schedule.sweep = none ∧ t.schedule.pass = none
      ∧ (∀ q : Port, t.schedule.quota.get q = 32 ∧ t.schedule.usage.get q = 0)
      ∧ (∀ l : LineIx,
          (t.lines.get l).base = .deasserted ∧ (t.lines.get l).pulse = none
            ∧ (t.lines.get l).force = none ∧ (t.lines.get l).polarity = .activeHigh
            ∧ (t.lines.get l).mode = .shared ∧ (t.lines.get l).writerMask = 7
            ∧ (∀ q : Port, (t.lines.get l).refs.get q = 0) ∧ (t.lines.get l).exclHolder = none
            ∧ (t.lines.get l).retriggers = 0 ∧ (t.lines.get l).pin = .low)
      ∧ t.authority =
          { tenure := none, waiters := [], demand := none, graceSetting := 50
            rank := s.authority.rank }
      ∧ (∀ n : InputIx,
          (t.capture.inputs.get n).edge = .off ∧ (t.capture.inputs.get n).holdoff = 0
            ∧ (t.capture.inputs.get n).sinceLast = none)
      ∧ t.capture.sequence = 0 ∧ t.capture.log = []
      ∧ (∀ q : Port,
          t.capture.subscriptions.get q = 0
            ∧ t.notices.get q = { queue := [], nextSeq := 0, overflow := 0, attention := false }
            ∧ t.attn q = false
            ∧ t.ports.get q =
                { session := .detached, slot := .empty, lastResponse := none, frameFault := .none
                  nextTicket := 0, causeReported := false, inReset := (s.ports.get q).inReset
                  miso := [] }
            ∧ t.statusByte q = 0xA0)
      ∧ t.trails = s.noted.trails
      ∧ t.pending = s.pending

/-- When a full reset ends, the straps are sampled, the dividers start from 0 and each input's level is
taken from its pin; nothing else changes (R188) but the model's record of status bytes, which starts
empty (log 13). Outside a full reset there is no such event (log 14). -/
def Obligations.FullResetEndSamplesThePins : Prop :=
  ∀ (rank1 rank0 : Bool) (levels : InputSet) (s : State),
    (s.inFullReset = true →
      ∃ t, exec (.fullResetEnd rank1 rank0 levels) s = .next t
        ∧ t = { s with
                inFullReset := false
                trails := t.trails
                timebase := { s.timebase with refclk := 0, micros := 0, msDue := false }
                authority := { s.authority with rank := { rank1 := rank1, rank0 := rank0 } }
                capture := { s.capture with inputs := t.capture.inputs } }
        ∧ (∀ q : Port, t.trails.get q = [])
        ∧ ∀ n : InputIx,
            t.capture.inputs.get n =
              { s.capture.inputs.get n with level := if levels.getLsbD n then .high else .low })
    ∧ (s.inFullReset = false → exec (.fullResetEnd rank1 rank0 levels) s = .next s)

/-! ### Notice queues (07) -/

/-- A posted notice is not stored for a detached port, discarded into the overflow set of a full queue, and
otherwise appended with the next seq, the Now and the epoch (R145). A queue that an acknowledgement of one
notice leaves full, with the OVERFLOW it appended, is full too: R155 calls the notice posted next stored,
and that it is discarded is the model's choice (log 20). -/
def Obligations.PostStoresOrDiscards : Prop :=
  ∀ (p : Port) (body : NoticeBody) (s : State),
    (s.attached p = false → s.post p body = s)
    ∧ (s.attached p = true → 16 ≤ (s.notices.get p).queue.length →
      s.post p body =
        { s with
          notices :=
            s.notices.set p
              { s.notices.get p with
                overflow := (s.notices.get p).overflow ||| BitVec.twoPow 16 body.kind.code } })
    ∧ (s.attached p = true → (s.notices.get p).queue.length < 16 →
      s.post p body =
        { s with
          notices :=
            s.notices.set p
              { s.notices.get p with
                queue :=
                  (s.notices.get p).queue
                    ++ [{ seq := (s.notices.get p).nextSeq, stamp := s.timebase.now
                          epoch := s.timebase.epoch, body := body }]
                nextSeq := (s.notices.get p).nextSeq + 1 } })

/-- The attention line is high exactly while its port is ATTACHED, its queue holds a notice and its enable
is on (R156); the status byte is 1010b, the attached flag, the attention value and the slot state
(R190); SET_ATTENTION sets the enable and answers the setting it replaced (R157). Each byte of a frame
shows the status byte that stood when it began (R166): out of `seen`, the status bytes since the port's
previous frame with the present one first, as many changes back as its lag says (the model's way of
placing the bytes in time, log 13); a byte's lag is at most the one before it, and 0 where none is given. -/
def Obligations.AttentionLineAndStatusByte : Prop :=
  ∀ (p : Port) (lags : List Nat) (tag : Byte) (on : Bool) (n : Nat) (s : State),
    (s.attn p = true ↔
      (s.ports.get p).session = .attached ∧ (s.notices.get p).queue ≠ []
        ∧ (s.notices.get p).attention = true)
    ∧ ((s.statusByte p).toNat =
      160 + (if (s.ports.get p).session = .attached then 8 else 0) + (if s.attn p then 4 else 0)
        + (match (s.ports.get p).slot with | .empty => 0 | .working _ => 1 | .answered _ _ => 2))
    ∧ (Ready s p → s.attached p = true →
      exec (.setAttention ⟨p, lags⟩ tag [boolByte on]) s =
        .next
          { s.frameEnds p with
            notices := s.notices.set p { s.notices.get p with attention := on }
            ports :=
              answeredPorts s p lags tag 0x12 1 .ok [boolByte (s.notices.get p).attention] })
    ∧ s.noted = { s with trails := s.noted.trails }
    ∧ s.frameEnds p = { s with trails := s.noted.trails.set p [] }
    ∧ (∀ q : Port,
        s.noted.trails.get q =
          if (s.trails.get q).head? = some (s.statusByte q) then s.trails.get q
          else s.statusByte q :: s.trails.get q)
    ∧ let seen := s.noted.trails.get p
      (s.statusBytes p lags n).length = n
      ∧ ∀ j < n,
          (s.statusBytes p lags n)[j]? =
            seen[if j < lags.length then (lags.take (j + 1)).foldl min (seen.length - 1) else 0]?

/-- FETCH_NOTICES returns the oldest notices, up to max of them, the number queued and the overflow set,
and changes nothing but the answer (R152). Each notice is the 23 bytes of R194: the kind code with the
flags above it, seq, stamp, epoch, the subject in 2 bytes and the detail filled to 10, by kind as R195
lays them out with the codes of R192. The record of status bytes is the model's (log 13). -/
def Obligations.FetchNoticesReturnsTheOldest : Prop :=
  ∀ (p : Port) (lags : List Nat) (tag : Byte) (max : Nat) (s : State),
    Ready s p → s.attached p = true → 1 ≤ max → max ≤ 4 →
    let one (n : Nat) : Byte := BitVec.ofNat 8 n
    let word (w : BitVec 16) : List Byte := leBytes 2 w.toNat
    let bit (b : Bool) (k : Nat) : Nat := if b then k else 0
    let handle (h : Handle) : List Byte := [one h.slot.val, h.tag]
    let port (q : Option Port) : List Byte :=
      match q with | some x => [one x.val, 0] | none => [0xFF, 0xFF]
    let text (l : Option (BitVec 16)) : List Byte :=
      match l with | some w => word w | none => [0, 0]
    let cause (r : AuthReason) : Byte :=
      match r with
      | .claim => 0 | .released => 1 | .leaseExpired => 2 | .preempted => 3 | .detached => 4
    -- kind code, flags from bit 4 up, subject, detail
    let fields (b : NoticeBody) : Nat × Nat × List Byte × List Byte :=
      match b with
      | .fired h label due _ _ late missed final timeRange =>
        (1, bit label.isSome 1 + bit late 2 + bit final 4 + bit timeRange 8, handle h,
          leBytes 6 due ++ text label ++ leBytes 2 missed)
      | .entryCancelled h label reason =>
        (2, bit label.isSome 1, handle h,
          (match reason with
            | .purged => 1 | .step => 2 | .stepRange => 3 | .timeRange => 4) :: text label)
      | .actionDenied h label line kind =>
        (3, bit label.isSome 1, handle h,
          [one line.val,
            (match kind with | .pulse => 0 | .assert => 1 | .release => 2 | .invert => 3)]
            ++ text label)
      | .captureTriggered h label input seq _ due =>
        (4, bit label.isSome 1 + 2 * input.val, handle h, leBytes 6 due ++ word seq ++ text label)
      | .authorityChanged q reason => (5, 0, port q, [cause reason])
      | .authorityWanted q urgent n => (6, 0, port (some q), [one (bit urgent 1), one n])
      | .yieldDemanded q grace => (7, 0, port (some q), [one grace])
      | .authorityGranted q lease reason =>
        (8, 0, port (some q), leBytes 2 lease ++ [cause reason])
      | .authorityLost q reason => (9, 0, port q, [cause reason])
      | .timeStepped q old _ _ => (10, 0, port (some q), leBytes 6 old)
      | .timebaseState news =>
        (11, 0, port none, [match news with | .started => 0 | .stopped => 1 | .timeEnd => 2])
      | .slewEnded reason remaining =>
        (12, 0, port none,
          (match reason with
            | .done => 0 | .cancelled => 1 | .superseded => 2 | .stepped => 3 | .timeEnd => 4)
          :: leBytes 2 remaining)
      | .captureAvailable input seq owed => (13, 0, [one input.val, 0], word seq ++ [one owed])
      | .captureDropped input edge seq stamp stopped epoch reason =>
        (14,
          bit (decide (edge = .falling)) 1 + bit stopped 2
            + bit (decide (reason = .sequenceInUse)) 4,
          [one input.val, 0], word seq ++ leBytes 6 stamp ++ word epoch)
      | .overflow kinds => (15, 0, port none, word kinds)
    let record (n : Notice) : List Byte :=
      let (kind, flags, subject, detail) := fields n.body
      [one (kind + 16 * flags)] ++ word n.seq ++ leBytes 6 n.stamp ++ word n.epoch ++ subject
        ++ detail ++ List.replicate (10 - detail.length) 0
    exec (.fetchNotices ⟨p, lags⟩ tag [one max]) s =
      .next
        (answeredState s p lags tag 0x70 1 .ok
          ([one (min max (s.notices.get p).queue.length), one (s.notices.get p).queue.length]
            ++ word (s.notices.get p).overflow
            ++ ((s.notices.get p).queue.take max).flatMap record))
    ∧ ∀ n : Notice, (record n).length = 23

/-- ACK_NOTICES removes the notices through the one it names and appends the OVERFLOW notice when the
overflow set is non-empty; a seq that no notice bears is refused with BAD_SEQ (R151, R153). The record
of status bytes is the model's (log 13). -/
def Obligations.AckNoticesRemovesThroughSeq : Prop :=
  ∀ (p : Port) (lags : List Nat) (tag : Byte) (seq : BitVec 16) (before after : List Notice)
    (n : Notice) (s : State),
    Ready s p → s.attached p = true →
    let q := s.notices.get p
    ((∀ x ∈ q.queue, x.seq ≠ seq) →
      exec (.ackNotices ⟨p, lags⟩ tag (leBytes 2 seq.toNat)) s =
        .next (answeredState s p lags tag 0x71 2 .badSeq []))
    ∧ (q.queue = before ++ n :: after → n.seq = seq → (∀ x ∈ before, x.seq ≠ seq) →
      (q.overflow = 0 →
        exec (.ackNotices ⟨p, lags⟩ tag (leBytes 2 seq.toNat)) s =
          .next
            { s.frameEnds p with
              notices := s.notices.set p { q with queue := after }
              ports :=
                answeredPorts s p lags tag 0x71 2 .ok
                  [natByte (before.length + 1), natByte after.length, 0, 0, 0] })
      ∧ (q.overflow ≠ 0 →
        exec (.ackNotices ⟨p, lags⟩ tag (leBytes 2 seq.toNat)) s =
          .next
            { s.frameEnds p with
              notices :=
                s.notices.set p
                  { q with
                    queue :=
                      after
                        ++ [{ seq := q.nextSeq, stamp := s.timebase.now
                              epoch := s.timebase.epoch, body := .overflow q.overflow }]
                    nextSeq := q.nextSeq + 1
                    overflow := 0 }
              ports :=
                answeredPorts s p lags tag 0x71 2 .ok
                  ([natByte (before.length + 1), natByte (after.length + 1), 1]
                    ++ leBytes 2 q.nextSeq.toNat) }))

/-! ### Timebase (01) -/

/-- QUERY_TIME and QUERY_AUTHORITY are answered to any port, attached or detached, with the fields of
R20 and R123, and change nothing but the answer. The record of status bytes is the model's (log 13). -/
def Obligations.QueriesOfTimeAndAuthority : Prop :=
  ∀ (p : Port) (lags : List Nat) (tag : Byte) (s : State), Ready s p →
    let a := s.authority
    let waiter (w : Option WaiterRec) : List Byte :=
      match w with
      | some x => natByte x.port.val :: (leBytes 2 x.lease ++ [boolByte x.urgent])
      | none => [0, 0, 0, 0]
    (exec (.queryTime ⟨p, lags⟩ tag []) s =
      .next
        (answeredState s p lags tag 0x20 0 .ok
          (leBytes 6 s.timebase.now ++ [s.timebase.state.code] ++ leBytes 2 s.timebase.epoch.toNat
            ++ [(if s.timebase.stopWaiters = [] then 0 else 1)
                  + (if s.schedule.pass = none then 0 else 2)]
            ++ (match s.timebase.slew with
                | some sl => leBytes 2 (BitVec.ofInt 16 sl.rate).toNat ++ leBytes 2 sl.remaining
                | none => [0, 0, 0, 0]))))
    ∧ exec (.queryAuthority ⟨p, lags⟩ tag []) s =
      .next
        (answeredState s p lags tag 0x53 0 .ok
          ([(match a.tenure, a.demand with
              | none, _ => 0 | some _, none => 1 | some _, some _ => 2),
            portByte (a.tenure.map Tenure.port)]
            ++ leBytes 2 (match a.tenure with | some x => x.leaseRemaining | none => 0)
            ++ [natByte a.waiters.length] ++ waiter a.waiters[0]? ++ waiter a.waiters[1]?
            ++ [portByte (a.demand.map Demand.port),
                (match a.demand with | some d => natByte d.graceRemaining | none => 0),
                natByte a.graceSetting,
                (if a.rank.rank1 then 2 else 0) + (if a.rank.rank0 then 1 else 0)]))

/-- START from the holder, by the state it finds (R5). The third form asks that no abandoned STOP bears
the ticket that this request takes (R168). The record of status bytes is the model's (log 13). -/
def Obligations.StartTaken : Prop :=
  ∀ (p : Port) (lags : List Nat) (tag : Byte) (s : State), Ready s p → Admitted s p .start →
    let now := leBytes 6 s.timebase.now
    (s.timebase.state = .stopped → s.timebase.now < maxNow →
      ∃ t, exec (.start ⟨p, lags⟩ tag []) s = .next t
        ∧ t = { s.frameEnds p with
                timebase := { s.timebase with state := .running }
                ports := answeredPorts s p lags tag 0x21 0 .ok now
                notices := t.notices }
        ∧ Told s t fun q => if q = p then [] else [.timebaseState .started])
    ∧ (s.timebase.state = .stopped → s.timebase.now = maxNow →
      exec (.start ⟨p, lags⟩ tag []) s = .next (answeredState s p lags tag 0x21 0 .timeRange []))
    ∧ (s.timebase.state = .running →
      exec (.start ⟨p, lags⟩ tag []) s = .next (answeredState s p lags tag 0x21 0 .ok now))
    ∧ (s.timebase.state = .stopping →
        (∀ w ∈ s.timebase.stopWaiters, w.port = p → w.ticket ≠ (s.ports.get p).nextTicket) →
      ∃ t, exec (.start ⟨p, lags⟩ tag []) s = .next t
        ∧ t = { s.frameEnds p with
                timebase := { s.timebase with state := .running, stopWaiters := [] }
                ports := t.ports }
        ∧ t.ports.get p = answeredPort s p lags tag 0x21 0 .ok now
        ∧ ∀ q : Port, q ≠ p →
            t.ports.get q =
              match (s.ports.get q).slot with
              | .working h =>
                if { port := q, ticket := h.ticket } ∈ s.timebase.stopWaiters then
                  { s.ports.get q with
                    slot :=
                      .answered h
                        { tag := h.tag, kind := h.kind, status := .overtaken, payload := now } }
                else s.ports.get q
              | .empty | .answered _ _ => s.ports.get q)

/-- STOP from the holder: answered at once in STOPPED; otherwise the state is STOPPING, the request is
held in stop_waiters and its port stays WORKING (R6). The record of status bytes is the model's (log
13). -/
def Obligations.StopTaken : Prop :=
  ∀ (p : Port) (lags : List Nat) (tag : Byte) (s : State), Ready s p → Admitted s p .stop →
    (s.timebase.state = .stopped →
      exec (.stop ⟨p, lags⟩ tag []) s =
        .next (answeredState s p lags tag 0x22 0 .ok (leBytes 6 s.timebase.now)))
    ∧ (s.timebase.state ≠ .stopped →
      exec (.stop ⟨p, lags⟩ tag []) s =
        .next
          { s.frameEnds p with
            timebase :=
              { s.timebase with
                state := .stopping
                stopWaiters :=
                  s.timebase.stopWaiters
                    ++ [{ port := p, ticket := (s.ports.get p).nextTicket }] }
            ports := s.ports.set p (askedPort s p lags tag 0x22 0) })

/-- STEP from the holder (R16, R17): with a pass in flight it is refused with BUSY, and with a new Now
outside 0 to 2^48-1 with TIME_RANGE; otherwise the step is taken at once and the port stays WORKING. The
entries that their step policy frees are counted no longer (R28). The record of status bytes is the
model's (log 13). -/
def Obligations.StepTaken : Prop :=
  ∀ (p : Port) (lags : List Nat) (tag : Byte) (pl : List Byte) (s : State),
    Ready s p → Admitted s p .step → pl.length = 8 → ¬ badField .step pl →
    let ticket := (s.ports.get p).nextTicket
    let old := s.timebase.now
    let new : Int :=
      if pl.getD 0 0 = 0 then (natAt pl 2 6 : Int)
      else if pl.getD 1 0 = 0 then (old : Int) + natAt pl 2 6
      else (old : Int) - natAt pl 2 6
    (s.schedule.pass.isSome = true →
      exec (.step ⟨p, lags⟩ tag pl) s = .next (answeredState s p lags tag 0x23 8 .busy []))
    ∧ (s.schedule.pass = none → (new < 0 ∨ maxNow < new) →
      exec (.step ⟨p, lags⟩ tag pl) s = .next (answeredState s p lags tag 0x23 8 .timeRange []))
    ∧ (s.schedule.pass = none → 0 ≤ new → new ≤ maxNow → ListsWf s →
      ∃ t, exec (.step ⟨p, lags⟩ tag pl) s = .next t
        ∧ t = { s.frameEnds p with
                timebase :=
                  { s.timebase with now := new.toNat, epoch := s.timebase.epoch + 1, slew := none }
                schedule := t.schedule
                lines := t.lines
                notices := t.notices
                ports := s.ports.set p (askedPort s p lags tag 0x23 8) }
        ∧ t.schedule =
            { s.schedule with
              slots := t.schedule.slots
              usage := t.schedule.usage
              dueList := s.schedule.dueList.filter fun i => (t.schedule.entryAt i).isSome
              sweep := none
              pass :=
                some
                  { stepper := { port := p, ticket := ticket }, oldNow := old
                    newNow := new.toNat
                    cancelled :=
                      (indices 64).countP fun i =>
                        (s.schedule.entryAt i).isSome && (t.schedule.entryAt i).isNone
                    advanced := false, age := 0 } }
        ∧ (∀ i : SlotIx,
            t.schedule.slots.get i = steppedSlot (new - old) (s.schedule.slots.get i))
        ∧ Uncounted s t
        ∧ (∀ l : LineIx,
            (t.lines.get l).pulse =
                ((s.lines.get l).pulse.map fun u =>
                  { u with
                    endTime :=
                      if new + ((u.endTime : Int) - old) < 0 then 0
                      else if maxNow < new + ((u.endTime : Int) - old) then maxNow
                      else (new + ((u.endTime : Int) - old)).toNat })
              ∧ t.lines.get l =
                  { s.lines.get l with
                    pulse := (t.lines.get l).pulse
                    refs := (t.lines.get l).refs
                    exclHolder := (t.lines.get l).exclHolder })
        ∧ Told s t fun q =>
            (match s.timebase.slew with
              | some sl => if q = p then [.slewEnded .stepped sl.remaining] else []
              | none => [])
            ++ (if q = p then []
                else [.timeStepped p old new.toNat (s.timebase.epoch + 1)])
            ++ (indices 64).filterMap fun i =>
                match s.schedule.entryAt i with
                | none => none
                | some e =>
                  if e.owner = q ∧ e.orphaned = false ∧ e.cancelPending = false then
                    (stepReason (new - old) e).map
                      (.entryCancelled (s.schedule.handleAt i) e.label)
                  else none)

/-- SLEW from the holder (R11): rate 0 ends a slew with CANCELLED; another rate ends it with SUPERSEDED
and begins a new record; the response carries the remaining milliseconds of the slew that was ended, and
the holder is told of its end (R15). The record of status bytes is the model's (log 13). -/
def Obligations.SlewTaken : Prop :=
  ∀ (p : Port) (lags : List Nat) (tag : Byte) (pl : List Byte) (s : State),
    Ready s p → Admitted s p .slew → pl.length = 4 → ¬ badField .slew pl →
    let raw := natAt pl 0 2
    let rate : Int := if raw < 32768 then (raw : Int) else (raw : Int) - 65536
    let ended := match s.timebase.slew with | some sl => sl.remaining | none => 0
    ∃ t, exec (.slew ⟨p, lags⟩ tag pl) s = .next t
      ∧ t = { s.frameEnds p with
              timebase :=
                { s.timebase with
                  slew :=
                    if rate = 0 then none
                    else
                      some { rate := rate, remaining := natAt pl 2 2, phase := 0
                             accumulator := 0 } }
              notices := t.notices
              ports := answeredPorts s p lags tag 0x24 4 .ok (leBytes 2 ended) }
      ∧ Told s t fun q =>
          match s.timebase.slew with
          | some sl =>
            if q = p then
              [.slewEnded (if rate = 0 then .cancelled else .superseded) sl.remaining]
            else []
          | none => []

/-- A reference microsecond while the timebase is STOPPED changes only the dividers, the age of a pass
and the holdoffs (R1, R3, R14, R128; the age is the model's, log 6). A pass that has lasted its 100
microseconds completes first (R69). The record of status bytes is the model's (log 13). -/
def Obligations.MicrosecondInStopped : Prop :=
  ∀ (s : State), s.inFullReset = false →
    (s.timebase.state = .stopped → ¬ Overdue s →
      ∃ t, exec .referenceMicrosecond s = .next t
        ∧ t = { s.noted with
                timebase :=
                  { s.timebase with
                    refclk := 0
                    micros := if s.timebase.micros + 1 < 1000 then s.timebase.micros + 1 else 0
                    msDue := s.timebase.msDue || decide (1000 ≤ s.timebase.micros + 1) }
                schedule :=
                  { s.schedule with
                    pass := s.schedule.pass.map fun a => { a with age := a.age + 1 } }
                capture := { s.capture with inputs := t.capture.inputs } }
        ∧ ∀ n : InputIx,
            t.capture.inputs.get n =
              { s.capture.inputs.get n with
                sinceLast := (s.capture.inputs.get n).sinceLast.map fun k => min (k + 1) 65535 })
    ∧ (Overdue s →
      ∃ u, exec .passComplete s = .next u
        ∧ exec .referenceMicrosecond s = exec .referenceMicrosecond u)

/-- A reference microsecond in RUNNING or STOPPING (R3, R7, R9, R12, R13): Now advances by 1, or by 2 or
0 where the slew corrects; the slew counts down and ends; a STOPPING ends and the time end is taken,
with the answers to the pending STOPs and the notices in their order; the schedule is told. The Now that
stamps the notices is the new one (log 9); a STOP whose port has been reset since counts as answered for
the notice of its port (log 10); the age of a pass is the model's (log 6). The record of status bytes is
the model's (log 13). -/
def Obligations.MicrosecondAdvancesNow : Prop :=
  ∀ (s : State),
    s.inFullReset = false → ¬ Overdue s → s.timebase.state ≠ .stopped →
    let gained := match s.timebase.slew with | some sl => sl.accumulator + sl.rate.natAbs | none => 0
    let rate := match s.timebase.slew with | some sl => sl.rate | none => 0
    let amount := if gained < 1000000 then 1 else if 0 < rate then 2 else 0
    let now := min (s.timebase.now + amount) maxNow
    let ticked : Option Slew :=
      s.timebase.slew.map fun sl =>
        { rate := sl.rate
          remaining := if sl.phase + 1 < 1000 then sl.remaining else sl.remaining - 1
          phase := if sl.phase + 1 < 1000 then sl.phase + 1 else 0
          accumulator := if gained < 1000000 then gained else gained - 1000000 }
    let done := ticked.map Slew.remaining = some 0
    let ends := now = maxNow
    let stops := now = maxNow ∨ s.timebase.state = .stopping
    let told := now ≠ s.timebase.now ∨ now = maxNow
    ∃ t, exec .referenceMicrosecond s = .next t
      ∧ t = { s.noted with
              timebase :=
                { now := now
                  state := if stops then .stopped else s.timebase.state
                  stopWaiters := if stops then [] else s.timebase.stopWaiters
                  slew := if done ∨ ends then none else ticked
                  epoch := s.timebase.epoch
                  refclk := 0
                  micros := if s.timebase.micros + 1 < 1000 then s.timebase.micros + 1 else 0
                  msDue := s.timebase.msDue || decide (1000 ≤ s.timebase.micros + 1) }
              schedule :=
                { s.schedule with
                  pass :=
                    s.schedule.pass.map fun a =>
                      { a with age := a.age + 1, advanced := a.advanced || decide told }
                  sweep :=
                    if told ∧ s.schedule.pass = none then
                      (if (match s.schedule.dueList with
                            | i :: _ => decide (s.schedule.dueAt i ≤ now)
                            | [] => false) = true then some s.schedule.dueList else none)
                    else s.schedule.sweep }
              capture := { s.capture with inputs := t.capture.inputs }
              notices := t.notices
              ports := t.ports }
      ∧ (∀ n : InputIx,
          t.capture.inputs.get n =
            { s.capture.inputs.get n with
              sinceLast := (s.capture.inputs.get n).sinceLast.map fun k => min (k + 1) 65535 })
      ∧ (∀ q : Port,
          t.ports.get q =
            match (s.ports.get q).slot with
            | .working h =>
              if stops ∧ { port := q, ticket := h.ticket } ∈ s.timebase.stopWaiters then
                { s.ports.get q with
                  slot :=
                    .answered h
                      { tag := h.tag, kind := h.kind, status := .ok, payload := leBytes 6 now } }
              else s.ports.get q
            | .empty | .answered _ _ => s.ports.get q)
      ∧ Told s t fun q =>
          (if s.holder = some q then
            (match ticked with
              | some sl =>
                if sl.remaining = 0 then [.slewEnded .done 0]
                else if ends then [.slewEnded .timeEnd sl.remaining] else []
              | none => [])
            else [])
          ++ (if ends then [.timebaseState .timeEnd]
              else if s.timebase.state = .stopping ∧ ∀ w ∈ s.timebase.stopWaiters, w.port ≠ q then
                [.timebaseState .stopped]
              else [])

/-- SLEW_DONE is the reference microsecond at which the slew's remaining reaches 0, taken whole (R13;
log 15); where there is no such microsecond next, nothing happens. The record of status bytes is the
model's (log 13). -/
def Obligations.SlewDoneEndsTheSlew : Prop :=
  ∀ (s : State), s.inFullReset = false →
    (∀ sl, s.timebase.slew = some sl → s.timebase.state ≠ .stopped → sl.phase = 999 →
        sl.remaining = 1 →
      ∃ t, exec .slewDone s = .next t ∧ exec .referenceMicrosecond s = .next t
        ∧ t.timebase.slew = none)
    ∧ ((s.timebase.slew = none ∨ s.timebase.state = .stopped
          ∨ ∃ sl, s.timebase.slew = some sl ∧ 1 ≤ sl.remaining
              ∧ (sl.phase < 999 ∨ 1 < sl.remaining)) →
      exec .slewDone s = .next s.noted)

/-! ### Schedule (02, 03) -/

/-- The payload of an ENTRY_ADD is read as its table lays it out, with every field at every value it may
hold. Not examined, so of any value, are the input of an entry that is not ON_CAPTURE, the allow_late of
one that is not ABSOLUTE, the label bytes of one with no label, and the width bytes of an action that is
no PULSE (R35, R191, R193). Numbers stand least significant byte first (R191), and the named values of
requests and responses have the codes of R192. -/
def Obligations.EntryAddPayloadIsRead : Prop :=
  ∀ (f : AddFields) (input late : Byte) (noLabel : Nat) (noWidth : LineAction → Nat),
    f.time ≤ maxNow → (f.trigger = .onCapture → f.time ≤ 4294967295) →
    (f.input.isSome = true ↔ f.trigger = .onCapture) →
    (f.trigger ≠ .absolute → f.allowLate = false) →
    f.period ≤ 4294967295 → f.repeats ≤ 65535 →
    f.actions.length ≤ 4 → (f.actions.map LineAction.line).Nodup →
    (∀ a ∈ f.actions,
      if a.kind = .pulse then ∃ w ∈ a.width, 1 ≤ w ∧ w ≤ 1048575 else a.width = none) →
    (f.actions ≠ [] ∨ f.notify = true) →
      decodeAdd
        ([f.trigger.code] ++ leBytes 6 f.time
          ++ [(match f.input with | some n => natByte n.val | none => input),
              (if f.trigger = .absolute then boolByte f.allowLate else late)]
          ++ leBytes 4 f.period ++ leBytes 2 f.repeats
          ++ [f.stepPolicy.code, f.orphanPolicy.code, boolByte f.notify,
              boolByte f.label.isSome]
          ++ leBytes 2 (match f.label with | some w => w.toNat | none => noLabel)
          ++ [natByte f.actions.length]
          ++ f.actions.flatMap fun a =>
              [natByte a.line.val, a.kind.code]
                ++ leBytes 3 (match a.width with | some w => w | none => noWidth a)) = some f
      ∧ (∀ k v : Nat, leBytes k v = (List.range k).map fun j => BitVec.ofNat 8 (v / 256 ^ j))
      ∧ [Trigger.absolute, .offset, .onCapture].map Trigger.code = [0, 1, 2]
      ∧ [StepPolicy.keep, .shift, .drop].map StepPolicy.code = [0, 1, 2]
      ∧ [OrphanPolicy.continue, .cancel].map OrphanPolicy.code = [0, 1]
      ∧ [ActionKind.pulse, .assert, .release, .invert].map ActionKind.code = [0, 1, 2, 3]
      ∧ [EntryState.scheduled, .waiting, .held].map EntryState.code = [1, 2, 3]
      ∧ [TimeState.stopped, .running, .stopping].map TimeState.code = [0, 1, 2]
      ∧ [EdgeSetting.off, .rising, .falling, .both].map EdgeSetting.code = [0, 1, 2, 3]
      ∧ [Level.deasserted, .asserted].map Level.code = [0, 1]
      ∧ [PinLevel.low, .high].map PinLevel.code = [0, 1]
      ∧ [none, some Level.asserted, some .deasserted].map forceCode = [0, 1, 2]
      ∧ [Polarity.activeHigh, .activeLow].map Polarity.code = [0, 1]
      ∧ [LineMode.shared, .exclusive].map LineMode.code = [0, 1]
      ∧ [(false, false), (false, true), (true, false), (true, true)].map
          (fun b => ({ rank1 := b.1, rank0 := b.2 } : Rank).code) = [0, 1, 2, 3]

/-- ENTRY_ADD that passes its checks takes the lowest-numbered FREE slot and creates the entry (R38):
the record, the usage, the references with the exclusive holder (R88), and the place in the due list
after every entry of equal due, or at the end of the waiting list of its input (R30, R31). The record of
status bytes is the model's (log 13). -/
def Obligations.EntryAddCreatesTheEntry : Prop :=
  ∀ (p : Port) (lags : List Nat) (tag : Byte) (pl : List Byte) (f : AddFields) (i : SlotIx)
    (s : State),
    Ready s p → Admitted s p .entryAdd → Kind.takesLength .entryAdd pl.length = true →
    s.schedule.pass = none → ListsWf s → decodeAdd pl = some f → s.addRefusal p f = none →
    s.schedule.entryAt i = none → (∀ j : SlotIx, j < i → s.schedule.entryAt j ≠ none) →
    let due : Option Nat :=
      match f.trigger with
      | .absolute => some f.time
      | .offset => some (s.timebase.now + f.time)
      | .onCapture => none
    let upTo (j : SlotIx) : Bool := decide (s.schedule.dueAt j ≤ due.getD 0)
    ∃ t, exec (.entryAdd ⟨p, lags⟩ tag pl) s = .next t
      ∧ t = { s.frameEnds p with
              schedule := t.schedule
              lines := t.lines
              ports :=
                answeredPorts s p lags tag 0x30 pl.length .ok
                  ([natByte i.val, (s.schedule.slots.get i).tag,
                    if f.trigger = .onCapture then 2 else 1] ++ leBytes 6 (due.getD 0)) }
      ∧ t.schedule =
          { s.schedule with
            slots :=
              s.schedule.slots.set i
                { tag := (s.schedule.slots.get i).tag
                  entry :=
                    some
                      { owner := p
                        state := if f.trigger = .onCapture then .waiting else .scheduled
                        orphaned := false, cancelPending := false
                        due := due, trigger := f.trigger, input := f.input
                        captureOffset := if f.trigger = .onCapture then some f.time else none
                        period := f.period
                        repeatsLeft := if f.period = 0 then 0 else f.repeats
                        stepPolicy := f.stepPolicy, orphanPolicy := f.orphanPolicy
                        notify := f.notify, label := f.label, actions := f.actions
                        fired := 0, missed := 0 } }
            usage := s.schedule.usage.set p (s.schedule.usage.get p + 1)
            dueList :=
              if f.trigger = .onCapture then s.schedule.dueList
              else
                s.schedule.dueList.takeWhile upTo ++ i :: s.schedule.dueList.dropWhile upTo
            waiting :=
              match f.input with
              | some n => s.schedule.waiting.set n (s.schedule.waiting.get n ++ [i])
              | none => s.schedule.waiting }
      ∧ ∀ l : LineIx,
          t.lines.get l =
            if l ∈ f.actions.map LineAction.line then
              { s.lines.get l with
                refs := (s.lines.get l).refs.set p ((s.lines.get l).refs.get p + 1)
                exclHolder :=
                  if (s.lines.get l).mode = .exclusive ∧ (s.lines.get l).exclHolder = none then
                    some p
                  else (s.lines.get l).exclHolder }
            else s.lines.get l

/-- Checks 4 to 10 of an ENTRY_ADD, in their order: the first that fails gives the status, and nothing
changes (R34, R36, R37). The record of status bytes is the model's (log 13). -/
def Obligations.EntryAddChecksInOrder : Prop :=
  ∀ (p : Port) (lags : List Nat) (tag : Byte) (pl : List Byte) (f : AddFields) (s : State),
    Ready s p → Admitted s p .entryAdd → Kind.takesLength .entryAdd pl.length = true →
    s.schedule.pass = none → decodeAdd pl = some f →
    let refused (st : Status) : Prop :=
      exec (.entryAdd ⟨p, lags⟩ tag pl) s =
        .next (answeredState s p lags tag 0x30 pl.length st [])
    let wide : Prop :=
      f.period ≠ 0 ∧ ∃ a ∈ f.actions, a.kind = .pulse ∧ f.period ≤ a.width.getD 0
    let denied : Prop :=
      ∃ a ∈ f.actions, (s.lines.get a.line).writerMask.getLsbD p = false
    let inUse : Prop :=
      ∃ a ∈ f.actions, (s.lines.get a.line).mode = .exclusive
        ∧ (s.lines.get a.line).exclHolder ≠ none ∧ (s.lines.get a.line).exclHolder ≠ some p
    let overQuota : Prop := s.schedule.quota.get p ≤ s.schedule.usage.get p
    let full : Prop := ∀ j : SlotIx, s.schedule.entryAt j ≠ none
    let past : Prop := f.trigger = .absolute ∧ f.allowLate = false ∧ f.time ≤ s.timebase.now
    let beyond : Prop := f.trigger = .offset ∧ maxNow < s.timebase.now + f.time
    (wide → refused .badWidth)
    ∧ (¬ wide → denied → refused .lineDenied)
    ∧ (¬ wide → ¬ denied → inUse → refused .lineInUse)
    ∧ (¬ wide → ¬ denied → ¬ inUse → overQuota → refused .quotaExceeded)
    ∧ (¬ wide → ¬ denied → ¬ inUse → ¬ overQuota → full → refused .tableFull)
    ∧ (¬ wide → ¬ denied → ¬ inUse → ¬ overQuota → ¬ full → past → refused .pastDue)
    ∧ (¬ wide → ¬ denied → ¬ inUse → ¬ overQuota → ¬ full → ¬ past → beyond →
        refused .timeRange)
    ∧ (¬ wide → ¬ denied → ¬ inUse → ¬ overQuota → ¬ full → ¬ past → ¬ beyond →
        s.addRefusal p f = none)

/-- The checks on a handle and on the state of its entry (R25, R39, R41, R42, R44). The record of status
bytes is the model's (log 13). -/
def Obligations.HandlesAreChecked : Prop :=
  ∀ (p : Port) (lags : List Nat) (tag : Byte) (k : Kind) (i : SlotIx) (slotTag : Byte) (s : State),
    Ready s p → s.attached p = true →
    k ∈ [Kind.entryCancel, Kind.entryHold, Kind.entryResume, Kind.entryQuery] →
    (k ≠ .entryQuery → s.schedule.pass = none) →
    let refused (st : Status) : Prop :=
      exec (requestCommand k ⟨p, lags⟩ tag [natByte i.val, slotTag]) s =
        .next (answeredState s p lags tag k.code 2 st [])
    ((s.schedule.entryAt i = none ∨ (s.schedule.slots.get i).tag ≠ slotTag) →
      refused .staleHandle)
    ∧ (∀ e, s.schedule.entryAt i = some e → (s.schedule.slots.get i).tag = slotTag →
      (e.owner ≠ p → (k = .entryQuery → s.holder ≠ some p) → refused .notOwner)
      ∧ (e.owner = p → k = .entryHold → e.state ≠ .scheduled → refused .badState)
      ∧ (e.owner = p → k = .entryResume → e.state ≠ .held → refused .badState))

/-- ENTRY_CANCEL frees an entry of the requesting port by R28, whatever its state, and answers its state,
its counts and the number of its pulses in progress, the 6 bytes of R39 and R193; the response carries the
handle and label of R28 beside them, as they stood (log 18); no notice is posted (R39). The record of
status bytes is the model's (log 13). -/
def Obligations.EntryCancelFreesTheEntry : Prop :=
  ∀ (p : Port) (lags : List Nat) (tag : Byte) (i : SlotIx) (e : Entry) (s : State),
    Ready s p → s.attached p = true → s.schedule.pass = none →
    s.schedule.entryAt i = some e → e.owner = p → e.lines.Nodup →
    let h : Handle := { slot := i, tag := (s.schedule.slots.get i).tag }
    ∃ t, exec (.entryCancel ⟨p, lags⟩ tag [natByte i.val, h.tag]) s = .next t
      ∧ t = { s.frameEnds p with
              schedule := t.schedule
              lines := t.lines
              ports :=
                answeredPorts s p lags tag 0x31 2 .ok
                  ([e.state.code] ++ leBytes 2 e.fired ++ leBytes 2 e.missed
                    ++ [natByte
                          ((indices 16).countP fun l =>
                            (s.lines.get l).pulse.map Pulse.source = some h)])
                  (some { handle := h, label := e.label }) }
      ∧ Freed s t i e
      ∧ t.schedule.sweep = s.schedule.sweep.map fun m => m.filter (· ≠ i)

/-- ENTRY_HOLD makes a SCHEDULED entry HELD and takes it out of the due list (R41); ENTRY_RESUME makes a
HELD entry SCHEDULED and places it after every entry of equal due (R42). The due is kept. The record of
status bytes is the model's (log 13). -/
def Obligations.EntryHoldAndResume : Prop :=
  ∀ (p : Port) (lags : List Nat) (tag : Byte) (i : SlotIx) (e : Entry) (s : State),
    Ready s p → s.attached p = true → s.schedule.pass = none → ListsWf s →
    s.schedule.entryAt i = some e → e.owner = p →
    let due := e.due.getD 0
    let slotTag := (s.schedule.slots.get i).tag
    let upTo (j : SlotIx) : Bool := decide (s.schedule.dueAt j ≤ due)
    (e.state = .scheduled →
      exec (.entryHold ⟨p, lags⟩ tag [natByte i.val, slotTag]) s =
        .next
          { s.frameEnds p with
            schedule :=
              { s.schedule with
                slots :=
                  s.schedule.slots.set i { tag := slotTag, entry := some { e with state := .held } }
                dueList := s.schedule.dueList.filter (· ≠ i)
                sweep := s.schedule.sweep.map fun m => m.filter (· ≠ i) }
            ports := answeredPorts s p lags tag 0x32 2 .ok (leBytes 6 due) })
    ∧ (e.state = .held →
      exec (.entryResume ⟨p, lags⟩ tag [natByte i.val, slotTag]) s =
        .next
          { s.frameEnds p with
            schedule :=
              { s.schedule with
                slots :=
                  s.schedule.slots.set i
                    { tag := slotTag, entry := some { e with state := .scheduled } }
                dueList :=
                  s.schedule.dueList.takeWhile upTo ++ i :: s.schedule.dueList.dropWhile upTo }
            ports :=
              answeredPorts s p lags tag 0x33 2 .ok
                (leBytes 6 due ++ [boolByte (decide (due ≤ s.timebase.now))]) })

/-- ENTRY_QUERY, NEXT_QUERY and ENTRY_LIST answer what they read and change nothing else (R44, R45,
R46); an ENTRY_QUERY is taken in a pass too. The entry record is the 52 bytes of R194 with the codes of
R192. The record of status bytes is the model's (log 13). -/
def Obligations.ScheduleQueriesAnswer : Prop :=
  ∀ (p : Port) (lags : List Nat) (tag : Byte) (i : SlotIx) (s : State),
    Ready s p → s.attached p = true →
    let c := s.schedule
    let number (q : Port) (st : EntryState) : Byte :=
      natByte (c.count fun e => e.owner = q && e.state = st)
    let mine : List SlotIx :=
      (indices 64).filter fun j => decide (i ≤ j) && ((c.entryAt j).map Entry.owner == some p)
    let one (n : Nat) : Byte := BitVec.ofNat 8 n
    let bit (b : Bool) (k : Nat) : Nat := if b then k else 0
    let place (a : LineAction) : List Byte :=
      [one a.line.val,
        (match a.kind with | .pulse => 0 | .assert => 1 | .release => 2 | .invert => 3)]
        ++ leBytes 3 (a.width.getD 0)
    let record (e : Entry) : List Byte :=
      [one i.val, (c.slots.get i).tag, one e.owner.val,
        (match e.state with | .scheduled => 1 | .waiting => 2 | .held => 3),
        one (bit e.orphaned 1 + bit e.cancelPending 2 + bit e.notify 4 + bit e.label.isSome 8
          + bit e.due.isSome 16)]
        ++ leBytes 6 (e.due.getD 0)
        ++ [(match e.trigger with | .absolute => (0 : Byte) | .offset => 1 | .onCapture => 2),
            (match e.input with | some n => one n.val | none => 0xFF)]
        ++ leBytes 4 (e.captureOffset.getD 0) ++ leBytes 4 e.period ++ leBytes 2 e.repeatsLeft
        ++ [(match e.stepPolicy with | .keep => (0 : Byte) | .shift => 1 | .drop => 2),
            (match e.orphanPolicy with | .continue => 0 | .cancel => 1)]
        ++ leBytes 2 (match e.label with | some w => w.toNat | none => 0)
        ++ [one e.actions.length] ++ e.actions.flatMap place
        ++ List.replicate (20 - 5 * e.actions.length) 0
        ++ leBytes 2 e.fired ++ leBytes 2 e.missed
    (∀ e, c.entryAt i = some e → (e.owner = p ∨ s.holder = some p) →
      exec (.entryQuery ⟨p, lags⟩ tag [natByte i.val, (c.slots.get i).tag]) s =
          .next
            (answeredState s p lags tag 0x34 2 .ok (record e))
        ∧ (e.actions.length ≤ 4 → (record e).length = 52))
    ∧ (c.pass = none →
      exec (.nextQuery ⟨p, lags⟩ tag []) s =
        .next
          (answeredState s p lags tag 0x35 0 .ok
            (leBytes 6 s.timebase.now
              ++ [(if c.dueList = [] then 1 else 0 : Byte)]
              ++ leBytes 6 (match c.dueList with | j :: _ => c.dueAt j | [] => 0)
              ++ [number 0 .scheduled, number 0 .waiting, number 0 .held, number 1 .scheduled,
                  number 1 .waiting, number 1 .held, number 2 .scheduled, number 2 .waiting,
                  number 2 .held, natByte (c.quota.get 0), natByte (c.usage.get 0),
                  natByte (c.quota.get 1), natByte (c.usage.get 1), natByte (c.quota.get 2),
                  natByte (c.usage.get 2),
                  natByte ((indices 64).countP fun j => (c.entryAt j).isNone)])))
    ∧ (c.pass = none →
      exec (.entryList ⟨p, lags⟩ tag [natByte i.val]) s =
        .next
          (answeredState s p lags tag 0x36 1 .ok
            ([natByte (min 16 mine.length),
              (if mine.length ≤ 16 then 64
                else natByte (match mine[15]? with | some j => j.val + 1 | none => 64)),
              natByte (c.usage.get p)]
              ++ (mine.take 16).flatMap fun j => [natByte j.val, (c.slots.get j).tag])))

/-- SET_QUOTA from the holder sets one port's quota, in a pass too, unless it lies below that port's
usage (R47). The record of status bytes is the model's (log 13). -/
def Obligations.SetQuotaSetsOneQuota : Prop :=
  ∀ (p q : Port) (lags : List Nat) (tag : Byte) (n : Nat) (s : State),
    Ready s p → Admitted s p .setQuota → n ≤ 64 →
    (s.schedule.usage.get q ≤ n →
      exec (.setQuota ⟨p, lags⟩ tag [natByte q.val, natByte n]) s =
        .next
          { s.frameEnds p with
            schedule := { s.schedule with quota := s.schedule.quota.set q n }
            ports :=
              answeredPorts s p lags tag 0x37 2 .ok
                [natByte (s.schedule.quota.get q), natByte (s.schedule.usage.get q)] })
    ∧ (n < s.schedule.usage.get q →
      exec (.setQuota ⟨p, lags⟩ tag [natByte q.val, natByte n]) s =
        .next (answeredState s p lags tag 0x37 2 .quotaBelowUse []))

/-- PURGE_PORT from the holder frees every entry of the named port and no other, and tells that port of
each in ascending slot order unless it asked for the purge itself (R48). The record of status bytes is
the model's (log 13). -/
def Obligations.PurgePortFreesThePort : Prop :=
  ∀ (p q : Port) (lags : List Nat) (tag : Byte) (s : State),
    Ready s p → Admitted s p .purgePort → s.schedule.pass = none →
    let purged (i : SlotIx) : Bool := (s.schedule.entryAt i).map Entry.owner == some q
    ∃ t, exec (.purgePort ⟨p, lags⟩ tag [natByte q.val]) s = .next t
      ∧ t = { s.frameEnds p with
              schedule := t.schedule
              lines := t.lines
              notices := t.notices
              ports :=
                answeredPorts s p lags tag 0x38 1 .ok [natByte ((indices 64).countP purged)] }
      ∧ (∀ i : SlotIx,
          t.schedule.slots.get i =
            if purged i then { tag := (s.schedule.slots.get i).tag + 1, entry := none }
            else s.schedule.slots.get i)
      ∧ t.schedule =
          { s.schedule with
            slots := t.schedule.slots
            usage := t.schedule.usage
            dueList := s.schedule.dueList.filter fun i => !purged i
            waiting := s.schedule.waiting.map fun w => w.filter fun i => !purged i
            sweep := s.schedule.sweep.map fun m => m.filter fun i => !purged i }
      ∧ (∀ l : LineIx,
          t.lines.get l =
              { s.lines.get l with
                refs := (t.lines.get l).refs, exclHolder := (t.lines.get l).exclHolder })
      ∧ Uncounted s t
      ∧ (EntriesWf s → ∀ l : LineIx,
          (t.lines.get l).refs.get q = 0 ∧ (t.lines.get l).exclHolder ≠ some q)
      ∧ Told s t fun r =>
          if r = q ∧ q ≠ p then
            (indices 64).filterMap fun i =>
              match s.schedule.entryAt i with
              | none => none
              | some e =>
                if e.owner = q ∧ e.orphaned = false ∧ e.cancelPending = false then
                  some (.entryCancelled (s.schedule.handleAt i) e.label .purged)
                else none
          else []

/-- An EXPIRY that finds no head to take closes the sweep and changes nothing else (R51; log 8). The
expiry that an open sweep takes (R53, R55 to R61): with L = Now - due and k the whole part of L /
period, a one-shot entry, an entry whose repeats run out within k + 1 and an entry whose next due would
pass 2^48-1 are freed; every other is placed again at due + (k + 1) x period (R196), having fired once
and missed k. The entry is a member no more; right after the expiry (log 8) the sweep stays open while the
new head is a member and due, and closes otherwise (R51). The record of status bytes is the model's
(log 13). -/
def Obligations.ExpiryEndsOrRepeatsTheEntry : Prop :=
  ∀ (i : SlotIx) (rest members : List SlotIx) (e : Entry) (d : Nat) (s : State),
    s.inFullReset = false →
    ((s.schedule.pass ≠ none ∨ s.schedule.sweep = none ∨ s.schedule.dueList = []
        ∨ (∃ j ∈ s.schedule.dueList.head?,
            s.timebase.now < s.schedule.dueAt j ∨ ∀ m ∈ s.schedule.sweep, j ∉ m)) →
      exec .expiry s = .next { s.noted with schedule := { s.schedule with sweep := none } })
    ∧ (s.schedule.pass = none → s.schedule.dueList = i :: rest →
      s.schedule.sweep = some members → i ∈ members → s.schedule.entryAt i = some e →
      e.due = some d → d ≤ s.timebase.now → ListsWf s → e.lines.Nodup →
      let k := (s.timebase.now - d) / e.period
      let next := d + (k + 1) * e.period
      let ends : Prop :=
        e.period = 0 ∨ (e.repeatsLeft ≠ 0 ∧ e.repeatsLeft ≤ k + 1) ∨ maxNow < next
      let upTo (j : SlotIx) : Bool := decide (s.schedule.dueAt j ≤ next)
      ∃ t, exec .expiry s = .next t
        ∧ t = { s.noted with schedule := t.schedule, lines := t.lines, notices := t.notices }
        ∧ t.schedule.sweep =
            (match t.schedule.dueList with
              | j :: _ =>
                if j ∈ members.filter (· ≠ i) ∧ t.schedule.dueAt j ≤ s.timebase.now then
                  some (members.filter (· ≠ i))
                else none
              | [] => none)
        ∧ (ends →
            t.schedule =
              { s.schedule with
                slots :=
                  s.schedule.slots.set i { tag := (s.schedule.slots.get i).tag + 1, entry := none }
                dueList := rest
                usage := s.schedule.usage.set e.owner (s.schedule.usage.get e.owner - 1)
                sweep := t.schedule.sweep })
        ∧ (¬ ends →
            t.schedule =
              { s.schedule with
                slots :=
                  s.schedule.slots.set i
                    { tag := (s.schedule.slots.get i).tag
                      entry :=
                        some
                          { e with
                            due := some next
                            repeatsLeft :=
                              if e.repeatsLeft = 0 then 0 else e.repeatsLeft - 1 - k
                            fired := min (e.fired + 1) 65535
                            missed := min (e.missed + k) 65535 } }
                dueList := rest.takeWhile upTo ++ i :: rest.dropWhile upTo
                sweep := t.schedule.sweep }))

/-- What an expiry sends to the lines and tells its owner (R54, R60, R61, R79 to R82): each action is applied
to its line where the writer mask holds the owner, or refused with ACTION_DENIED; then FIRED, or for an
entry without notify that ends for TIME_RANGE, ENTRY_CANCELLED. Nobody else is told, and an orphaned
entry tells nobody. What a PULSE does to the source at an equal end at Now = 2^48-1 is log 19. -/
def Obligations.ExpiryActsAndTells : Prop :=
  ∀ (i : SlotIx) (rest members : List SlotIx) (e : Entry) (d : Nat) (s : State),
    s.inFullReset = false → s.schedule.pass = none → s.schedule.dueList = i :: rest →
    s.schedule.sweep = some members → i ∈ members → s.schedule.entryAt i = some e →
    e.due = some d → d ≤ s.timebase.now → e.lines.Nodup → e.cancelPending = false →
    let h := s.schedule.handleAt i
    let now := s.timebase.now
    let k := (now - d) / e.period
    let spent : Prop := e.period = 0 ∨ (e.repeatsLeft ≠ 0 ∧ e.repeatsLeft ≤ k + 1)
    let beyond : Prop := ¬ spent ∧ maxNow < d + (k + 1) * e.period
    let skipped :=
      if e.period = 0 then 0
      else if e.repeatsLeft ≠ 0 ∧ e.repeatsLeft ≤ k + 1 then e.repeatsLeft - 1 else k
    let admits (a : LineAction) : Bool := (s.lines.get a.line).writerMask.getLsbD e.owner
    ∃ t, exec .expiry s = .next t
      ∧ (∀ a ∈ e.actions,
          let l := s.lines.get a.line
          t.lines.get a.line =
            { (if admits a then l.apply now h a else l) with
              refs := (t.lines.get a.line).refs, exclHolder := (t.lines.get a.line).exclHolder })
      ∧ (∀ l : LineIx,
          (l ∉ e.lines → t.lines.get l = s.lines.get l)
          ∧ (l ∈ e.lines →
              (t.lines.get l).refs =
                if spent ∨ beyond then ((s.lines.get l).unreferenced e.owner).refs
                else (s.lines.get l).refs))
      ∧ Told s t fun q =>
          if q = e.owner ∧ e.orphaned = false then
            (e.actions.filter fun a => !admits a).map
                (fun a => .actionDenied h e.label a.line a.kind)
              ++ (if e.notify then
                    [.fired h e.label d now (now - d) (decide (1 < now - d)) (min skipped 65535)
                      (decide (spent ∨ beyond)) (decide beyond)]
                  else if beyond then [.entryCancelled h e.label .timeRange] else [])
          else []

/-- The completion of a pass (R74): the STEP is answered to the request that bears its ticket, the
cancel_pending entries are freed with no notice and counted no longer (R28), the due list stands in
order of due, stable (R69), the pass is absent, and a sweep opens when Now moved or the timebase is not
STOPPED. With no pass in flight there is no completion, and nothing changes (log 14). The record of
status bytes is the model's (log 13). -/
def Obligations.PassCompletes : Prop :=
  (∀ s : State, s.inFullReset = false → s.schedule.pass = none →
    exec .passComplete s = .next s.noted)
  ∧ ∀ (s : State) (a : Pass),
    s.inFullReset = false → s.schedule.pass = some a → s.schedule.sweep = none →
    let gone (i : SlotIx) : Bool := ((s.schedule.entryAt i).map Entry.cancelPending).getD false
    ∃ t, exec .passComplete s = .next t
      ∧ t = { s.noted with schedule := t.schedule, lines := t.lines, ports := t.ports }
      ∧ t.schedule.pass = none ∧ t.schedule.quota = s.schedule.quota
      ∧ t.schedule.waiting = s.schedule.waiting.map (fun w => w.filter fun i => !gone i)
      ∧ Uncounted s t
      ∧ (∀ i : SlotIx,
          t.schedule.slots.get i =
            if gone i then { tag := (s.schedule.slots.get i).tag + 1, entry := none }
            else s.schedule.slots.get i)
      ∧ t.schedule.dueList.Perm (s.schedule.dueList.filter fun i => !gone i)
      ∧ (t.schedule.dueList.Pairwise fun i j => t.schedule.dueAt i ≤ t.schedule.dueAt j)
      ∧ (∀ j : SlotIx,
          (t.schedule.dueList.filter fun i => t.schedule.dueAt i = t.schedule.dueAt j) =
            s.schedule.dueList.filter fun i =>
              !gone i && decide (t.schedule.dueAt i = t.schedule.dueAt j))
      ∧ t.schedule.sweep =
          (if (a.advanced = true ∨ s.timebase.state ≠ .stopped)
              ∧ (match t.schedule.dueList with
                  | i :: _ => decide (t.schedule.dueAt i ≤ s.timebase.now)
                  | [] => false) = true then
            some t.schedule.dueList
          else none)
      ∧ (∀ q : Port,
          t.ports.get q =
            match (s.ports.get q).slot with
            | .working h =>
              if a.stepper = { port := q, ticket := h.ticket } then
                { s.ports.get q with
                  slot :=
                    .answered h
                      { tag := h.tag, kind := h.kind, status := .ok
                        payload :=
                          leBytes 6 a.oldNow ++ leBytes 6 a.newNow
                            ++ leBytes 2 s.timebase.epoch.toNat ++ [natByte a.cancelled] } }
              else s.ports.get q
            | .empty | .answered _ _ => s.ports.get q)
      ∧ ∀ l : LineIx,
          t.lines.get l =
            { s.lines.get l with
              refs := (t.lines.get l).refs, exclHolder := (t.lines.get l).exclHolder }

/-! ### Trigger lines (04) -/

/-- The output of a line (R77): the level of the force where there is one, and otherwise asserted exactly
while the base is or a pulse is present. It changes only with force, base or the presence of a pulse; the
end of a pulse leaves it under an asserted base, and a RELEASE leaves it during a pulse; a force hides
actions and pulse ends and does not stop them. -/
def Obligations.OutputsAreComposed : Prop :=
  ∀ (now : Nat) (h : Handle) (a : LineAction) (l m : Line),
    (∀ f, l.force = some f → l.output = f.level)
    ∧ (l.force = none → l.base = .asserted ∨ l.pulse ≠ none → l.output = .asserted)
    ∧ (l.force = none → l.base = .deasserted → l.pulse = none → l.output = .deasserted)
    ∧ (l.force = m.force → l.base = m.base → (l.pulse = none ↔ m.pulse = none) →
      l.output = m.output)
    ∧ (l.force = none → l.base = .asserted →
      ({ l with pulse := none } : Line).output = .asserted)
    ∧ (l.force = none → l.pulse ≠ none → a.kind = .release →
      (l.apply now h a).output = .asserted)
    ∧ (l.force ≠ none →
      (l.apply now h a).output = l.output
      ∧ ({ l with pulse := none } : Line).output = l.output
      ∧ { l.apply now h a with force := none } = Line.apply now h a { l with force := none })

/-- What an applied action does to its line (R80, R81, R82): ASSERT, RELEASE and INVERT set the base; PULSE
begins a pulse of its width from Now, clamped, or on a pulse present is a retrigger, which takes the
later end with its source and counts. A retrigger whose new end equals the present end leaves the source
(R82); at Now = 2^48-1, where R84 names the sending entry, that is the model's choice (log 19). PULSE_END
ends the pulse of a line whose end Now has reached and changes nothing else (R83); before that there is
no such event (log 14). The pin is the output through the polarity (R78). The record of status bytes is
the model's (log 13). -/
def Obligations.ActionsPulseEndsAndPins : Prop :=
  (∀ (now w : Nat) (h : Handle) (a : LineAction) (l : Line),
    let newEnd := if now + w ≤ 281474976710655 then now + w else 281474976710655
    (a.kind = .assert → l.apply now h a = { l with base := .asserted })
    ∧ (a.kind = .release → l.apply now h a = { l with base := .deasserted })
    ∧ (a.kind = .invert →
      l.apply now h a =
        { l with base := match l.base with | .asserted => .deasserted | .deasserted => .asserted })
    ∧ (a.kind = .pulse → a.width = some w → l.pulse = none →
      l.apply now h a = { l with pulse := some { endTime := newEnd, source := h } })
    ∧ (a.kind = .pulse → a.width = some w → ∀ u, l.pulse = some u →
      l.apply now h a =
        { l with
          pulse :=
            some
              { endTime := max u.endTime newEnd
                source := if u.endTime < newEnd then h else u.source }
          retriggers := if l.retriggers < 65535 then l.retriggers + 1 else 65535 })
    ∧ (l.pin = .high ↔ (l.output = .asserted ↔ l.polarity = .activeHigh)))
  ∧ ∀ (l : LineIx) (s : State), s.inFullReset = false →
      let x := s.lines.get l
      (∀ u, x.pulse = some u → u.endTime ≤ s.timebase.now →
        exec (.pulseEnd l) s = .next { s.noted with lines := s.lines.set l { x with pulse := none } })
      ∧ ((∀ u, x.pulse = some u → s.timebase.now < u.endTime) →
        exec (.pulseEnd l) s = .next s.noted)

/-- LINE_QUERY reports the record, the 29 bytes of R194, and changes nothing but the answer (R97);
SET_LINE_POLICY from the holder sets the policy of one line, with the exclusive holder of R92, unless it
would make EXCLUSIVE a line that two ports reference (R90); FORCE_LINE from the holder sets or removes
the force of one line (R94). The record of status bytes is the model's (log 13). -/
def Obligations.LineRequestsTaken : Prop :=
  ∀ (p : Port) (lags : List Nat) (tag : Byte) (l : LineIx) (mask : PortSet) (mode : LineMode)
    (polarity : Polarity) (value : Option Level) (s : State), Ready s p → s.attached p = true →
    let x := s.lines.get l
    let referenced (q : Port) : Bool := decide (0 < x.refs.get q)
    let holderAfter : Option Port :=
      match x.mode, mode with
      | .shared, .exclusive => allPorts.find? referenced
      | .exclusive, .exclusive => x.exclHolder
      | .shared, .shared | .exclusive, .shared => none
    let forced : Line := { x with force := value.map fun v => { level := v, port := p } }
    let one (n : Nat) : Byte := BitVec.ofNat 8 n
    let port (q : Option Port) : Byte := match q with | some y => one y.val | none => 0xFF
    let record : List Byte :=
      leBytes 6 s.timebase.now
        ++ (match x.pulse with
            | some u => leBytes 6 u.endTime ++ [one u.source.slot.val, u.source.tag]
            | none => [0, 0, 0, 0, 0, 0, 0xFF, 0xFF])
        ++ [(match x.base with | .deasserted => (0 : Byte) | .asserted => 1),
            (if x.pulse = none then 0 else 1),
            (match x.force.map Force.level with
              | none => 0 | some .asserted => 1 | some .deasserted => 2),
            port (x.force.map Force.port),
            (match x.polarity with | .activeHigh => 0 | .activeLow => 1),
            (match x.mode with | .shared => 0 | .exclusive => 1), one x.writerMask.toNat,
            one (x.refs.get 0), one (x.refs.get 1), one (x.refs.get 2), port x.exclHolder]
        ++ leBytes 2 x.retriggers
        ++ [(match x.output with | .deasserted => (0 : Byte) | .asserted => 1),
            (match x.pin with | .low => 0 | .high => 1)]
    (exec (.lineQuery ⟨p, lags⟩ tag [natByte l.val]) s =
        .next (answeredState s p lags tag 0x40 1 .ok record)
      ∧ record.length = 29)
    ∧ (s.holder = some p →
        (x.mode = .shared ∧ mode = .exclusive ∧ 2 ≤ allPorts.countP referenced) →
      exec
          (.setLinePolicy ⟨p, lags⟩ tag
            [natByte l.val, setByte mask, mode.code, polarity.code]) s =
        .next (answeredState s p lags tag 0x41 4 .lineInUse []))
    ∧ (s.holder = some p →
        ¬ (x.mode = .shared ∧ mode = .exclusive ∧ 2 ≤ allPorts.countP referenced) →
      exec
          (.setLinePolicy ⟨p, lags⟩ tag
            [natByte l.val, setByte mask, mode.code, polarity.code]) s =
        .next
          { s.frameEnds p with
            lines :=
              s.lines.set l
                { x with
                  writerMask := mask, mode := mode, polarity := polarity
                  exclHolder := holderAfter }
            ports :=
              answeredPorts s p lags tag 0x41 4 .ok
                [setByte x.writerMask, x.mode.code, x.polarity.code, portByte holderAfter] })
    ∧ (s.holder = some p →
      exec (.forceLine ⟨p, lags⟩ tag [natByte l.val, forceCode value]) s =
        .next
          { s.frameEnds p with
            lines := s.lines.set l forced
            ports :=
              answeredPorts s p lags tag 0x42 2 .ok
                [forceCode (x.force.map Force.level), forced.output.code, forced.pin.code] })

/-! ### Authority (05) -/

/-- CLAIM (R106 to R108): granted at once in VACANT, with AUTHORITY_CHANGED to the other attached ports;
otherwise queued in the place R103 gives, with YIELD_DEMANDED to the holder where the state is HELD and
the claimant is urgent and outranks it, and AUTHORITY_WANTED otherwise; refused from the holder and from
a waiter. A port outranks another exactly when it stands before it in the rank order of the straps (R100,
R101). The record of status bytes is the model's (log 13). -/
def Obligations.ClaimTaken : Prop :=
  (∀ (r : Rank) (x y : Port), r.outranks x y = true ↔ List.Sublist [x, y] r.order)
  ∧ ∀ (p : Port) (lags : List Nat) (tag : Byte) (lease : Nat) (urgent : Bool) (s : State),
    Ready s p → s.attached p = true → 1 ≤ lease → lease ≤ 65535 →
    let a := s.authority
    let c := Instr.claim ⟨p, lags⟩ tag (leBytes 2 lease ++ [boolByte urgent])
    let waits : Prop := ∃ w ∈ a.waiters, w.port = p
    let queue : List WaiterRec :=
      if urgent then
        a.waiters.takeWhile WaiterRec.urgent
          ++ { port := p, lease := lease, urgent := true }
            :: a.waiters.dropWhile WaiterRec.urgent
      else a.waiters ++ [{ port := p, lease := lease, urgent := false }]
    let place :=
      if urgent then (a.waiters.takeWhile WaiterRec.urgent).length + 1 else a.waiters.length + 1
    (s.holder = none → ¬ waits →
      ∃ t, exec c s = .next t
        ∧ t = { s.frameEnds p with
                authority := { a with tenure := some { port := p, leaseRemaining := lease } }
                lines := t.lines
                notices := t.notices
                ports :=
                  answeredPorts s p lags tag 0x50 3 .granted (leBytes 2 lease ++ [a.rank.code]) }
        ∧ Unforced s t
        ∧ Told s t fun q => if q = p then [] else [.authorityChanged (some p) .claim])
    ∧ (s.holder = some p →
      exec c s = .next (answeredState s p lags tag 0x50 3 .alreadyHolder []))
    ∧ (s.holder ≠ some p → waits →
      exec c s = .next (answeredState s p lags tag 0x50 3 .alreadyWaiting []))
    ∧ (∀ h, s.holder = some h → h ≠ p → ¬ waits →
      let demands : Bool := a.demand.isNone && urgent && a.rank.outranks p h
      ∃ t, exec c s = .next t
        ∧ t = { s.frameEnds p with
                authority :=
                  { a with
                    waiters := queue
                    demand :=
                      if demands then some { port := p, graceRemaining := a.graceSetting }
                      else a.demand }
                notices := t.notices
                ports :=
                  answeredPorts s p lags tag 0x50 3 .queued
                    [natByte place, boolByte demands, natByte h.val, a.rank.code] }
        ∧ Told s t fun q =>
            if q ≠ h then []
            else if demands then [.yieldDemanded p a.graceSetting]
            else [.authorityWanted p urgent (a.waiters.length + 1)])

/-- RELEASE (R109, R110): from the holder it fills the vacancy with the reason RELEASED, from the demanding
port or else the head of the queue (R116), and clears the forces; from a waiter it withdraws; otherwise it is refused with NOT_HOLDER. The record of status bytes
is the model's (log 13). -/
def Obligations.ReleaseTaken : Prop :=
  ∀ (p : Port) (lags : List Nat) (tag : Byte) (s : State), Ready s p → s.attached p = true →
    (s.holder = some p →
      ∃ t, exec (.release ⟨p, lags⟩ tag []) s = .next t
        ∧ t = { s.frameEnds p with
                authority := s.authority.filled
                lines := t.lines
                notices := t.notices
                ports := answeredPorts s p lags tag 0x51 0 .ok [portByte s.authority.filled.holder] }
        ∧ Unforced s t
        ∧ Told s t (fillNews s p .released))
    ∧ (s.holder ≠ some p → (∃ w ∈ s.authority.waiters, w.port = p) →
      ∃ t, exec (.release ⟨p, lags⟩ tag []) s = .next t
        ∧ t = { s.frameEnds p with
                authority := s.authority.withdrawn p
                notices := t.notices
                ports := answeredPorts s p lags tag 0x51 0 .withdrawn [] }
        ∧ Told s t (withdrawNews s p))
    ∧ (s.holder ≠ some p → (∀ w ∈ s.authority.waiters, w.port ≠ p) →
      exec (.release ⟨p, lags⟩ tag []) s =
        .next (answeredState s p lags tag 0x51 0 .notHolder []))

/-- RENEW from the holder in HELD sets the lease; otherwise it is refused with NOT_HOLDER or
YIELD_PENDING (R111). SET_GRACE from the holder sets the grace given at the next demand and answers the
old value (R122). The record of status bytes is the model's (log 13). -/
def Obligations.RenewAndSetGrace : Prop :=
  ∀ (p : Port) (lags : List Nat) (tag : Byte) (lease grace : Nat) (s : State),
    Ready s p → s.attached p = true → 1 ≤ lease → lease ≤ 65535 → 1 ≤ grace → grace ≤ 255 →
    let renew := Instr.renew ⟨p, lags⟩ tag (leBytes 2 lease)
    (s.holder ≠ some p → exec renew s = .next (answeredState s p lags tag 0x52 2 .notHolder []))
    ∧ (s.holder = some p → s.authority.demand ≠ none →
      exec renew s = .next (answeredState s p lags tag 0x52 2 .yieldPending []))
    ∧ (s.holder = some p → s.authority.demand = none →
      exec renew s =
        .next
          { s.frameEnds p with
            authority :=
              { s.authority with tenure := some { port := p, leaseRemaining := lease } }
            ports := answeredPorts s p lags tag 0x52 2 .ok (leBytes 2 lease) })
    ∧ (s.holder = some p →
      exec (.setGrace ⟨p, lags⟩ tag [natByte grace]) s =
        .next
          { s.frameEnds p with
            authority := { s.authority with graceSetting := grace }
            ports := answeredPorts s p lags tag 0x54 1 .ok [natByte s.authority.graceSetting] })

/-- A reference millisecond at which neither count reaches 0 (R112): nothing is counted in VACANT, the
lease in HELD, lease and grace in YIELDING. A LEASE_EXPIRY or GRACE_EXPIRY that is not the due
millisecond at which its count reaches 0 is no event (log 14, log 15). The record of status bytes is the
model's (log 13). -/
def Obligations.MillisecondCounts : Prop :=
  ∀ (s : State), s.inFullReset = false →
    let timebase := { s.timebase with msDue := false }
    (s.authority.tenure = none →
      exec .referenceMillisecond s = .next { s.noted with timebase := timebase })
    ∧ (∀ x, s.authority.tenure = some x → s.authority.demand = none → 1 < x.leaseRemaining →
      exec .referenceMillisecond s =
        .next
          { s.noted with
            timebase := timebase
            authority :=
              { s.authority with
                tenure := some { x with leaseRemaining := x.leaseRemaining - 1 } } })
    ∧ (∀ x, s.authority.tenure = some x → ∀ d, s.authority.demand = some d →
        1 < x.leaseRemaining → 1 < d.graceRemaining →
      exec .referenceMillisecond s =
        .next
          { s.noted with
            timebase := timebase
            authority :=
              { s.authority with
                tenure := some { x with leaseRemaining := x.leaseRemaining - 1 }
                demand := some { d with graceRemaining := d.graceRemaining - 1 } } })
    ∧ ((s.timebase.msDue = false ∨ ∀ x, s.authority.tenure = some x → 1 < x.leaseRemaining) →
      exec .leaseExpiry s = .next s.noted)
    ∧ ((s.timebase.msDue = false
          ∨ ∀ d, s.authority.demand = some d → 1 < d.graceRemaining) →
      exec .graceExpiry s = .next s.noted)

/-- When the lease or the grace reaches 0 at a reference millisecond, the holder is revoked once, with
the reason PREEMPTED where the grace does and LEASE_EXPIRED otherwise, and the vacancy is filled (R113
to R116). LEASE_EXPIRY and GRACE_EXPIRY are that millisecond when it is due (log 15). The record of
status bytes is the model's (log 13). -/
def Obligations.HolderIsRevoked : Prop :=
  ∀ (x : Tenure) (s : State), s.inFullReset = false → s.authority.tenure = some x →
    let leaseEnds := x.leaseRemaining ≤ 1
    let graceEnds := ∃ d, s.authority.demand = some d ∧ d.graceRemaining ≤ 1
    leaseEnds ∨ graceEnds →
      ∃ t, exec .referenceMillisecond s = .next t
        ∧ (s.timebase.msDue = true → leaseEnds → exec .leaseExpiry s = .next t)
        ∧ (s.timebase.msDue = true → graceEnds → exec .graceExpiry s = .next t)
        ∧ (graceEnds → Revoked s t x.port .preempted)
        ∧ (¬ graceEnds → Revoked s t x.port .leaseExpired)

/-! ### Capture (06) -/

/-- An edge (R126, R129): from the wrong level it is no edge (log 14); one that is not accepted sets the
level alone; an accepted edge is numbered and stamped (R130, R131), hands the waiting list over (R32,
R132), stores or drops its record (R133, R134), and tells the owners and the readers in this order. Of
usage and lines only what the entries freed for TIME_RANGE counted changes (R28). The record of status
bytes is the model's (log 13). -/
def Obligations.CaptureEdgeTaken : Prop :=
  ∀ (n : InputIx) (edge : Edge) (s : State), s.inFullReset = false →
    let x := s.capture.inputs.get n
    let level : PinLevel := match edge with | .rising => .high | .falling => .low
    let matched : Prop :=
      x.edge = .both ∨ (x.edge = .rising ∧ edge = .rising)
        ∨ (x.edge = .falling ∧ edge = .falling)
    let elapsed : Prop := ∀ k ∈ x.sinceLast, x.holdoff ≤ k
    let r : CaptureRecord :=
      { seq := s.capture.sequence + 1, input := n, edge := edge, stamp := s.timebase.now
        stopped := decide (s.timebase.state = .stopped), epoch := s.timebase.epoch
        readers := portsWhere fun p => s.attached p && (s.capture.subscriptions.get p).getLsbD n }
    let full : Prop := 32 ≤ s.capture.log.length
    let inUse : Prop := ∃ y ∈ s.capture.log, y.seq = r.seq
    let waiting := s.schedule.waiting.get n
    let due (e : Entry) : Nat := r.stamp + e.captureOffset.getD 0
    let taken (test : Entry → Bool) : List SlotIx :=
      waiting.filter fun j => ((s.schedule.entryAt j).map test).getD false
    let scheduled := taken fun e => decide (due e ≤ maxNow)
    let told (q : Port) (test : Entry → Bool) (body : SlotIx → Entry → NoticeBody) :
        List NoticeBody :=
      waiting.filterMap fun j =>
        match s.schedule.entryAt j with
        | none => none
        | some e =>
          if e.owner = q ∧ e.orphaned = false ∧ e.cancelPending = false ∧ test e = true then
            some (body j e)
          else none
    (x.level = level → exec (.captureEdge n edge) s = .next s.noted)
    ∧ (x.level ≠ level → ¬ (matched ∧ elapsed) →
      exec (.captureEdge n edge) s =
        .next
          { s.noted with
            capture :=
              { s.capture with inputs := s.capture.inputs.set n { x with level := level } } })
    ∧ (x.level ≠ level → matched → elapsed → ListsWf s →
      ∃ t, exec (.captureEdge n edge) s = .next t
        ∧ t = { s.noted with
                schedule := t.schedule
                lines := t.lines
                capture :=
                  { s.capture with
                    sequence := r.seq
                    inputs :=
                      s.capture.inputs.set n { x with level := level, sinceLast := some 0 }
                    log :=
                      if r.readers = 0 ∨ full ∨ inUse then s.capture.log
                      else s.capture.log ++ [r] }
                notices := t.notices }
        ∧ (∀ j : SlotIx,
            t.schedule.slots.get j =
              match s.schedule.entryAt j with
              | none => s.schedule.slots.get j
              | some e =>
                if j ∉ waiting then s.schedule.slots.get j
                else if due e ≤ maxNow then
                  { tag := (s.schedule.slots.get j).tag
                    entry := some { e with due := some (due e), state := .scheduled } }
                else { tag := (s.schedule.slots.get j).tag + 1, entry := none })
        ∧ t.schedule =
            { s.schedule with
              slots := t.schedule.slots
              waiting := s.schedule.waiting.set n []
              dueList := t.schedule.dueList
              usage := t.schedule.usage }
        ∧ Uncounted s t
        ∧ (∀ l : LineIx,
            t.lines.get l =
              { s.lines.get l with
                refs := (t.lines.get l).refs, exclHolder := (t.lines.get l).exclHolder })
        ∧ (s.schedule.pass ≠ none → t.schedule.dueList = s.schedule.dueList ++ scheduled)
        ∧ (s.schedule.pass = none →
            (t.schedule.dueList.Pairwise fun i j => t.schedule.dueAt i ≤ t.schedule.dueAt j)
            ∧ ∀ j : SlotIx,
                (t.schedule.dueList.filter fun i =>
                    t.schedule.dueAt i = t.schedule.dueAt j) =
                  (s.schedule.dueList ++ scheduled).filter fun i =>
                    t.schedule.dueAt i = t.schedule.dueAt j)
        ∧ Told s t fun q =>
            told q (fun e => decide (maxNow < due e))
                (fun j e => .entryCancelled (s.schedule.handleAt j) e.label .timeRange)
              ++ told q (fun e => e.notify && decide (due e ≤ maxNow))
                (fun j e =>
                  .captureTriggered (s.schedule.handleAt j) e.label n r.seq r.stamp (due e))
              ++ (if r.readers.getLsbD q = false then []
                  else if full then
                    [.captureDropped n edge r.seq r.stamp r.stopped r.epoch .logFull]
                  else if inUse then
                    [.captureDropped n edge r.seq r.stamp r.stopped r.epoch .sequenceInUse]
                  else if (s.capture.log.all fun x => !x.readers.getLsbD q) = true then [.captureAvailable n r.seq 1]
                  else []))

/-- SET_CAPTURE from the holder sets the edge and the holdoff of one input and touches nothing else
(R127). SUBSCRIBE replaces the port's subscription and takes the port out of the records of the inputs
it drops; records that no port is left to read leave the log (R136). The record of status bytes is the
model's (log 13). -/
def Obligations.SetCaptureAndSubscribe : Prop :=
  ∀ (p : Port) (lags : List Nat) (tag : Byte) (n : InputIx) (edge : EdgeSetting) (holdoff : Nat)
    (set : InputSet) (s : State), Ready s p → s.attached p = true → holdoff ≤ 65535 →
    let x := s.capture.inputs.get n
    let old := s.capture.subscriptions.get p
    let log : List CaptureRecord :=
      s.capture.log.filterMap fun r =>
        if r.readers.getLsbD p && old.getLsbD r.input && !set.getLsbD r.input then unread p r
        else some r
    (s.holder = some p →
      exec (.setCapture ⟨p, lags⟩ tag ([natByte n.val, edge.code] ++ leBytes 2 holdoff)) s =
        .next
          { s.frameEnds p with
            capture :=
              { s.capture with
                inputs := s.capture.inputs.set n { x with edge := edge, holdoff := holdoff } }
            ports :=
              answeredPorts s p lags tag 0x60 4 .ok (x.edge.code :: leBytes 2 x.holdoff) })
    ∧ exec (.subscribe ⟨p, lags⟩ tag [setByte set]) s =
        .next
          { s.frameEnds p with
            capture :=
              { s.capture with
                subscriptions := s.capture.subscriptions.set p set
                log := log }
            ports :=
              answeredPorts s p lags tag 0x61 1 .ok
                [setByte old, setByte set, natByte (log.countP fun r => r.readers.getLsbD p)] }

/-- READ_CAPTURES returns the oldest records owed to the port, up to max of them, with the count that
remains; the port leaves their reader sets, and a record left with no reader leaves the log (R139). Each
record is the 13 bytes of R194. The record of status bytes is the model's (log 13). -/
def Obligations.ReadCapturesConsumes : Prop :=
  ∀ (p : Port) (lags : List Nat) (tag : Byte) (max : Nat) (s : State),
    Ready s p → s.attached p = true → 1 ≤ max → max ≤ 4 → CaptureWf s →
    let owed := s.capture.log.filter fun r => r.readers.getLsbD p
    let taken := owed.take max
    let record (r : CaptureRecord) : List Byte :=
      leBytes 2 r.seq.toNat
        ++ [BitVec.ofNat 8 r.input.val, (match r.edge with | .rising => 0 | .falling => 1)]
        ++ leBytes 6 r.stamp ++ [if r.stopped then 1 else 0] ++ leBytes 2 r.epoch.toNat
    exec (.readCaptures ⟨p, lags⟩ tag [natByte max]) s =
      .next
        { s.frameEnds p with
          capture :=
            { s.capture with
              log :=
                s.capture.log.filterMap fun r =>
                  if r ∈ taken then unread p r else some r }
          ports :=
            answeredPorts s p lags tag 0x62 1 .ok
              ([natByte taken.length, natByte (owed.length - taken.length)]
                ++ taken.flatMap record) }

/-! ### Invariants -/

/-- The part right after reset satisfies every invariant below, with no line forced and every pin low. -/
def Obligations.InvariantsHoldAtReset : Prop :=
  TimebaseWf State.reset ∧ NoticesWf State.reset ∧ AuthorityWf State.reset
    ∧ CaptureWf State.reset ∧ LinesWf State.reset ∧ WorkingWf State.reset
    ∧ EntriesWf State.reset ∧ ListsWf State.reset
    ∧ (∀ l : LineIx, (State.reset.lines.get l).pin = .low)
    ∧ ∀ p : Port, State.reset.statusByte p = 0xA0

/-- Every step keeps Now, the slew and the dividers in their ranges, and STOPs waiting exactly in STOPPING. -/
def Obligations.StepsKeepTheTimebase : Prop :=
  ∀ (s t : State), TimebaseWf s → step s = .next t → TimebaseWf t

/-- Every step keeps the notice queues well formed (R144, R149). -/
def Obligations.StepsKeepTheNoticeQueues : Prop :=
  ∀ (s t : State), NoticesWf s → step s = .next t → NoticesWf t

/-- Every step keeps the authority unit as R102 and R103 say. -/
def Obligations.StepsKeepTheAuthority : Prop :=
  ∀ (s t : State), AuthorityWf s → step s = .next t → AuthorityWf t

/-- Every step keeps the capture log as R135 says. -/
def Obligations.StepsKeepTheCaptureLog : Prop :=
  ∀ (s t : State), CaptureWf s → step s = .next t → CaptureWf t

/-- Every step keeps a force with the holder that set it (R95), and a WORKING slot with the STOP or STEP that
it waits for (R173). -/
def Obligations.StepsKeepForcesAndWorkingSlots : Prop :=
  ∀ (s t : State), step s = .next t →
    (LinesWf s → LinesWf t) ∧ (WorkingWf s → WorkingWf t)

/-- Every step keeps the due list, the waiting lists, the sweep and the pass as R30, R31, R51 and R69 say. -/
def Obligations.StepsKeepTheLists : Prop :=
  ∀ (s t : State), ListsWf s → step s = .next t → ListsWf t

/-- Every step keeps usage, quotas, references and the entries' own fields (R33, R87, R88, R26). -/
def Obligations.StepsKeepTheEntries : Prop :=
  ∀ (s t : State), ListsWf s → EntriesWf s → step s = .next t → EntriesWf t
end

