-- ==== Sys2Proof/Laws/State.lean ====
section
/-! SUPPORT. Reading a place of the state after an update: the tables, and one lemma per field per named update. -/

namespace Sys2Proof

namespace Table

variable {n : Nat} {α β : Type}

theorem get_set (t : Table n α) (i j : Fin n) (x : α) :
    (t.set i x).get j = if i = j then x else t.get j := by
  simp only [Table.get, Table.set, List.getElem_set, Fin.ext_iff]

@[simp] theorem get_set_self (t : Table n α) (i : Fin n) (x : α) : (t.set i x).get i = x := by
  rw [get_set, if_pos rfl]

theorem get_set_ne (t : Table n α) {i j : Fin n} (h : i ≠ j) (x : α) :
    (t.set i x).get j = t.get j := by
  rw [get_set, if_neg h]

theorem get_upd (t : Table n α) (i j : Fin n) (f : α → α) :
    (t.upd i f).get j = if i = j then f (t.get i) else t.get j := get_set t i j _

@[simp] theorem get_upd_self (t : Table n α) (i : Fin n) (f : α → α) :
    (t.upd i f).get i = f (t.get i) := get_set_self t i _

theorem get_upd_ne (t : Table n α) {i j : Fin n} (h : i ≠ j) (f : α → α) :
    (t.upd i f).get j = t.get j := get_set_ne t h _

@[simp] theorem get_map (t : Table n α) (f : α → β) (i : Fin n) :
    (t.map f).get i = f (t.get i) := by
  simp only [Table.get, Table.map, List.getElem_map]

@[simp] theorem get_fill (x : α) (i : Fin n) : (Table.fill n x).get i = x := by
  simp only [Table.get, Table.fill, List.getElem_replicate]

@[simp] theorem get_ofFn (f : Fin n → α) (i : Fin n) : (Table.ofFn n f).get i = f i := by
  simp only [Table.get, Table.ofFn, List.getElem_map, List.getElem_finRange, Fin.cast_mk, Fin.eta]

/-- Tables that agree at every place are equal. -/
theorem ext_get {t u : Table n α} (h : ∀ i, t.get i = u.get i) : t = u := by
  cases t with
  | mk v hv => cases u with
    | mk w hw =>
      congr 1
      exact List.ext_getElem (hv.trans hw.symm) fun k hk _ => h ⟨k, Nat.lt_of_lt_of_eq hk hv⟩

@[simp] theorem set_get_self (t : Table n α) (i : Fin n) : t.set i (t.get i) = t :=
  ext_get fun j => by
    rw [get_set]
    split
    · next h => rw [h]
    · rfl

@[simp] theorem set_set (t : Table n α) (i : Fin n) (x y : α) : (t.set i x).set i y = t.set i y :=
  ext_get fun j => by simp only [get_set]; split <;> rfl

@[simp] theorem upd_id (t : Table n α) (i : Fin n) : (t.upd i fun x => x) = t := set_get_self t i

/-- A change of a place that has just been changed is one change. -/
theorem upd_upd (t : Table n α) (i : Fin n) (f g : α → α) :
    (t.upd i f).upd i g = t.upd i fun x => g (f x) := by
  simp only [Table.upd, get_set_self, set_set]

end Table

namespace Machine

variable (s : State)

/-! ### mapPort -/

@[simp] theorem State.mapPort_timebase (p : Port) (f : PortIf → PortIf) :
    (s.mapPort p f).timebase = s.timebase := rfl

@[simp] theorem State.mapPort_schedule (p : Port) (f : PortIf → PortIf) :
    (s.mapPort p f).schedule = s.schedule := rfl

@[simp] theorem State.mapPort_lines (p : Port) (f : PortIf → PortIf) :
    (s.mapPort p f).lines = s.lines := rfl

@[simp] theorem State.mapPort_authority (p : Port) (f : PortIf → PortIf) :
    (s.mapPort p f).authority = s.authority := rfl

@[simp] theorem State.mapPort_capture (p : Port) (f : PortIf → PortIf) :
    (s.mapPort p f).capture = s.capture := rfl

@[simp] theorem State.mapPort_notices (p : Port) (f : PortIf → PortIf) :
    (s.mapPort p f).notices = s.notices := rfl

@[simp] theorem State.mapPort_ports (p : Port) (f : PortIf → PortIf) :
    (s.mapPort p f).ports = s.ports.upd p f := rfl

@[simp] theorem State.mapPort_trails (p : Port) (f : PortIf → PortIf) :
    (s.mapPort p f).trails = s.trails := rfl

@[simp] theorem State.mapPort_resetCause (p : Port) (f : PortIf → PortIf) :
    (s.mapPort p f).resetCause = s.resetCause := rfl

@[simp] theorem State.mapPort_inFullReset (p : Port) (f : PortIf → PortIf) :
    (s.mapPort p f).inFullReset = s.inFullReset := rfl

@[simp] theorem State.mapPort_pending (p : Port) (f : PortIf → PortIf) :
    (s.mapPort p f).pending = s.pending := rfl

@[simp] theorem State.mapPort_freeCount (p : Port) (f : PortIf → PortIf) :
    (s.mapPort p f).freeCount = s.freeCount := rfl

/-! ### mapQueue -/

@[simp] theorem State.mapQueue_timebase (p : Port) (f : NoticeQueue → NoticeQueue) :
    (s.mapQueue p f).timebase = s.timebase := rfl

@[simp] theorem State.mapQueue_schedule (p : Port) (f : NoticeQueue → NoticeQueue) :
    (s.mapQueue p f).schedule = s.schedule := rfl

@[simp] theorem State.mapQueue_lines (p : Port) (f : NoticeQueue → NoticeQueue) :
    (s.mapQueue p f).lines = s.lines := rfl

@[simp] theorem State.mapQueue_authority (p : Port) (f : NoticeQueue → NoticeQueue) :
    (s.mapQueue p f).authority = s.authority := rfl

@[simp] theorem State.mapQueue_capture (p : Port) (f : NoticeQueue → NoticeQueue) :
    (s.mapQueue p f).capture = s.capture := rfl

@[simp] theorem State.mapQueue_notices (p : Port) (f : NoticeQueue → NoticeQueue) :
    (s.mapQueue p f).notices = s.notices.upd p f := rfl

@[simp] theorem State.mapQueue_ports (p : Port) (f : NoticeQueue → NoticeQueue) :
    (s.mapQueue p f).ports = s.ports := rfl

@[simp] theorem State.mapQueue_trails (p : Port) (f : NoticeQueue → NoticeQueue) :
    (s.mapQueue p f).trails = s.trails := rfl

@[simp] theorem State.mapQueue_resetCause (p : Port) (f : NoticeQueue → NoticeQueue) :
    (s.mapQueue p f).resetCause = s.resetCause := rfl

@[simp] theorem State.mapQueue_inFullReset (p : Port) (f : NoticeQueue → NoticeQueue) :
    (s.mapQueue p f).inFullReset = s.inFullReset := rfl

@[simp] theorem State.mapQueue_pending (p : Port) (f : NoticeQueue → NoticeQueue) :
    (s.mapQueue p f).pending = s.pending := rfl

@[simp] theorem State.mapQueue_freeCount (p : Port) (f : NoticeQueue → NoticeQueue) :
    (s.mapQueue p f).freeCount = s.freeCount := rfl

/-! ### mapLine -/

@[simp] theorem State.mapLine_timebase (l : LineIx) (f : Line → Line) :
    (s.mapLine l f).timebase = s.timebase := rfl

@[simp] theorem State.mapLine_schedule (l : LineIx) (f : Line → Line) :
    (s.mapLine l f).schedule = s.schedule := rfl

@[simp] theorem State.mapLine_lines (l : LineIx) (f : Line → Line) :
    (s.mapLine l f).lines = s.lines.upd l f := rfl

@[simp] theorem State.mapLine_authority (l : LineIx) (f : Line → Line) :
    (s.mapLine l f).authority = s.authority := rfl

@[simp] theorem State.mapLine_capture (l : LineIx) (f : Line → Line) :
    (s.mapLine l f).capture = s.capture := rfl

@[simp] theorem State.mapLine_notices (l : LineIx) (f : Line → Line) :
    (s.mapLine l f).notices = s.notices := rfl

@[simp] theorem State.mapLine_ports (l : LineIx) (f : Line → Line) :
    (s.mapLine l f).ports = s.ports := rfl

@[simp] theorem State.mapLine_trails (l : LineIx) (f : Line → Line) :
    (s.mapLine l f).trails = s.trails := rfl

@[simp] theorem State.mapLine_resetCause (l : LineIx) (f : Line → Line) :
    (s.mapLine l f).resetCause = s.resetCause := rfl

@[simp] theorem State.mapLine_inFullReset (l : LineIx) (f : Line → Line) :
    (s.mapLine l f).inFullReset = s.inFullReset := rfl

@[simp] theorem State.mapLine_pending (l : LineIx) (f : Line → Line) :
    (s.mapLine l f).pending = s.pending := rfl

@[simp] theorem State.mapLine_freeCount (l : LineIx) (f : Line → Line) :
    (s.mapLine l f).freeCount = s.freeCount := rfl

/-! ### mapTime -/

@[simp] theorem State.mapTime_timebase (f : Timebase → Timebase) :
    (s.mapTime f).timebase = f s.timebase := rfl

@[simp] theorem State.mapTime_schedule (f : Timebase → Timebase) :
    (s.mapTime f).schedule = s.schedule := rfl

@[simp] theorem State.mapTime_lines (f : Timebase → Timebase) :
    (s.mapTime f).lines = s.lines := rfl

@[simp] theorem State.mapTime_authority (f : Timebase → Timebase) :
    (s.mapTime f).authority = s.authority := rfl

@[simp] theorem State.mapTime_capture (f : Timebase → Timebase) :
    (s.mapTime f).capture = s.capture := rfl

@[simp] theorem State.mapTime_notices (f : Timebase → Timebase) :
    (s.mapTime f).notices = s.notices := rfl

@[simp] theorem State.mapTime_ports (f : Timebase → Timebase) :
    (s.mapTime f).ports = s.ports := rfl

@[simp] theorem State.mapTime_trails (f : Timebase → Timebase) :
    (s.mapTime f).trails = s.trails := rfl

@[simp] theorem State.mapTime_resetCause (f : Timebase → Timebase) :
    (s.mapTime f).resetCause = s.resetCause := rfl

@[simp] theorem State.mapTime_inFullReset (f : Timebase → Timebase) :
    (s.mapTime f).inFullReset = s.inFullReset := rfl

@[simp] theorem State.mapTime_pending (f : Timebase → Timebase) :
    (s.mapTime f).pending = s.pending := rfl

@[simp] theorem State.mapTime_freeCount (f : Timebase → Timebase) :
    (s.mapTime f).freeCount = s.freeCount := rfl

/-! ### mapSchedule -/

@[simp] theorem State.mapSchedule_timebase (f : Schedule → Schedule) :
    (s.mapSchedule f).timebase = s.timebase := rfl

@[simp] theorem State.mapSchedule_schedule (f : Schedule → Schedule) :
    (s.mapSchedule f).schedule = f s.schedule := rfl

@[simp] theorem State.mapSchedule_lines (f : Schedule → Schedule) :
    (s.mapSchedule f).lines = s.lines := rfl

@[simp] theorem State.mapSchedule_authority (f : Schedule → Schedule) :
    (s.mapSchedule f).authority = s.authority := rfl

@[simp] theorem State.mapSchedule_capture (f : Schedule → Schedule) :
    (s.mapSchedule f).capture = s.capture := rfl

@[simp] theorem State.mapSchedule_notices (f : Schedule → Schedule) :
    (s.mapSchedule f).notices = s.notices := rfl

@[simp] theorem State.mapSchedule_ports (f : Schedule → Schedule) :
    (s.mapSchedule f).ports = s.ports := rfl

@[simp] theorem State.mapSchedule_trails (f : Schedule → Schedule) :
    (s.mapSchedule f).trails = s.trails := rfl

@[simp] theorem State.mapSchedule_resetCause (f : Schedule → Schedule) :
    (s.mapSchedule f).resetCause = s.resetCause := rfl

@[simp] theorem State.mapSchedule_inFullReset (f : Schedule → Schedule) :
    (s.mapSchedule f).inFullReset = s.inFullReset := rfl

@[simp] theorem State.mapSchedule_pending (f : Schedule → Schedule) :
    (s.mapSchedule f).pending = s.pending := rfl

@[simp] theorem State.mapSchedule_freeCount (f : Schedule → Schedule) :
    (s.mapSchedule f).freeCount = s.freeCount := rfl

/-! ### mapAuthority -/

@[simp] theorem State.mapAuthority_timebase (f : Authority → Authority) :
    (s.mapAuthority f).timebase = s.timebase := rfl

@[simp] theorem State.mapAuthority_schedule (f : Authority → Authority) :
    (s.mapAuthority f).schedule = s.schedule := rfl

@[simp] theorem State.mapAuthority_lines (f : Authority → Authority) :
    (s.mapAuthority f).lines = s.lines := rfl

@[simp] theorem State.mapAuthority_authority (f : Authority → Authority) :
    (s.mapAuthority f).authority = f s.authority := rfl

@[simp] theorem State.mapAuthority_capture (f : Authority → Authority) :
    (s.mapAuthority f).capture = s.capture := rfl

@[simp] theorem State.mapAuthority_notices (f : Authority → Authority) :
    (s.mapAuthority f).notices = s.notices := rfl

@[simp] theorem State.mapAuthority_ports (f : Authority → Authority) :
    (s.mapAuthority f).ports = s.ports := rfl

@[simp] theorem State.mapAuthority_trails (f : Authority → Authority) :
    (s.mapAuthority f).trails = s.trails := rfl

@[simp] theorem State.mapAuthority_resetCause (f : Authority → Authority) :
    (s.mapAuthority f).resetCause = s.resetCause := rfl

@[simp] theorem State.mapAuthority_inFullReset (f : Authority → Authority) :
    (s.mapAuthority f).inFullReset = s.inFullReset := rfl

@[simp] theorem State.mapAuthority_pending (f : Authority → Authority) :
    (s.mapAuthority f).pending = s.pending := rfl

@[simp] theorem State.mapAuthority_freeCount (f : Authority → Authority) :
    (s.mapAuthority f).freeCount = s.freeCount := rfl

/-! ### mapCapture -/

@[simp] theorem State.mapCapture_timebase (f : Capture → Capture) :
    (s.mapCapture f).timebase = s.timebase := rfl

@[simp] theorem State.mapCapture_schedule (f : Capture → Capture) :
    (s.mapCapture f).schedule = s.schedule := rfl

@[simp] theorem State.mapCapture_lines (f : Capture → Capture) :
    (s.mapCapture f).lines = s.lines := rfl

@[simp] theorem State.mapCapture_authority (f : Capture → Capture) :
    (s.mapCapture f).authority = s.authority := rfl

@[simp] theorem State.mapCapture_capture (f : Capture → Capture) :
    (s.mapCapture f).capture = f s.capture := rfl

@[simp] theorem State.mapCapture_notices (f : Capture → Capture) :
    (s.mapCapture f).notices = s.notices := rfl

@[simp] theorem State.mapCapture_ports (f : Capture → Capture) :
    (s.mapCapture f).ports = s.ports := rfl

@[simp] theorem State.mapCapture_trails (f : Capture → Capture) :
    (s.mapCapture f).trails = s.trails := rfl

@[simp] theorem State.mapCapture_resetCause (f : Capture → Capture) :
    (s.mapCapture f).resetCause = s.resetCause := rfl

@[simp] theorem State.mapCapture_inFullReset (f : Capture → Capture) :
    (s.mapCapture f).inFullReset = s.inFullReset := rfl

@[simp] theorem State.mapCapture_pending (f : Capture → Capture) :
    (s.mapCapture f).pending = s.pending := rfl

@[simp] theorem State.mapCapture_freeCount (f : Capture → Capture) :
    (s.mapCapture f).freeCount = s.freeCount := rfl

/-! ### Frames and the status bytes noted (R166) -/

@[simp] theorem State.noted_timebase :
    s.noted.timebase = s.timebase := rfl

@[simp] theorem State.noted_schedule :
    s.noted.schedule = s.schedule := rfl

@[simp] theorem State.noted_lines :
    s.noted.lines = s.lines := rfl

@[simp] theorem State.noted_authority :
    s.noted.authority = s.authority := rfl

@[simp] theorem State.noted_capture :
    s.noted.capture = s.capture := rfl

@[simp] theorem State.noted_notices :
    s.noted.notices = s.notices := rfl

@[simp] theorem State.noted_ports :
    s.noted.ports = s.ports := rfl

@[simp] theorem State.noted_trails :
    s.noted.trails = Table.ofFn 3 s.trail := rfl

@[simp] theorem State.noted_resetCause :
    s.noted.resetCause = s.resetCause := rfl

@[simp] theorem State.noted_inFullReset :
    s.noted.inFullReset = s.inFullReset := rfl

@[simp] theorem State.noted_pending :
    s.noted.pending = s.pending := rfl

@[simp] theorem State.noted_freeCount :
    s.noted.freeCount = s.freeCount := rfl

@[simp] theorem State.frameEnds_timebase (p : Port) :
    (s.frameEnds p).timebase = s.timebase := rfl

@[simp] theorem State.frameEnds_schedule (p : Port) :
    (s.frameEnds p).schedule = s.schedule := rfl

@[simp] theorem State.frameEnds_lines (p : Port) :
    (s.frameEnds p).lines = s.lines := rfl

@[simp] theorem State.frameEnds_authority (p : Port) :
    (s.frameEnds p).authority = s.authority := rfl

@[simp] theorem State.frameEnds_capture (p : Port) :
    (s.frameEnds p).capture = s.capture := rfl

@[simp] theorem State.frameEnds_notices (p : Port) :
    (s.frameEnds p).notices = s.notices := rfl

@[simp] theorem State.frameEnds_ports (p : Port) :
    (s.frameEnds p).ports = s.ports := rfl

@[simp] theorem State.frameEnds_trails (p : Port) :
    (s.frameEnds p).trails = s.noted.trails.set p [] := rfl

@[simp] theorem State.frameEnds_resetCause (p : Port) :
    (s.frameEnds p).resetCause = s.resetCause := rfl

@[simp] theorem State.frameEnds_inFullReset (p : Port) :
    (s.frameEnds p).inFullReset = s.inFullReset := rfl

@[simp] theorem State.frameEnds_pending (p : Port) :
    (s.frameEnds p).pending = s.pending := rfl

@[simp] theorem State.frameEnds_freeCount (p : Port) :
    (s.frameEnds p).freeCount = s.freeCount := rfl

@[simp] theorem State.frame_timebase (p : Port) (bytes : List Byte) (f : PortIf → PortIf) :
    (s.frame p bytes f).timebase = s.timebase := rfl

@[simp] theorem State.frame_schedule (p : Port) (bytes : List Byte) (f : PortIf → PortIf) :
    (s.frame p bytes f).schedule = s.schedule := rfl

@[simp] theorem State.frame_lines (p : Port) (bytes : List Byte) (f : PortIf → PortIf) :
    (s.frame p bytes f).lines = s.lines := rfl

@[simp] theorem State.frame_authority (p : Port) (bytes : List Byte) (f : PortIf → PortIf) :
    (s.frame p bytes f).authority = s.authority := rfl

@[simp] theorem State.frame_capture (p : Port) (bytes : List Byte) (f : PortIf → PortIf) :
    (s.frame p bytes f).capture = s.capture := rfl

@[simp] theorem State.frame_notices (p : Port) (bytes : List Byte) (f : PortIf → PortIf) :
    (s.frame p bytes f).notices = s.notices := rfl

@[simp] theorem State.frame_ports (p : Port) (bytes : List Byte) (f : PortIf → PortIf) :
    (s.frame p bytes f).ports =
      s.ports.upd p fun i => { f i with miso := bytes } := rfl

@[simp] theorem State.frame_trails (p : Port) (bytes : List Byte) (f : PortIf → PortIf) :
    (s.frame p bytes f).trails = s.noted.trails.set p [] := rfl

@[simp] theorem State.frame_resetCause (p : Port) (bytes : List Byte) (f : PortIf → PortIf) :
    (s.frame p bytes f).resetCause = s.resetCause := rfl

@[simp] theorem State.frame_inFullReset (p : Port) (bytes : List Byte) (f : PortIf → PortIf) :
    (s.frame p bytes f).inFullReset = s.inFullReset := rfl

@[simp] theorem State.frame_pending (p : Port) (bytes : List Byte) (f : PortIf → PortIf) :
    (s.frame p bytes f).pending = s.pending := rfl

@[simp] theorem State.frame_freeCount (p : Port) (bytes : List Byte) (f : PortIf → PortIf) :
    (s.frame p bytes f).freeCount = s.freeCount := rfl

@[simp] theorem State.attached_noted (q : Port) : s.noted.attached q = s.attached q := rfl

@[simp] theorem State.holder_noted : s.noted.holder = s.holder := rfl

@[simp] theorem State.statusByte_noted (q : Port) : s.noted.statusByte q = s.statusByte q := rfl

@[simp] theorem State.attached_frameEnds (p q : Port) :
    (s.frameEnds p).attached q = s.attached q := rfl

@[simp] theorem State.holder_frameEnds (p : Port) : (s.frameEnds p).holder = s.holder := rfl

@[simp] theorem State.holder_frame (p : Port) (bytes : List Byte) (f : PortIf → PortIf) :
    (s.frame p bytes f).holder = s.holder := rfl

/-- The trail of a port begins with the status byte that stands now (R166). -/
theorem State.trail_head (q : Port) : (s.trail q).head? = some (s.statusByte q) := by
  unfold State.trail
  split
  · next h => exact h
  · rfl

/-- To note the status bytes twice is to note them once. -/
@[simp] theorem State.noted_noted : s.noted.noted = s.noted := by
  have h : s.noted.trail = s.trail := funext fun q => by
    rw [State.trail, State.statusByte_noted, State.noted_trails, Table.get_ofFn,
      if_pos (s.trail_head q)]
  rw [State.noted, h]
  rfl

/-- A run has as many bytes as are asked for. -/
theorem statusRun_length (trail : List Byte) (lags : List Nat) :
    ∀ oldest n, (statusRun trail oldest n lags).length = n := by
  induction lags with
  | nil =>
    intro _ n
    rw [statusRun, List.length_replicate]
  | cons lag more ih =>
    intro oldest n
    cases n with
    | zero => rfl
    | succ m => rw [statusRun, List.length_cons, ih]

/-- A frame of `n` bytes shows `n` status bytes (R166). -/
@[simp] theorem State.statusBytes_length (p : Port) (lags : List Nat) (n : Nat) :
    (s.statusBytes p lags n).length = n := statusRun_length _ lags _ n

/-- Where no byte of a frame began before the last change, each shows the status byte that stands now. -/
theorem State.statusBytes_nil (p : Port) (n : Nat) :
    s.statusBytes p [] n = List.replicate n (s.statusByte p) := by
  have h := s.trail_head p
  unfold State.statusBytes statusRun
  cases ht : s.trail p with
  | nil => rw [ht] at h; cases h
  | cons b bs =>
    rw [ht] at h
    rw [← Option.some.inj h]
    rfl

/-! ### What is read through a port or a holder -/

@[simp] theorem State.attached_mapQueue (p q : Port) (f : NoticeQueue → NoticeQueue) :
    (s.mapQueue p f).attached q = s.attached q := rfl

@[simp] theorem State.attached_mapLine (l : LineIx) (f : Line → Line) (q : Port) :
    (s.mapLine l f).attached q = s.attached q := rfl

@[simp] theorem State.attached_mapTime (f : Timebase → Timebase) (q : Port) :
    (s.mapTime f).attached q = s.attached q := rfl

@[simp] theorem State.attached_mapSchedule (f : Schedule → Schedule) (q : Port) :
    (s.mapSchedule f).attached q = s.attached q := rfl

@[simp] theorem State.attached_mapAuthority (f : Authority → Authority) (q : Port) :
    (s.mapAuthority f).attached q = s.attached q := rfl

@[simp] theorem State.attached_mapCapture (f : Capture → Capture) (q : Port) :
    (s.mapCapture f).attached q = s.attached q := rfl

/-- A change of a port interface that keeps its session keeps who is attached. -/
theorem State.attached_mapPort (p q : Port) (f : PortIf → PortIf)
    (h : (f (s.ports.get p)).session = (s.ports.get p).session) :
    (s.mapPort p f).attached q = s.attached q := by
  simp only [State.attached, State.mapPort_ports, Table.get_upd]
  split
  · next e => rw [h, e]
  · rfl

/-- Who is attached depends on the ports alone. -/
theorem State.attached_congr {s t : State} (h : t.ports = s.ports) (q : Port) :
    t.attached q = s.attached q := by
  simp only [State.attached, h]

/-- Who holds the authority depends on the authority unit alone. -/
theorem State.holder_congr {s t : State} (h : t.authority = s.authority) : t.holder = s.holder := by
  simp only [State.holder, h]

end Machine

end Sys2Proof
end

