-- ==== Sys2Proof/Laws/Notices.lean ====
section
/-! SUPPORT. What posting a notice does: to its queue, and to nothing else. -/

namespace Sys2Proof.Machine

variable (s : State)

theorem allPorts_nodup : allPorts.Nodup := List.nodup_finRange 3

@[simp] theorem mem_allPorts (p : Port) : p ∈ allPorts := List.mem_finRange p

/-! ### One notice -/

/-- A posted notice reaches the notice queues alone (R145). -/
theorem State.post_frame (p : Port) (b : NoticeBody) :
    s.post p b =
      { s with
        notices := (s.post p b).notices } := by
  have hv : ∃ v1, s.post p b = { s with notices := v1 } := by
    unfold State.post
    split
    · exact ⟨_, rfl⟩
    · exact ⟨s.notices, rfl⟩
  obtain ⟨v1, hv⟩ := hv
  rw [hv]

@[simp] theorem State.post_timebase (p : Port) (b : NoticeBody) :
    (s.post p b).timebase = s.timebase := by
  rw [State.post_frame]

@[simp] theorem State.post_schedule (p : Port) (b : NoticeBody) :
    (s.post p b).schedule = s.schedule := by
  rw [State.post_frame]

@[simp] theorem State.post_lines (p : Port) (b : NoticeBody) :
    (s.post p b).lines = s.lines := by
  rw [State.post_frame]

@[simp] theorem State.post_authority (p : Port) (b : NoticeBody) :
    (s.post p b).authority = s.authority := by
  rw [State.post_frame]

@[simp] theorem State.post_capture (p : Port) (b : NoticeBody) :
    (s.post p b).capture = s.capture := by
  rw [State.post_frame]

@[simp] theorem State.post_ports (p : Port) (b : NoticeBody) :
    (s.post p b).ports = s.ports := by
  rw [State.post_frame]

@[simp] theorem State.post_trails (p : Port) (b : NoticeBody) :
    (s.post p b).trails = s.trails := by
  rw [State.post_frame]

@[simp] theorem State.post_resetCause (p : Port) (b : NoticeBody) :
    (s.post p b).resetCause = s.resetCause := by
  rw [State.post_frame]

@[simp] theorem State.post_inFullReset (p : Port) (b : NoticeBody) :
    (s.post p b).inFullReset = s.inFullReset := by
  rw [State.post_frame]

@[simp] theorem State.post_pending (p : Port) (b : NoticeBody) :
    (s.post p b).pending = s.pending := by
  rw [State.post_frame]

@[simp] theorem State.post_freeCount (p : Port) (b : NoticeBody) :
    (s.post p b).freeCount = s.freeCount := by
  rw [State.post_frame]

@[simp] theorem State.attached_post (p q : Port) (b : NoticeBody) :
    (s.post p b).attached q = s.attached q := State.attached_congr (s.post_ports p b) q

@[simp] theorem State.holder_post (p : Port) (b : NoticeBody) : (s.post p b).holder = s.holder :=
  State.holder_congr (s.post_authority p b)

/-- The queue of every port after a post (R145): the notice reaches one queue, if that port is
attached. -/
theorem State.post_queue (p q : Port) (b : NoticeBody) :
    (s.post p b).notices.get q =
      if p = q ∧ s.attached p = true then
        (s.notices.get q).take s.timebase.now s.timebase.epoch b
      else s.notices.get q := by
  unfold State.post
  by_cases ha : s.attached p = true
  · rw [if_pos ha, State.mapQueue_notices, Table.get_upd]
    by_cases h : p = q
    · rw [if_pos h, if_pos ⟨h, ha⟩, h]
    · rw [if_neg h, if_neg fun c => h c.1]
  · rw [if_neg ha, if_neg fun c => ha c.2]

/-- A queue with room stores the notice (R145). -/
theorem NoticeQueue.take_stored (q : NoticeQueue) (now : Nat) (epoch : BitVec 16) (b : NoticeBody)
    (h : q.queue.length < 16) :
    q.take now epoch b =
      { q with
        queue := q.queue ++ [{ seq := q.nextSeq, stamp := now, epoch := epoch, body := b }]
        nextSeq := q.nextSeq + 1 } :=
  if_neg (Nat.not_le.mpr h)

/-- A full queue discards the notice into its overflow set (R145). -/
theorem NoticeQueue.take_discarded (q : NoticeQueue) (now : Nat) (epoch : BitVec 16)
    (b : NoticeBody) (h : 16 ≤ q.queue.length) :
    q.take now epoch b = { q with overflow := q.overflow ||| b.kind.bit } := if_pos h

@[simp] theorem NoticeQueue.take_attention (q : NoticeQueue) (now : Nat) (epoch : BitVec 16)
    (b : NoticeBody) : (q.take now epoch b).attention = q.attention := by
  unfold NoticeQueue.take
  split <;> rfl

/-! ### The same notice to several ports -/

/-- A notice posted to several ports reaches the notice queues alone (R145). -/
theorem State.postAll_frame (ps : List Port) (b : NoticeBody) :
    s.postAll ps b =
      { s with
        notices := (s.postAll ps b).notices } := by
  have hv : ∃ v1, s.postAll ps b = { s with notices := v1 } := by
    unfold State.postAll
    induction ps generalizing s with
    | nil => exact ⟨s.notices, rfl⟩
    | cons p ps ih =>
      obtain ⟨m, h⟩ := ih (s.post p b)
      exact ⟨m, by rw [List.foldl_cons, h, State.post_frame]⟩
  obtain ⟨v1, hv⟩ := hv
  rw [hv]

@[simp] theorem State.postAll_timebase (ps : List Port) (b : NoticeBody) :
    (s.postAll ps b).timebase = s.timebase := by
  rw [State.postAll_frame]

@[simp] theorem State.postAll_schedule (ps : List Port) (b : NoticeBody) :
    (s.postAll ps b).schedule = s.schedule := by
  rw [State.postAll_frame]

@[simp] theorem State.postAll_lines (ps : List Port) (b : NoticeBody) :
    (s.postAll ps b).lines = s.lines := by
  rw [State.postAll_frame]

@[simp] theorem State.postAll_authority (ps : List Port) (b : NoticeBody) :
    (s.postAll ps b).authority = s.authority := by
  rw [State.postAll_frame]

@[simp] theorem State.postAll_capture (ps : List Port) (b : NoticeBody) :
    (s.postAll ps b).capture = s.capture := by
  rw [State.postAll_frame]

@[simp] theorem State.postAll_ports (ps : List Port) (b : NoticeBody) :
    (s.postAll ps b).ports = s.ports := by
  rw [State.postAll_frame]

@[simp] theorem State.postAll_trails (ps : List Port) (b : NoticeBody) :
    (s.postAll ps b).trails = s.trails := by
  rw [State.postAll_frame]

@[simp] theorem State.postAll_resetCause (ps : List Port) (b : NoticeBody) :
    (s.postAll ps b).resetCause = s.resetCause := by
  rw [State.postAll_frame]

@[simp] theorem State.postAll_inFullReset (ps : List Port) (b : NoticeBody) :
    (s.postAll ps b).inFullReset = s.inFullReset := by
  rw [State.postAll_frame]

@[simp] theorem State.postAll_pending (ps : List Port) (b : NoticeBody) :
    (s.postAll ps b).pending = s.pending := by
  rw [State.postAll_frame]

@[simp] theorem State.postAll_freeCount (ps : List Port) (b : NoticeBody) :
    (s.postAll ps b).freeCount = s.freeCount := by
  rw [State.postAll_frame]

@[simp] theorem State.attached_postAll (ps : List Port) (q : Port) (b : NoticeBody) :
    (s.postAll ps b).attached q = s.attached q := State.attached_congr (s.postAll_ports ps b) q

/-- The queue of every port after a post to several different ports (R145). -/
theorem State.postAll_queue (ps : List Port) (q : Port) (b : NoticeBody) (hn : ps.Nodup) :
    (s.postAll ps b).notices.get q =
      if q ∈ ps ∧ s.attached q = true then
        (s.notices.get q).take s.timebase.now s.timebase.epoch b
      else s.notices.get q := by
  induction ps generalizing s with
  | nil => simp only [State.postAll, List.foldl_nil, List.not_mem_nil, false_and, if_false]
  | cons p ps ih =>
    obtain ⟨hp, hn⟩ := List.nodup_cons.mp hn
    change ((s.post p b).postAll ps b).notices.get q = _
    rw [ih (s.post p b) hn, State.attached_post, State.post_timebase, State.post_queue]
    by_cases h : p = q
    · subst h
      simp only [hp, false_and, if_false, true_and, List.mem_cons, true_or]
    · have h' : q ≠ p := fun e => h e.symm
      simp only [h, h', false_and, if_false, List.mem_cons, false_or]

/-- A notice posted to the ports that a test selects reaches the notice queues alone (R145). -/
theorem State.postWhere_frame (test : Port → Bool) (b : NoticeBody) :
    s.postWhere test b =
      { s with
        notices := (s.postWhere test b).notices } := by
  have hv : ∃ v1, s.postWhere test b = { s with notices := v1 } := by
    exact ⟨_, State.postAll_frame s _ b⟩
  obtain ⟨v1, hv⟩ := hv
  rw [hv]

@[simp] theorem State.postWhere_timebase (test : Port → Bool) (b : NoticeBody) :
    (s.postWhere test b).timebase = s.timebase := by
  rw [State.postWhere_frame]

@[simp] theorem State.postWhere_schedule (test : Port → Bool) (b : NoticeBody) :
    (s.postWhere test b).schedule = s.schedule := by
  rw [State.postWhere_frame]

@[simp] theorem State.postWhere_lines (test : Port → Bool) (b : NoticeBody) :
    (s.postWhere test b).lines = s.lines := by
  rw [State.postWhere_frame]

@[simp] theorem State.postWhere_authority (test : Port → Bool) (b : NoticeBody) :
    (s.postWhere test b).authority = s.authority := by
  rw [State.postWhere_frame]

@[simp] theorem State.postWhere_capture (test : Port → Bool) (b : NoticeBody) :
    (s.postWhere test b).capture = s.capture := by
  rw [State.postWhere_frame]

@[simp] theorem State.postWhere_ports (test : Port → Bool) (b : NoticeBody) :
    (s.postWhere test b).ports = s.ports := by
  rw [State.postWhere_frame]

@[simp] theorem State.postWhere_trails (test : Port → Bool) (b : NoticeBody) :
    (s.postWhere test b).trails = s.trails := by
  rw [State.postWhere_frame]

@[simp] theorem State.postWhere_resetCause (test : Port → Bool) (b : NoticeBody) :
    (s.postWhere test b).resetCause = s.resetCause := by
  rw [State.postWhere_frame]

@[simp] theorem State.postWhere_inFullReset (test : Port → Bool) (b : NoticeBody) :
    (s.postWhere test b).inFullReset = s.inFullReset := by
  rw [State.postWhere_frame]

@[simp] theorem State.postWhere_pending (test : Port → Bool) (b : NoticeBody) :
    (s.postWhere test b).pending = s.pending := by
  rw [State.postWhere_frame]

@[simp] theorem State.postWhere_freeCount (test : Port → Bool) (b : NoticeBody) :
    (s.postWhere test b).freeCount = s.freeCount := by
  rw [State.postWhere_frame]

@[simp] theorem State.attached_postWhere (test : Port → Bool) (q : Port) (b : NoticeBody) :
    (s.postWhere test b).attached q = s.attached q :=
  State.attached_congr (s.postWhere_ports test b) q

@[simp] theorem State.holder_postWhere (test : Port → Bool) (b : NoticeBody) :
    (s.postWhere test b).holder = s.holder := State.holder_congr (s.postWhere_authority test b)

/-- The queue of every port after a post to the ports that a test selects (R145). -/
theorem State.postWhere_queue (test : Port → Bool) (q : Port) (b : NoticeBody) :
    (s.postWhere test b).notices.get q =
      if test q = true ∧ s.attached q = true then
        (s.notices.get q).take s.timebase.now s.timebase.epoch b
      else s.notices.get q := by
  unfold State.postWhere
  rw [State.postAll_queue s _ q b (allPorts_nodup.filter _)]
  simp only [List.mem_filter, mem_allPorts, true_and]

end Sys2Proof.Machine
end

