-- ==== Sys2Proof/Laws/Lines.lean ====
section
/-! SUPPORT. What the line unit's operations do to a line, and that they reach nothing else. -/

namespace Sys2Proof.Machine

variable (s : State)

/-! ### References (R87 to R89) -/

/-- A change of the lines that some different actions name, at every line. -/
theorem foldl_upd_lines (f : Line → Line) (actions : List LineAction) (ls : Table 16 Line)
    (l : LineIx) (hn : (actions.map LineAction.line).Nodup) :
    (actions.foldl (fun t a => t.upd a.line f) ls).get l =
      if l ∈ actions.map LineAction.line then f (ls.get l) else ls.get l := by
  induction actions generalizing ls with
  | nil => simp only [List.foldl_nil, List.map_nil, List.not_mem_nil, if_false]
  | cons a as ih =>
    rw [List.map_cons, List.nodup_cons] at hn
    rw [List.foldl_cons, ih _ hn.2, Table.get_upd, List.map_cons]
    by_cases h : a.line = l
    · subst h
      simp only [hn.1, if_false, if_true, List.mem_cons, true_or]
    · have h' : l ≠ a.line := fun e => h e.symm
      simp only [h, h', if_false, List.mem_cons, false_or]

/-- The lines once the references of an entry are counted (R38 step 4). -/
theorem addRefs_get (p : Port) (actions : List LineAction) (ls : Table 16 Line) (l : LineIx)
    (hn : (actions.map LineAction.line).Nodup) :
    (addRefs p actions ls).get l =
      if l ∈ actions.map LineAction.line then (ls.get l).addRef p else ls.get l :=
  foldl_upd_lines (Line.addRef p) actions ls l hn

/-- The lines once the references of an entry are dropped (R28 step 2). -/
theorem dropRefs_get (p : Port) (actions : List LineAction) (ls : Table 16 Line) (l : LineIx)
    (hn : (actions.map LineAction.line).Nodup) :
    (dropRefs p actions ls).get l =
      if l ∈ actions.map LineAction.line then (ls.get l).dropRef p else ls.get l :=
  foldl_upd_lines (Line.dropRef p) actions ls l hn

/-- A change of references changes the references and the exclusive holder of a line alone. -/
theorem addRefs_frame (p : Port) (actions : List LineAction) (ls : Table 16 Line) (l : LineIx) :
    (addRefs p actions ls).get l =
      { ls.get l with
        refs := ((addRefs p actions ls).get l).refs
        exclHolder := ((addRefs p actions ls).get l).exclHolder } := by
  unfold addRefs
  induction actions generalizing ls with
  | nil => rfl
  | cons a as ih =>
    rw [List.foldl_cons, ih, Table.get_upd]
    split
    · next h => rw [← h]; rfl
    · rfl

/-- A change of references changes the references and the exclusive holder of a line alone. -/
theorem dropRefs_frame (p : Port) (actions : List LineAction) (ls : Table 16 Line) (l : LineIx) :
    (dropRefs p actions ls).get l =
      { ls.get l with
        refs := ((dropRefs p actions ls).get l).refs
        exclHolder := ((dropRefs p actions ls).get l).exclHolder } := by
  unfold dropRefs
  induction actions generalizing ls with
  | nil => rfl
  | cons a as ih =>
    rw [List.foldl_cons, ih, Table.get_upd]
    split
    · next h => rw [← h]; rfl
    · rfl

/-! ### Line actions (R79 to R82) -/

/-- An applied action changes base, pulse and retriggers of its line alone. -/
theorem Line.apply_frame (now : Nat) (h : Handle) (a : LineAction) (l : Line) :
    l.apply now h a =
      { l with
        base := (l.apply now h a).base
        pulse := (l.apply now h a).pulse
        retriggers := (l.apply now h a).retriggers } := by
  unfold Line.apply
  split
  · unfold Line.startPulse
    dsimp only
    split <;> rfl
  all_goals rfl

/-- A pulse never ends beyond the range of Now (R81). -/
theorem pulseEndAt_le (now w : Nat) : pulseEndAt now w ≤ maxNow := Nat.min_le_right _ _

/-- A saturated counter lies within 65,535. -/
theorem saturate_le (n : Nat) : saturate n ≤ 65535 := Nat.min_le_right _ _

/-- One line action reaches lines and notice queues alone (R79). -/
theorem State.lineAction_frame (h : Handle) (e : Entry) (a : LineAction) :
    s.lineAction h e a =
      { s with
        lines := (s.lineAction h e a).lines
        notices := (s.lineAction h e a).notices } := by
  have hv : ∃ v1 v2, s.lineAction h e a = { s with lines := v1, notices := v2 } := by
    unfold State.lineAction
    split
    · exact ⟨_, s.notices, rfl⟩
    · split
      · exact ⟨s.lines, s.notices, rfl⟩
      · exact ⟨s.lines, _, State.post_frame s _ _⟩
  obtain ⟨v1, v2, hv⟩ := hv
  rw [hv]

@[simp] theorem State.lineAction_timebase (h : Handle) (e : Entry) (a : LineAction) :
    (s.lineAction h e a).timebase = s.timebase := by
  rw [State.lineAction_frame]

@[simp] theorem State.lineAction_schedule (h : Handle) (e : Entry) (a : LineAction) :
    (s.lineAction h e a).schedule = s.schedule := by
  rw [State.lineAction_frame]

@[simp] theorem State.lineAction_authority (h : Handle) (e : Entry) (a : LineAction) :
    (s.lineAction h e a).authority = s.authority := by
  rw [State.lineAction_frame]

@[simp] theorem State.lineAction_capture (h : Handle) (e : Entry) (a : LineAction) :
    (s.lineAction h e a).capture = s.capture := by
  rw [State.lineAction_frame]

@[simp] theorem State.lineAction_ports (h : Handle) (e : Entry) (a : LineAction) :
    (s.lineAction h e a).ports = s.ports := by
  rw [State.lineAction_frame]

@[simp] theorem State.lineAction_trails (h : Handle) (e : Entry) (a : LineAction) :
    (s.lineAction h e a).trails = s.trails := by
  rw [State.lineAction_frame]

@[simp] theorem State.lineAction_resetCause (h : Handle) (e : Entry) (a : LineAction) :
    (s.lineAction h e a).resetCause = s.resetCause := by
  rw [State.lineAction_frame]

@[simp] theorem State.lineAction_inFullReset (h : Handle) (e : Entry) (a : LineAction) :
    (s.lineAction h e a).inFullReset = s.inFullReset := by
  rw [State.lineAction_frame]

@[simp] theorem State.lineAction_pending (h : Handle) (e : Entry) (a : LineAction) :
    (s.lineAction h e a).pending = s.pending := by
  rw [State.lineAction_frame]

@[simp] theorem State.lineAction_freeCount (h : Handle) (e : Entry) (a : LineAction) :
    (s.lineAction h e a).freeCount = s.freeCount := by
  rw [State.lineAction_frame]

/-- The line actions of an expiry reach lines and notice queues alone (R54). -/
theorem State.lineActions_frame (h : Handle) (e : Entry) :
    s.lineActions h e =
      { s with
        lines := (s.lineActions h e).lines
        notices := (s.lineActions h e).notices } := by
  have hv : ∃ v1 v2, s.lineActions h e = { s with lines := v1, notices := v2 } := by
    unfold State.lineActions
    generalize e.actions = as
    induction as generalizing s with
    | nil => exact ⟨s.lines, s.notices, rfl⟩
    | cons a as ih =>
      obtain ⟨m, n, hx⟩ := ih (s.lineAction h e a)
      exact ⟨m, n, by rw [List.foldl_cons, hx, State.lineAction_frame]⟩
  obtain ⟨v1, v2, hv⟩ := hv
  rw [hv]

@[simp] theorem State.lineActions_timebase (h : Handle) (e : Entry) :
    (s.lineActions h e).timebase = s.timebase := by
  rw [State.lineActions_frame]

@[simp] theorem State.lineActions_schedule (h : Handle) (e : Entry) :
    (s.lineActions h e).schedule = s.schedule := by
  rw [State.lineActions_frame]

@[simp] theorem State.lineActions_authority (h : Handle) (e : Entry) :
    (s.lineActions h e).authority = s.authority := by
  rw [State.lineActions_frame]

@[simp] theorem State.lineActions_capture (h : Handle) (e : Entry) :
    (s.lineActions h e).capture = s.capture := by
  rw [State.lineActions_frame]

@[simp] theorem State.lineActions_ports (h : Handle) (e : Entry) :
    (s.lineActions h e).ports = s.ports := by
  rw [State.lineActions_frame]

@[simp] theorem State.lineActions_trails (h : Handle) (e : Entry) :
    (s.lineActions h e).trails = s.trails := by
  rw [State.lineActions_frame]

@[simp] theorem State.lineActions_resetCause (h : Handle) (e : Entry) :
    (s.lineActions h e).resetCause = s.resetCause := by
  rw [State.lineActions_frame]

@[simp] theorem State.lineActions_inFullReset (h : Handle) (e : Entry) :
    (s.lineActions h e).inFullReset = s.inFullReset := by
  rw [State.lineActions_frame]

@[simp] theorem State.lineActions_pending (h : Handle) (e : Entry) :
    (s.lineActions h e).pending = s.pending := by
  rw [State.lineActions_frame]

@[simp] theorem State.lineActions_freeCount (h : Handle) (e : Entry) :
    (s.lineActions h e).freeCount = s.freeCount := by
  rw [State.lineActions_frame]

@[simp] theorem State.attached_lineActions (h : Handle) (e : Entry) (q : Port) :
    (s.lineActions h e).attached q = s.attached q :=
  State.attached_congr (s.lineActions_ports h e) q

@[simp] theorem State.holder_lineActions (h : Handle) (e : Entry) :
    (s.lineActions h e).holder = s.holder := State.holder_congr (s.lineActions_authority h e)

/-- One line action at every line: applied where the writer mask admits the owner (R79). -/
theorem State.lineAction_line (h : Handle) (e : Entry) (a : LineAction) (l : LineIx) :
    (s.lineAction h e a).lines.get l =
      if a.line = l ∧ hasBit (s.lines.get l).writerMask e.owner = true then
        (s.lines.get l).apply s.timebase.now h a
      else s.lines.get l := by
  unfold State.lineAction
  by_cases hb : hasBit (s.lines.get a.line).writerMask e.owner = true
  · rw [if_pos hb, State.mapLine_lines, Table.get_upd]
    by_cases hl : a.line = l
    · subst hl
      rw [if_pos rfl, if_pos ⟨rfl, hb⟩]
    · rw [if_neg hl, if_neg fun c => hl c.1]
  · have hr : ¬ (a.line = l ∧ hasBit (s.lines.get l).writerMask e.owner = true) := by
      rintro ⟨rfl, c⟩
      exact hb c
    rw [if_neg hb, if_neg hr]
    split
    · rfl
    · rw [State.post_lines]

/-- A line that no action names is as it was. -/
theorem State.lineActions_other (h : Handle) (e : Entry) (l : LineIx)
    (hl : l ∉ e.actions.map LineAction.line) : (s.lineActions h e).lines.get l = s.lines.get l := by
  unfold State.lineActions
  revert hl
  generalize e.actions = as
  intro hl
  induction as generalizing s with
  | nil => rfl
  | cons a as ih =>
    rw [List.map_cons, List.mem_cons, not_or] at hl
    rw [List.foldl_cons, ih _ hl.2, State.lineAction_line, if_neg fun c => hl.1 c.1.symm]

/-- The line of each action of an entry, which names no line twice (R54, R79). -/
theorem State.lineActions_line (h : Handle) (e : Entry) (a : LineAction) (ha : a ∈ e.actions)
    (hn : (e.actions.map LineAction.line).Nodup) :
    (s.lineActions h e).lines.get a.line =
      if hasBit (s.lines.get a.line).writerMask e.owner = true then
        (s.lines.get a.line).apply s.timebase.now h a
      else s.lines.get a.line := by
  unfold State.lineActions
  revert ha hn
  generalize e.actions = as
  intro ha hn
  induction as generalizing s with
  | nil => exact absurd ha List.not_mem_nil
  | cons b bs ih =>
    rw [List.map_cons, List.nodup_cons] at hn
    rw [List.foldl_cons]
    rcases List.mem_cons.mp ha with rfl | hb
    · have hother : ∀ (t : State), (bs.foldl (fun t x => t.lineAction h e x) t).lines.get a.line
          = t.lines.get a.line := fun t =>
        State.lineActions_other t h { e with actions := bs } a.line hn.1
      rw [hother, State.lineAction_line]
      simp only [true_and]
    · have hne : b.line ≠ a.line := fun c => hn.1 (c ▸ List.mem_map_of_mem hb)
      have hs : (s.lineAction h e b).lines.get a.line = s.lines.get a.line := by
        rw [State.lineAction_line, if_neg fun c => hne c.1]
      rw [ih (s.lineAction h e b) hb hn.2, hs, State.lineAction_timebase]

/-! ### Steps, forces (R85, R95) -/

/-- A step moves the end of a pulse and nothing else of a line (R85). -/
theorem Line.shiftPulse_frame (oldNow newNow : Nat) (l : Line) :
    l.shiftPulse oldNow newNow = { l with pulse := (l.shiftPulse oldNow newNow).pulse } := rfl

/-- A moved value lies in the range of Now (R85). -/
theorem shiftClamped_le (oldNow newNow v : Nat) : shiftClamped oldNow newNow v ≤ maxNow := by
  unfold shiftClamped
  omega

/-- Clearing the forces reaches the lines alone (R95). -/
theorem State.clearForces_frame :
    s.clearForces =
      { s with
        lines := (s.clearForces).lines } := by
  have hv : ∃ v1, s.clearForces = { s with lines := v1 } := by
    exact ⟨_, rfl⟩
  obtain ⟨v1, hv⟩ := hv
  rw [hv]

@[simp] theorem State.clearForces_timebase : s.clearForces.timebase = s.timebase := rfl

@[simp] theorem State.clearForces_schedule : s.clearForces.schedule = s.schedule := rfl

@[simp] theorem State.clearForces_authority : s.clearForces.authority = s.authority := rfl

@[simp] theorem State.clearForces_capture : s.clearForces.capture = s.capture := rfl

@[simp] theorem State.clearForces_notices : s.clearForces.notices = s.notices := rfl

@[simp] theorem State.clearForces_ports : s.clearForces.ports = s.ports := rfl

@[simp] theorem State.clearForces_trails : s.clearForces.trails = s.trails := rfl

@[simp] theorem State.clearForces_resetCause : s.clearForces.resetCause = s.resetCause := rfl

@[simp] theorem State.clearForces_inFullReset : s.clearForces.inFullReset = s.inFullReset := rfl

@[simp] theorem State.clearForces_pending : s.clearForces.pending = s.pending := rfl

@[simp] theorem State.clearForces_freeCount : s.clearForces.freeCount = s.freeCount := rfl

@[simp] theorem State.clearForces_line (l : LineIx) :
    s.clearForces.lines.get l = { s.lines.get l with force := none } :=
  Table.get_map s.lines Line.clearForce l

end Sys2Proof.Machine
end

