-- ==== Sys2Proof/Laws/Authority.lean ====
section
/-! SUPPORT. What the authority unit's procedures do: the waiter queue, the demand, the vacancy, the millisecond, and what each reaches outside the unit. -/

namespace Sys2Proof.Machine

variable (s : State)

/-! ### The waiter queue (R103) -/

theorem joinQueue_perm (w : WaiterRec) (ws : List WaiterRec) :
    (joinQueue w ws).Perm (w :: ws) := by
  induction ws with
  | nil => exact List.Perm.refl _
  | cons x xs ih =>
    unfold joinQueue
    split
    · exact List.Perm.refl _
    · exact (List.Perm.cons x ih).trans (List.Perm.swap w x xs)

/-- An urgent waiter joins behind the urgent ones and before the others (R103). -/
theorem joinQueue_urgent (w : WaiterRec) (ws : List WaiterRec) (h : w.urgent = true) :
    joinQueue w ws = ws.takeWhile WaiterRec.urgent ++ w :: ws.dropWhile WaiterRec.urgent := by
  induction ws with
  | nil => rfl
  | cons x xs ih =>
    unfold joinQueue
    rw [h, List.takeWhile_cons, List.dropWhile_cons]
    cases hx : x.urgent with
    | false => rfl
    | true =>
      rw [ih]
      rfl

/-- A waiter that is not urgent joins at the end (R103). -/
theorem joinQueue_plain (w : WaiterRec) (ws : List WaiterRec) (h : w.urgent = false) :
    joinQueue w ws = ws ++ [w] := by
  induction ws with
  | nil => rfl
  | cons x xs ih =>
    unfold joinQueue
    rw [h, ih]
    rfl

theorem mem_leaveQueue (p : Port) (ws : List WaiterRec) (w : WaiterRec) :
    w ∈ leaveQueue p ws ↔ w ∈ ws ∧ w.port ≠ p := by
  simp only [leaveQueue, List.mem_filter, decide_eq_true_eq]

theorem leaveQueue_sublist (p : Port) (ws : List WaiterRec) : (leaveQueue p ws).Sublist ws :=
  List.filter_sublist

theorem Authority.waits_iff (a : Authority) (p : Port) :
    a.waits p = true ↔ ∃ w ∈ a.waiters, w.port = p := by
  simp only [Authority.waits, List.any_eq_true, decide_eq_true_eq]

/-- The waiter that a vacancy goes to is in the queue (R116 step 1). -/
theorem Authority.nextHolder_mem (a : Authority) (w : WaiterRec) (h : a.nextHolder = some w) :
    w ∈ a.waiters := by
  unfold Authority.nextHolder at h
  split at h
  · exact List.mem_of_find?_eq_some h
  · exact List.mem_of_mem_head? h

/-- A challenger waits, is urgent and strictly outranks the holder (R117). -/
theorem Authority.challenger_some (a : Authority) (p : Port) (w : WaiterRec)
    (h : a.challenger p = some w) :
    w ∈ a.waiters ∧ w.urgent = true ∧ a.rank.outranks w.port p = true := by
  unfold Authority.challenger at h
  have ht := List.find?_some h
  rw [Bool.and_eq_true] at ht
  exact ⟨List.mem_of_find?_eq_some h, ht⟩

/-- No port outranks itself (R101). -/
theorem Rank.outranks_irrefl (r : Rank) (p : Port) : r.outranks p p = false :=
  decide_eq_false (Nat.lt_irrefl _)

/-! ### What the procedures reach -/

/-- Re-evaluating the demand reaches the authority unit and notice queues alone (R117). -/
theorem State.reevaluate_frame :
    s.reevaluate =
      { s with
        authority := (s.reevaluate).authority
        notices := (s.reevaluate).notices } := by
  have hv : ∃ v1 v2, s.reevaluate = { s with authority := v1, notices := v2 } := by
    unfold State.reevaluate
    split
    · exact ⟨_, s.notices, rfl⟩
    · split
      · exact ⟨_, s.notices, rfl⟩
      · split
        · exact ⟨s.authority, s.notices, rfl⟩
        · exact ⟨_, _, State.post_frame _ _ _⟩
  obtain ⟨v1, v2, hv⟩ := hv
  rw [hv]

@[simp] theorem State.reevaluate_timebase :
    (s.reevaluate).timebase = s.timebase := by
  rw [State.reevaluate_frame]

@[simp] theorem State.reevaluate_schedule :
    (s.reevaluate).schedule = s.schedule := by
  rw [State.reevaluate_frame]

@[simp] theorem State.reevaluate_lines :
    (s.reevaluate).lines = s.lines := by
  rw [State.reevaluate_frame]

@[simp] theorem State.reevaluate_capture :
    (s.reevaluate).capture = s.capture := by
  rw [State.reevaluate_frame]

@[simp] theorem State.reevaluate_ports :
    (s.reevaluate).ports = s.ports := by
  rw [State.reevaluate_frame]

@[simp] theorem State.reevaluate_trails :
    (s.reevaluate).trails = s.trails := by
  rw [State.reevaluate_frame]

@[simp] theorem State.reevaluate_resetCause :
    (s.reevaluate).resetCause = s.resetCause := by
  rw [State.reevaluate_frame]

@[simp] theorem State.reevaluate_inFullReset :
    (s.reevaluate).inFullReset = s.inFullReset := by
  rw [State.reevaluate_frame]

@[simp] theorem State.reevaluate_pending :
    (s.reevaluate).pending = s.pending := by
  rw [State.reevaluate_frame]

@[simp] theorem State.reevaluate_freeCount :
    (s.reevaluate).freeCount = s.freeCount := by
  rw [State.reevaluate_frame]

/-- Re-evaluating the demand changes the demand alone of what the unit owns (R117). -/
theorem State.reevaluate_authority :
    s.reevaluate.authority = { s.authority with demand := s.reevaluate.authority.demand } := by
  have hv : ∃ d, s.reevaluate.authority = { s.authority with demand := d } := by
    unfold State.reevaluate
    split
    · exact ⟨_, rfl⟩
    · split
      · exact ⟨_, rfl⟩
      · split
        · exact ⟨s.authority.demand, rfl⟩
        · exact ⟨_, State.post_authority _ _ _⟩
  obtain ⟨d, hv⟩ := hv
  rw [hv]

/-- Filling a vacancy reaches the authority unit, the forces of lines and notice queues alone (R116). -/
theorem State.fillVacancy_frame (former : Port) (reason : AuthReason) :
    s.fillVacancy former reason =
      { s with
        authority := (s.fillVacancy former reason).authority
        lines := (s.fillVacancy former reason).lines
        notices := (s.fillVacancy former reason).notices } := by
  have hv : ∃ v1 v2 v3, s.fillVacancy former reason = { s with authority := v1, lines := v2, notices := v3 } := by
    unfold State.fillVacancy
    split
    · exact ⟨_, _, _, by
        rw [State.reevaluate_frame, State.clearForces_frame, State.postWhere_frame]; rfl⟩
    · exact ⟨_, _, _, by
        rw [State.reevaluate_frame, State.clearForces_frame, State.postWhere_frame,
          State.post_frame]; rfl⟩
  obtain ⟨v1, v2, v3, hv⟩ := hv
  rw [hv]

@[simp] theorem State.fillVacancy_timebase (former : Port) (reason : AuthReason) :
    (s.fillVacancy former reason).timebase = s.timebase := by
  rw [State.fillVacancy_frame]

@[simp] theorem State.fillVacancy_schedule (former : Port) (reason : AuthReason) :
    (s.fillVacancy former reason).schedule = s.schedule := by
  rw [State.fillVacancy_frame]

@[simp] theorem State.fillVacancy_capture (former : Port) (reason : AuthReason) :
    (s.fillVacancy former reason).capture = s.capture := by
  rw [State.fillVacancy_frame]

@[simp] theorem State.fillVacancy_ports (former : Port) (reason : AuthReason) :
    (s.fillVacancy former reason).ports = s.ports := by
  rw [State.fillVacancy_frame]

@[simp] theorem State.fillVacancy_trails (former : Port) (reason : AuthReason) :
    (s.fillVacancy former reason).trails = s.trails := by
  rw [State.fillVacancy_frame]

@[simp] theorem State.fillVacancy_resetCause (former : Port) (reason : AuthReason) :
    (s.fillVacancy former reason).resetCause = s.resetCause := by
  rw [State.fillVacancy_frame]

@[simp] theorem State.fillVacancy_inFullReset (former : Port) (reason : AuthReason) :
    (s.fillVacancy former reason).inFullReset = s.inFullReset := by
  rw [State.fillVacancy_frame]

@[simp] theorem State.fillVacancy_pending (former : Port) (reason : AuthReason) :
    (s.fillVacancy former reason).pending = s.pending := by
  rw [State.fillVacancy_frame]

@[simp] theorem State.fillVacancy_freeCount (former : Port) (reason : AuthReason) :
    (s.fillVacancy former reason).freeCount = s.freeCount := by
  rw [State.fillVacancy_frame]

/-- Filling a vacancy clears every force and changes nothing else of a line (R95). -/
theorem State.fillVacancy_line (former : Port) (reason : AuthReason) (l : LineIx) :
    (s.fillVacancy former reason).lines.get l = { s.lines.get l with force := none } := by
  unfold State.fillVacancy
  split
  · rw [State.reevaluate_lines, State.clearForces_line, State.postWhere_lines,
      State.mapAuthority_lines]
  · rw [State.reevaluate_lines, State.clearForces_line, State.postWhere_lines, State.post_lines,
      State.mapAuthority_lines]

/-- A withdrawal reaches the authority unit and notice queues alone (R110). -/
theorem State.withdraw_frame (p : Port) :
    s.withdraw p =
      { s with
        authority := (s.withdraw p).authority
        notices := (s.withdraw p).notices } := by
  have hv : ∃ v1 v2, s.withdraw p = { s with authority := v1, notices := v2 } := by
    exact ⟨_, _, State.reevaluate_frame _⟩
  obtain ⟨v1, v2, hv⟩ := hv
  rw [hv]

@[simp] theorem State.withdraw_timebase (p : Port) :
    (s.withdraw p).timebase = s.timebase := by
  rw [State.withdraw_frame]

@[simp] theorem State.withdraw_schedule (p : Port) :
    (s.withdraw p).schedule = s.schedule := by
  rw [State.withdraw_frame]

@[simp] theorem State.withdraw_lines (p : Port) :
    (s.withdraw p).lines = s.lines := by
  rw [State.withdraw_frame]

@[simp] theorem State.withdraw_capture (p : Port) :
    (s.withdraw p).capture = s.capture := by
  rw [State.withdraw_frame]

@[simp] theorem State.withdraw_ports (p : Port) :
    (s.withdraw p).ports = s.ports := by
  rw [State.withdraw_frame]

@[simp] theorem State.withdraw_trails (p : Port) :
    (s.withdraw p).trails = s.trails := by
  rw [State.withdraw_frame]

@[simp] theorem State.withdraw_resetCause (p : Port) :
    (s.withdraw p).resetCause = s.resetCause := by
  rw [State.withdraw_frame]

@[simp] theorem State.withdraw_inFullReset (p : Port) :
    (s.withdraw p).inFullReset = s.inFullReset := by
  rw [State.withdraw_frame]

@[simp] theorem State.withdraw_pending (p : Port) :
    (s.withdraw p).pending = s.pending := by
  rw [State.withdraw_frame]

@[simp] theorem State.withdraw_freeCount (p : Port) :
    (s.withdraw p).freeCount = s.freeCount := by
  rw [State.withdraw_frame]

/-- A revocation reaches the authority unit, the forces of lines and notice queues alone (R113 to R115). -/
theorem State.revoke_frame (former : Port) (reason : AuthReason) :
    s.revoke former reason =
      { s with
        authority := (s.revoke former reason).authority
        lines := (s.revoke former reason).lines
        notices := (s.revoke former reason).notices } := by
  have hv : ∃ v1 v2 v3, s.revoke former reason = { s with authority := v1, lines := v2, notices := v3 } := by
    exact ⟨_, _, _, by unfold State.revoke; rw [State.fillVacancy_frame, State.post_frame]⟩
  obtain ⟨v1, v2, v3, hv⟩ := hv
  rw [hv]

@[simp] theorem State.revoke_timebase (former : Port) (reason : AuthReason) :
    (s.revoke former reason).timebase = s.timebase := by
  rw [State.revoke_frame]

@[simp] theorem State.revoke_schedule (former : Port) (reason : AuthReason) :
    (s.revoke former reason).schedule = s.schedule := by
  rw [State.revoke_frame]

@[simp] theorem State.revoke_capture (former : Port) (reason : AuthReason) :
    (s.revoke former reason).capture = s.capture := by
  rw [State.revoke_frame]

@[simp] theorem State.revoke_ports (former : Port) (reason : AuthReason) :
    (s.revoke former reason).ports = s.ports := by
  rw [State.revoke_frame]

@[simp] theorem State.revoke_trails (former : Port) (reason : AuthReason) :
    (s.revoke former reason).trails = s.trails := by
  rw [State.revoke_frame]

@[simp] theorem State.revoke_resetCause (former : Port) (reason : AuthReason) :
    (s.revoke former reason).resetCause = s.resetCause := by
  rw [State.revoke_frame]

@[simp] theorem State.revoke_inFullReset (former : Port) (reason : AuthReason) :
    (s.revoke former reason).inFullReset = s.inFullReset := by
  rw [State.revoke_frame]

@[simp] theorem State.revoke_pending (former : Port) (reason : AuthReason) :
    (s.revoke former reason).pending = s.pending := by
  rw [State.revoke_frame]

@[simp] theorem State.revoke_freeCount (former : Port) (reason : AuthReason) :
    (s.revoke former reason).freeCount = s.freeCount := by
  rw [State.revoke_frame]

/-- The counts of a reference millisecond reach the authority unit, the forces of lines and notice queues alone (R112). -/
theorem State.countMillisecond_frame :
    s.countMillisecond =
      { s with
        authority := (s.countMillisecond).authority
        lines := (s.countMillisecond).lines
        notices := (s.countMillisecond).notices } := by
  have hv : ∃ v1 v2 v3, s.countMillisecond = { s with authority := v1, lines := v2, notices := v3 } := by
    unfold State.countMillisecond
    repeat' split
    all_goals first
      | exact ⟨s.authority, s.lines, s.notices, rfl⟩
      | exact ⟨_, _, _, State.revoke_frame s _ _⟩
      | exact ⟨_, s.lines, s.notices, rfl⟩
  obtain ⟨v1, v2, v3, hv⟩ := hv
  rw [hv]

@[simp] theorem State.countMillisecond_timebase :
    (s.countMillisecond).timebase = s.timebase := by
  rw [State.countMillisecond_frame]

@[simp] theorem State.countMillisecond_schedule :
    (s.countMillisecond).schedule = s.schedule := by
  rw [State.countMillisecond_frame]

@[simp] theorem State.countMillisecond_capture :
    (s.countMillisecond).capture = s.capture := by
  rw [State.countMillisecond_frame]

@[simp] theorem State.countMillisecond_ports :
    (s.countMillisecond).ports = s.ports := by
  rw [State.countMillisecond_frame]

@[simp] theorem State.countMillisecond_trails :
    (s.countMillisecond).trails = s.trails := by
  rw [State.countMillisecond_frame]

@[simp] theorem State.countMillisecond_resetCause :
    (s.countMillisecond).resetCause = s.resetCause := by
  rw [State.countMillisecond_frame]

@[simp] theorem State.countMillisecond_inFullReset :
    (s.countMillisecond).inFullReset = s.inFullReset := by
  rw [State.countMillisecond_frame]

@[simp] theorem State.countMillisecond_pending :
    (s.countMillisecond).pending = s.pending := by
  rw [State.countMillisecond_frame]

@[simp] theorem State.countMillisecond_freeCount :
    (s.countMillisecond).freeCount = s.freeCount := by
  rw [State.countMillisecond_frame]

/-- A reference millisecond reaches the divider, the authority unit, the forces of lines and notice queues alone (R112). -/
theorem State.millisecond_frame :
    s.millisecond =
      { s with
        timebase := (s.millisecond).timebase
        authority := (s.millisecond).authority
        lines := (s.millisecond).lines
        notices := (s.millisecond).notices } := by
  have hv : ∃ v1 v2 v3 v4, s.millisecond = { s with timebase := v1, authority := v2, lines := v3, notices := v4 } := by
    exact ⟨_, _, _, _, State.countMillisecond_frame _⟩
  obtain ⟨v1, v2, v3, v4, hv⟩ := hv
  rw [hv]

@[simp] theorem State.millisecond_schedule :
    (s.millisecond).schedule = s.schedule := by
  rw [State.millisecond_frame]

@[simp] theorem State.millisecond_capture :
    (s.millisecond).capture = s.capture := by
  rw [State.millisecond_frame]

@[simp] theorem State.millisecond_ports :
    (s.millisecond).ports = s.ports := by
  rw [State.millisecond_frame]

@[simp] theorem State.millisecond_trails :
    (s.millisecond).trails = s.trails := by
  rw [State.millisecond_frame]

@[simp] theorem State.millisecond_resetCause :
    (s.millisecond).resetCause = s.resetCause := by
  rw [State.millisecond_frame]

@[simp] theorem State.millisecond_inFullReset :
    (s.millisecond).inFullReset = s.inFullReset := by
  rw [State.millisecond_frame]

@[simp] theorem State.millisecond_pending :
    (s.millisecond).pending = s.pending := by
  rw [State.millisecond_frame]

@[simp] theorem State.millisecond_freeCount :
    (s.millisecond).freeCount = s.freeCount := by
  rw [State.millisecond_frame]

/-- The authority unit's part of a detach reaches the unit, the forces of lines and notice queues alone (R125). -/
theorem State.detachAuthority_frame (p : Port) :
    s.detachAuthority p =
      { s with
        authority := (s.detachAuthority p).authority
        lines := (s.detachAuthority p).lines
        notices := (s.detachAuthority p).notices } := by
  have hv : ∃ v1 v2 v3, s.detachAuthority p = { s with authority := v1, lines := v2, notices := v3 } := by
    unfold State.detachAuthority
    repeat' split
    all_goals first
      | exact ⟨s.authority, s.lines, s.notices, rfl⟩
      | exact ⟨_, _, _, State.fillVacancy_frame s _ _⟩
      | exact ⟨_, s.lines, _, State.withdraw_frame s _⟩
  obtain ⟨v1, v2, v3, hv⟩ := hv
  rw [hv]

@[simp] theorem State.detachAuthority_timebase (p : Port) :
    (s.detachAuthority p).timebase = s.timebase := by
  rw [State.detachAuthority_frame]

@[simp] theorem State.detachAuthority_schedule (p : Port) :
    (s.detachAuthority p).schedule = s.schedule := by
  rw [State.detachAuthority_frame]

@[simp] theorem State.detachAuthority_capture (p : Port) :
    (s.detachAuthority p).capture = s.capture := by
  rw [State.detachAuthority_frame]

@[simp] theorem State.detachAuthority_ports (p : Port) :
    (s.detachAuthority p).ports = s.ports := by
  rw [State.detachAuthority_frame]

@[simp] theorem State.detachAuthority_trails (p : Port) :
    (s.detachAuthority p).trails = s.trails := by
  rw [State.detachAuthority_frame]

@[simp] theorem State.detachAuthority_resetCause (p : Port) :
    (s.detachAuthority p).resetCause = s.resetCause := by
  rw [State.detachAuthority_frame]

@[simp] theorem State.detachAuthority_inFullReset (p : Port) :
    (s.detachAuthority p).inFullReset = s.inFullReset := by
  rw [State.detachAuthority_frame]

@[simp] theorem State.detachAuthority_pending (p : Port) :
    (s.detachAuthority p).pending = s.pending := by
  rw [State.detachAuthority_frame]

@[simp] theorem State.detachAuthority_freeCount (p : Port) :
    (s.detachAuthority p).freeCount = s.freeCount := by
  rw [State.detachAuthority_frame]

end Sys2Proof.Machine
end

