-- ==== Sys2Proof/Laws/Requests.lean ====
section
/-! SUPPORT. What taking a request and answering it do: to the port interface of one port, and to nothing else; and notices told from one state to another. -/

namespace Sys2Proof.Machine

variable (s : State)

/-! ### Answers (R168, R174) -/

/-- An answer changes the slot of a port interface alone. -/
theorem PortIf.takeAnswer_frame (i : PortIf) (ticket : BitVec 16) (st : Status) (pl : List Byte)
    (fr : Option EntryName) :
    i.takeAnswer ticket st pl fr = { i with slot := (i.takeAnswer ticket st pl fr).slot } := by
  unfold PortIf.takeAnswer
  split
  · split <;> rfl
  · rfl
  · rfl

@[simp] theorem PortIf.takeAnswer_session (i : PortIf) (ticket : BitVec 16) (st : Status)
    (pl : List Byte) (fr : Option EntryName) :
    (i.takeAnswer ticket st pl fr).session = i.session := by
  rw [PortIf.takeAnswer_frame]

/-- An answer reaches the request that bears its ticket (R168). -/
theorem PortIf.takeAnswer_working (i : PortIf) (h : Held) (st : Status) (pl : List Byte)
    (fr : Option EntryName) (hs : i.slot = .working h) :
    i.takeAnswer h.ticket st pl fr = { i with slot := .answered h (responseOf h st pl fr) } := by
  unfold PortIf.takeAnswer
  rw [hs]
  exact if_pos rfl

/-- An answer whose ticket no WORKING request bears is discarded (R168). -/
theorem PortIf.takeAnswer_discarded (i : PortIf) (ticket : BitVec 16) (st : Status)
    (pl : List Byte) (fr : Option EntryName)
    (hs : ∀ h, i.slot = .working h → h.ticket ≠ ticket) :
    i.takeAnswer ticket st pl fr = i := by
  unfold PortIf.takeAnswer
  split
  · next h e => rw [if_neg (hs h e)]
  · rfl
  · rfl

/-- An answer reaches the port interfaces alone (R168). -/
theorem State.answer_frame (p : Port) (k : BitVec 16) (st : Status) (pl : List Byte)
    (fr : Option EntryName) :
    s.answer p k st pl fr =
      { s with
        ports := (s.answer p k st pl fr).ports } := by
  have hv : ∃ v1, s.answer p k st pl fr = { s with ports := v1 } := by
    exact ⟨_, rfl⟩
  obtain ⟨v1, hv⟩ := hv
  rw [hv]

@[simp] theorem State.answer_timebase
    (p : Port) (k : BitVec 16) (st : Status) (pl : List Byte)
    (fr : Option EntryName) :
    (s.answer p k st pl fr).timebase = s.timebase := by
  rw [State.answer_frame]

@[simp] theorem State.answer_schedule
    (p : Port) (k : BitVec 16) (st : Status) (pl : List Byte)
    (fr : Option EntryName) :
    (s.answer p k st pl fr).schedule = s.schedule := by
  rw [State.answer_frame]

@[simp] theorem State.answer_lines
    (p : Port) (k : BitVec 16) (st : Status) (pl : List Byte)
    (fr : Option EntryName) :
    (s.answer p k st pl fr).lines = s.lines := by
  rw [State.answer_frame]

@[simp] theorem State.answer_authority
    (p : Port) (k : BitVec 16) (st : Status) (pl : List Byte)
    (fr : Option EntryName) :
    (s.answer p k st pl fr).authority = s.authority := by
  rw [State.answer_frame]

@[simp] theorem State.answer_capture
    (p : Port) (k : BitVec 16) (st : Status) (pl : List Byte)
    (fr : Option EntryName) :
    (s.answer p k st pl fr).capture = s.capture := by
  rw [State.answer_frame]

@[simp] theorem State.answer_notices
    (p : Port) (k : BitVec 16) (st : Status) (pl : List Byte)
    (fr : Option EntryName) :
    (s.answer p k st pl fr).notices = s.notices := by
  rw [State.answer_frame]

@[simp] theorem State.answer_trails
    (p : Port) (k : BitVec 16) (st : Status) (pl : List Byte)
    (fr : Option EntryName) :
    (s.answer p k st pl fr).trails = s.trails := by
  rw [State.answer_frame]

@[simp] theorem State.answer_resetCause
    (p : Port) (k : BitVec 16) (st : Status) (pl : List Byte)
    (fr : Option EntryName) :
    (s.answer p k st pl fr).resetCause = s.resetCause := by
  rw [State.answer_frame]

@[simp] theorem State.answer_inFullReset
    (p : Port) (k : BitVec 16) (st : Status) (pl : List Byte)
    (fr : Option EntryName) :
    (s.answer p k st pl fr).inFullReset = s.inFullReset := by
  rw [State.answer_frame]

@[simp] theorem State.answer_pending
    (p : Port) (k : BitVec 16) (st : Status) (pl : List Byte)
    (fr : Option EntryName) :
    (s.answer p k st pl fr).pending = s.pending := by
  rw [State.answer_frame]

@[simp] theorem State.answer_freeCount
    (p : Port) (k : BitVec 16) (st : Status) (pl : List Byte)
    (fr : Option EntryName) :
    (s.answer p k st pl fr).freeCount = s.freeCount := by
  rw [State.answer_frame]

/-- A refusal reaches the port interfaces alone (R174). -/
theorem State.refuse_frame (p : Port) (k : BitVec 16) (st : Status) :
    s.refuse p k st =
      { s with
        ports := (s.refuse p k st).ports } := by
  have hv : ∃ v1, s.refuse p k st = { s with ports := v1 } := by
    exact ⟨_, rfl⟩
  obtain ⟨v1, hv⟩ := hv
  rw [hv]

@[simp] theorem State.refuse_timebase (p : Port) (k : BitVec 16) (st : Status) :
    (s.refuse p k st).timebase = s.timebase := by
  rw [State.refuse_frame]

@[simp] theorem State.refuse_schedule (p : Port) (k : BitVec 16) (st : Status) :
    (s.refuse p k st).schedule = s.schedule := by
  rw [State.refuse_frame]

@[simp] theorem State.refuse_lines (p : Port) (k : BitVec 16) (st : Status) :
    (s.refuse p k st).lines = s.lines := by
  rw [State.refuse_frame]

@[simp] theorem State.refuse_authority (p : Port) (k : BitVec 16) (st : Status) :
    (s.refuse p k st).authority = s.authority := by
  rw [State.refuse_frame]

@[simp] theorem State.refuse_capture (p : Port) (k : BitVec 16) (st : Status) :
    (s.refuse p k st).capture = s.capture := by
  rw [State.refuse_frame]

@[simp] theorem State.refuse_notices (p : Port) (k : BitVec 16) (st : Status) :
    (s.refuse p k st).notices = s.notices := by
  rw [State.refuse_frame]

@[simp] theorem State.refuse_trails (p : Port) (k : BitVec 16) (st : Status) :
    (s.refuse p k st).trails = s.trails := by
  rw [State.refuse_frame]

@[simp] theorem State.refuse_resetCause (p : Port) (k : BitVec 16) (st : Status) :
    (s.refuse p k st).resetCause = s.resetCause := by
  rw [State.refuse_frame]

@[simp] theorem State.refuse_inFullReset (p : Port) (k : BitVec 16) (st : Status) :
    (s.refuse p k st).inFullReset = s.inFullReset := by
  rw [State.refuse_frame]

@[simp] theorem State.refuse_pending (p : Port) (k : BitVec 16) (st : Status) :
    (s.refuse p k st).pending = s.pending := by
  rw [State.refuse_frame]

@[simp] theorem State.refuse_freeCount (p : Port) (k : BitVec 16) (st : Status) :
    (s.refuse p k st).freeCount = s.freeCount := by
  rw [State.refuse_frame]

@[simp] theorem State.attached_answer (p q : Port) (k : BitVec 16) (st : Status) (pl : List Byte)
    (fr : Option EntryName) : (s.answer p k st pl fr).attached q = s.attached q :=
  State.attached_mapPort s p q _ (PortIf.takeAnswer_session _ _ _ _ _)

@[simp] theorem State.attached_refuse (p q : Port) (k : BitVec 16) (st : Status) :
    (s.refuse p k st).attached q = s.attached q := s.attached_answer p q k st [] none

/-- The port interface of every port after an answer (R168). -/
theorem State.answer_port (p q : Port) (k : BitVec 16) (st : Status) (pl : List Byte)
    (fr : Option EntryName) :
    (s.answer p k st pl fr).ports.get q =
      if p = q then (s.ports.get q).takeAnswer k st pl fr else s.ports.get q := by
  unfold State.answer
  rw [State.mapPort_ports, Table.get_upd]
  split
  · next h => rw [h]
  · rfl

/-! ### A request is taken (R164, R167, R172) -/

/-- Every payload length that some kind takes fits a good REQUEST. -/
theorem Kind.takesLength_le (k : Kind) (n : Nat) (h : k.takesLength n = true) : n ≤ 42 := by
  cases k <;> simp only [Kind.takesLength, beq_iff_eq, Bool.or_eq_true] at h <;> omega

/-- A taken request reaches the port interfaces and the record of status bytes alone (R167). -/
theorem State.takeRequest_frame (p : Port) (lags : List Nat) (tag kind : Byte) (pl : List Byte) :
    s.takeRequest p lags tag kind pl =
      { s with
        ports := (s.takeRequest p lags tag kind pl).ports
        trails := (s.takeRequest p lags tag kind pl).trails } := by
  have hv : ∃ v1 v2, s.takeRequest p lags tag kind pl = { s with ports := v1, trails := v2 } := by
    exact ⟨_, _, rfl⟩
  obtain ⟨v1, v2, hv⟩ := hv
  rw [hv]

@[simp] theorem State.takeRequest_timebase
    (p : Port) (lags : List Nat) (tag kind : Byte) (pl : List Byte) :
    (s.takeRequest p lags tag kind pl).timebase = s.timebase := by
  rw [State.takeRequest_frame]

@[simp] theorem State.takeRequest_schedule
    (p : Port) (lags : List Nat) (tag kind : Byte) (pl : List Byte) :
    (s.takeRequest p lags tag kind pl).schedule = s.schedule := by
  rw [State.takeRequest_frame]

@[simp] theorem State.takeRequest_lines
    (p : Port) (lags : List Nat) (tag kind : Byte) (pl : List Byte) :
    (s.takeRequest p lags tag kind pl).lines = s.lines := by
  rw [State.takeRequest_frame]

@[simp] theorem State.takeRequest_authority
    (p : Port) (lags : List Nat) (tag kind : Byte) (pl : List Byte) :
    (s.takeRequest p lags tag kind pl).authority = s.authority := by
  rw [State.takeRequest_frame]

@[simp] theorem State.takeRequest_capture
    (p : Port) (lags : List Nat) (tag kind : Byte) (pl : List Byte) :
    (s.takeRequest p lags tag kind pl).capture = s.capture := by
  rw [State.takeRequest_frame]

@[simp] theorem State.takeRequest_notices
    (p : Port) (lags : List Nat) (tag kind : Byte) (pl : List Byte) :
    (s.takeRequest p lags tag kind pl).notices = s.notices := by
  rw [State.takeRequest_frame]

@[simp] theorem State.takeRequest_resetCause
    (p : Port) (lags : List Nat) (tag kind : Byte) (pl : List Byte) :
    (s.takeRequest p lags tag kind pl).resetCause = s.resetCause := by
  rw [State.takeRequest_frame]

@[simp] theorem State.takeRequest_inFullReset
    (p : Port) (lags : List Nat) (tag kind : Byte) (pl : List Byte) :
    (s.takeRequest p lags tag kind pl).inFullReset = s.inFullReset := by
  rw [State.takeRequest_frame]

@[simp] theorem State.takeRequest_pending
    (p : Port) (lags : List Nat) (tag kind : Byte) (pl : List Byte) :
    (s.takeRequest p lags tag kind pl).pending = s.pending := by
  rw [State.takeRequest_frame]

@[simp] theorem State.takeRequest_freeCount
    (p : Port) (lags : List Nat) (tag kind : Byte) (pl : List Byte) :
    (s.takeRequest p lags tag kind pl).freeCount = s.freeCount := by
  rw [State.takeRequest_frame]

@[simp] theorem State.attached_takeRequest (p q : Port) (lags : List Nat) (tag kind : Byte)
    (pl : List Byte) : (s.takeRequest p lags tag kind pl).attached q = s.attached q := State.attached_mapPort s p q _ rfl

@[simp] theorem State.holder_takeRequest (p : Port) (lags : List Nat) (tag kind : Byte)
    (pl : List Byte) : (s.takeRequest p lags tag kind pl).holder = s.holder := rfl

/-- A taken request: the ports (R167). -/
theorem State.takeRequest_asked (p : Port) (lags : List Nat) (tag kind : Byte) (pl : List Byte) :
    (s.takeRequest p lags tag kind pl).ports =
      s.ports.set p (askedPort s p lags tag kind pl.length) := rfl

/-- The answer to the request that a port has just sent, whatever its block did to the rest of the part
(R168, R174). -/
theorem State.answer_asked (t : State) (p : Port) (lags : List Nat) (tag kind : Byte) (n : Nat)
    (st : Status) (pl : List Byte) (ht : t.ports = s.ports.set p (askedPort s p lags tag kind n))
    (hp : st.carriesPayload = true ∨ pl = []) (fr : Option EntryName) :
    t.answer p (s.ports.get p).nextTicket st pl fr =
      { t with ports := answeredPorts s p lags tag kind n st pl fr } := by
  have hr : responseOf { tag := tag, kind := kind, ticket := (s.ports.get p).nextTicket } st pl fr =
      { tag := tag, kind := kind, status := st, payload := pl, freed := fr } := by
    unfold responseOf
    rcases hp with h | h
    · rw [if_pos h]
    · rw [h, ite_self]
  unfold State.answer State.mapPort
  rw [ht, Table.upd, Table.get_set_self, Table.set_set,
    PortIf.takeAnswer_working (askedPort s p lags tag kind n) _ st pl fr rfl, hr]
  rfl

/-- The answer at once to a request that has changed nothing else (R168). -/
theorem State.answer_takeRequest (p : Port) (lags : List Nat) (tag kind : Byte)
    (pl out : List Byte) (st : Status) (hp : st.carriesPayload = true ∨ out = []) :
    (s.takeRequest p lags tag kind pl).answer p (s.ports.get p).nextTicket st out =
      answeredState s p lags tag kind pl.length st out :=
  State.answer_asked s _ p lags tag kind pl.length st out rfl hp none

/-- The refusal of a request (R174). -/
theorem State.refuse_takeRequest (p : Port) (lags : List Nat) (tag kind : Byte) (pl : List Byte)
    (st : Status) :
    (s.takeRequest p lags tag kind pl).refuse p (s.ports.get p).nextTicket st =
      answeredState s p lags tag kind pl.length st [] :=
  State.answer_takeRequest s p lags tag kind pl [] st (Or.inr rfl)

/-- A ready port hands a good REQUEST on with its ticket (R167). -/
theorem State.receive_ready (p : Port) (lags : List Nat) (tag kind : Byte) (pl : List Byte)
    (handle : BitVec 16 → State → State) (h : Ready s p) (hl : pl.length ≤ 96) :
    s.receive p lags tag kind pl handle =
      handle (s.ports.get p).nextTicket (s.takeRequest p lags tag kind pl) := by
  obtain ⟨h1, h2, h3⟩ := h
  have hb : s.blocked p = false := by simp only [State.blocked, h1, h2, Bool.or_self]
  have hn : ¬ maxPayload < pl.length := Nat.not_lt.mpr hl
  unfold State.receive
  rw [hb, if_neg Bool.false_ne_true, if_neg hn]
  split
  · next x e => rw [e] at h3; cases h3
  · rfl
  · rfl

/-- A request that passes the port's checks reaches its block (R172). -/
theorem State.request_block (k : Kind) (p : Port) (lags : List Nat) (tag : Byte)
    (pl : List Byte) (block : BitVec 16 → State → State) (h : Ready s p) (hl : k.takesLength pl.length = true)
    (ha : s.attached p = true ∨ k.takenDetached = true) :
    s.request k p lags tag pl block =
      block (s.ports.get p).nextTicket (s.takeRequest p lags tag k.code pl) := by
  have hle := k.takesLength_le _ hl
  have ha' : ((s.takeRequest p lags tag k.code pl).attached p || k.takenDetached) = true := by
    rw [State.attached_takeRequest, Bool.or_eq_true]
    exact ha
  unfold State.request
  rw [State.receive_ready s p lags tag k.code pl _ h (by omega)]
  unfold State.portChecks
  rw [hl, ha']
  rfl

/-- A request of the wrong length is answered BAD_LENGTH (R172 check 2). -/
theorem State.request_badLength (k : Kind) (p : Port) (lags : List Nat) (tag : Byte)
    (pl : List Byte) (block : BitVec 16 → State → State) (h : Ready s p) (hl : k.takesLength pl.length = false)
    (hm : pl.length ≤ 96) :
    s.request k p lags tag pl block = answeredState s p lags tag k.code pl.length .badLength [] := by
  unfold State.request
  rw [State.receive_ready s p lags tag k.code pl _ h hm, ← State.refuse_takeRequest]
  unfold State.portChecks
  rw [hl]
  rfl

/-- A request of a detached port is answered NOT_ATTACHED unless its kind is excepted (R172 check 3). -/
theorem State.request_notAttached (k : Kind) (p : Port) (lags : List Nat) (tag : Byte)
    (pl : List Byte) (block : BitVec 16 → State → State) (h : Ready s p) (hl : k.takesLength pl.length = true)
    (ha : s.attached p = false) (hk : k.takenDetached = false) :
    s.request k p lags tag pl block = answeredState s p lags tag k.code pl.length .notAttached [] := by
  have hle := k.takesLength_le _ hl
  have ha' : ((s.takeRequest p lags tag k.code pl).attached p || k.takenDetached) = false := by
    rw [State.attached_takeRequest, ha, hk]
    rfl
  unfold State.request
  rw [State.receive_ready s p lags tag k.code pl _ h (by omega), ← State.refuse_takeRequest]
  unfold State.portChecks
  rw [hl, ha']
  rfl

/-- The authority check passes for the holder (R104). -/
theorem State.privileged_holder (p : Port) (k : BitVec 16) (block : State → State)
    (h : s.holder = some p) : s.privileged p k block = block s := if_pos h

/-- The authority check refuses any other port (R104). -/
theorem State.privileged_other (p : Port) (k : BitVec 16) (block : State → State)
    (h : s.holder ≠ some p) : s.privileged p k block = s.refuse p k .notAuthority := if_neg h

/-- An event is taken outside a full reset (R188). -/
theorem State.event_taken (f : State → State) (h : s.inFullReset = false) :
    s.event f = f s.noted := by
  unfold State.event
  rw [h]
  rfl

/-- No event is taken in a full reset (R188). -/
theorem State.event_inReset (f : State → State) (h : s.inFullReset = true) : s.event f = s :=
  if_pos h

/-! ### What a REQUEST can do, whatever its block does -/

/-- A property that the port interface's own changes keep is kept by a frame. -/
theorem State.frame_keeps (P : State → Prop) (p : Port) (bytes : List Byte) (f : PortIf → PortIf)
    (hf : ∀ i, (f i).session = i.session) (hs : P s)
    (hport : ∀ (t : State) f, (∀ i, (f i).session = i.session) → P t → P (t.mapPort p f))
    (htrail : ∀ (t : State) x, P t → P { t with trails := x }) : P (s.frame p bytes f) :=
  hport _ _ (fun i => hf i) (htrail _ _ hs)

/-- A property that the port interface's own changes keep, and the block keeps, is kept by a request. The
port interface never changes a session. -/
theorem State.request_keeps (P : State → Prop) (k : Kind) (p : Port) (lags : List Nat) (tag : Byte)
    (pl : List Byte) (block : BitVec 16 → State → State) (hs : P s)
    (hport : ∀ (t : State) f, (∀ i, (f i).session = i.session) → P t → P (t.mapPort p f))
    (htrail : ∀ (t : State) x, P t → P { t with trails := x })
    (hblock : ∀ ticket t, P t → P (block ticket t)) :
    P (s.request k p lags tag pl block) := by
  have hframe := fun bytes f hf => s.frame_keeps P p bytes f hf hs hport htrail
  unfold State.request State.receive
  split
  · exact hframe _ id fun _ => rfl
  · split
    · exact hframe _ _ fun _ => rfl
    · split
      · exact hframe _ _ fun _ => rfl
      all_goals
        unfold State.portChecks
        split
        · exact hport _ _ (fun i => i.takeAnswer_session _ _ _ _) (hframe _ _ fun _ => rfl)
        · split
          · exact hport _ _ (fun i => i.takeAnswer_session _ _ _ _) (hframe _ _ fun _ => rfl)
          · exact hblock _ _ (hframe _ _ fun _ => rfl)

/-! ### Notices told from one state to another (R145, R146) -/

/-- Where the queues stay, nothing was told. -/
theorem Told.none {s t : State} (h : t.notices = s.notices) : Told s t fun _ => [] := fun q => by
  rw [h, List.foldl_nil, ite_self]

/-- What was told stands while the queues, Now and the epoch stay. -/
theorem Told.same {s t u : State} {news : Port → List NoticeBody} (h : Told s t news)
    (hn : u.notices = t.notices) (hw : u.timebase.now = t.timebase.now)
    (he : u.timebase.epoch = t.timebase.epoch) : Told s u news := fun q => by
  rw [hn, hw, he]
  exact h q

/-- The same news told in other words. -/
theorem Told.congr {s t : State} {news more : Port → List NoticeBody} (h : Told s t news)
    (e : ∀ q, s.attached q = true → news q = more q) : Told s t more := fun q => by
  rw [h q]
  by_cases ha : s.attached q = true
  · rw [if_pos ha, if_pos ha, e q ha]
  · rw [if_neg ha, if_neg ha]

/-- A post to the ports that a test selects adds one notice to what they were told. -/
theorem Told.postWhere {s t : State} {news : Port → List NoticeBody} (h : Told s t news)
    (test : Port → Bool) (b : NoticeBody) (ha : ∀ q, t.attached q = s.attached q) :
    Told s (t.postWhere test b) fun q => if test q = true then news q ++ [b] else news q :=
  fun q => by
    rw [State.postWhere_queue, State.postWhere_timebase, ha q, h q]
    by_cases hq : s.attached q = true <;> by_cases ht : test q = true <;>
      simp only [hq, ht, and_self, and_true, if_true, if_false, and_false,
        List.foldl_append, List.foldl_cons, List.foldl_nil, Bool.false_eq_true]

/-- A post adds one notice to what its port was told. -/
theorem Told.post {s t : State} {news : Port → List NoticeBody} (h : Told s t news) (p : Port)
    (b : NoticeBody) (ha : ∀ q, t.attached q = s.attached q) :
    Told s (t.post p b) fun q => if p = q then news q ++ [b] else news q := fun q => by
  rw [State.post_queue, State.post_timebase, ha p, h q]
  by_cases hq : p = q
  · subst hq
    by_cases ht : s.attached p = true <;>
      simp only [ht, and_self, if_true, if_false, and_false,
        List.foldl_append, List.foldl_cons, List.foldl_nil, Bool.false_eq_true]
  · simp only [hq, false_and, if_false]

end Sys2Proof.Machine
end

