-- ==== Sys2Proof/Laws/Schedule.lean ====
section
/-! SUPPORT. What the schedule's procedures do: lists ordered by due, slots, freeing an entry, the sweep, the step, the hand-over, and what each reaches outside the schedule. -/

namespace Sys2Proof.Machine

variable (s : State) (c : Schedule)

/-! ### Lists in order of a key (R30, R69) -/

/-- A placed slot stands after every slot of a key not greater than its own that comes before the first
greater one (R30). -/
theorem placeByKey_eq (key : SlotIx → Nat) (i : SlotIx) (js : List SlotIx) :
    placeByKey key i js =
      js.takeWhile (fun j => decide (key j ≤ key i))
        ++ i :: js.dropWhile fun j => decide (key j ≤ key i) := by
  induction js with
  | nil => rfl
  | cons j js ih =>
    unfold placeByKey
    by_cases h : key i < key j
    · have hd : decide (key j ≤ key i) = false := decide_eq_false (Nat.not_le.mpr h)
      rw [if_pos h, List.takeWhile_cons, List.dropWhile_cons, hd]
      rfl
    · have hd : decide (key j ≤ key i) = true := decide_eq_true (Nat.not_lt.mp h)
      rw [if_neg h, List.takeWhile_cons, List.dropWhile_cons, hd, ih]
      rfl

theorem placeByKey_perm (key : SlotIx → Nat) (i : SlotIx) (js : List SlotIx) :
    (placeByKey key i js).Perm (i :: js) := by
  induction js with
  | nil => exact List.Perm.refl _
  | cons j js ih =>
    unfold placeByKey
    split
    · exact List.Perm.refl _
    · exact (List.Perm.cons j ih).trans (List.Perm.swap i j js)

theorem mem_placeByKey (key : SlotIx → Nat) (i j : SlotIx) (js : List SlotIx) :
    j ∈ placeByKey key i js ↔ j = i ∨ j ∈ js := by
  rw [(placeByKey_perm key i js).mem_iff, List.mem_cons]

/-- Placing a slot keeps the list in order of the key (R30). -/
theorem placeByKey_ordered (key : SlotIx → Nat) (i : SlotIx) (js : List SlotIx)
    (h : js.Pairwise fun a b => key a ≤ key b) :
    (placeByKey key i js).Pairwise fun a b => key a ≤ key b := by
  induction js with
  | nil => exact List.pairwise_singleton _ _
  | cons j js ih =>
    obtain ⟨hj, hs⟩ := List.pairwise_cons.mp h
    unfold placeByKey
    split
    · next hlt =>
      refine List.pairwise_cons.mpr ⟨fun x hx => ?_, h⟩
      rcases List.mem_cons.mp hx with rfl | hx
      · exact Nat.le_of_lt hlt
      · exact Nat.le_trans (Nat.le_of_lt hlt) (hj x hx)
    · next hge =>
      refine List.pairwise_cons.mpr ⟨fun x hx => ?_, ih hs⟩
      rcases (mem_placeByKey key i x js).mp hx with rfl | hx
      · exact Nat.not_lt.mp hge
      · exact hj x hx

/-- Placing a slot depends on the key of the slots it meets alone. -/
theorem placeByKey_congr (k1 k2 : SlotIx → Nat) (i : SlotIx) (js : List SlotIx)
    (hi : k1 i = k2 i) (h : ∀ j ∈ js, k1 j = k2 j) : placeByKey k1 i js = placeByKey k2 i js := by
  induction js with
  | nil => rfl
  | cons j js ih =>
    unfold placeByKey
    rw [hi, h j List.mem_cons_self, ih fun x hx => h x (List.mem_cons_of_mem j hx)]

/-- Placing a slot keeps the order among the slots of every one key, with the new one last (R30). -/
theorem placeByKey_stable (key : SlotIx → Nat) (i : SlotIx) (js : List SlotIx) (v : Nat)
    (h : js.Pairwise fun a b => key a ≤ key b) :
    (placeByKey key i js).filter (fun j => decide (key j = v)) =
      (js ++ [i]).filter fun j => decide (key j = v) := by
  induction js with
  | nil => rfl
  | cons j js ih =>
    obtain ⟨hj, hs⟩ := List.pairwise_cons.mp h
    unfold placeByKey
    split
    · next hlt =>
      by_cases hv : key i = v
      · have hnone : ∀ x ∈ j :: js, decide (key x = v) = false := fun x hx => by
          have hx' : key j ≤ key x := by
            rcases List.mem_cons.mp hx with rfl | hx
            · exact Nat.le_refl _
            · exact hj x hx
          exact decide_eq_false (by omega)
        have hf : (j :: js).filter (fun j => decide (key j = v)) = [] :=
          List.filter_eq_nil_iff.mpr fun x hx => by rw [hnone x hx]; exact Bool.false_ne_true
        rw [List.filter_cons, List.filter_append, hf, decide_eq_true hv]
        simp only [if_true, List.filter_cons, decide_eq_true hv, List.filter_nil, List.nil_append]
      · rw [List.filter_cons, List.filter_append, decide_eq_false hv]
        simp only [Bool.false_eq_true, if_false, List.filter_cons, decide_eq_false hv,
          List.filter_nil, List.append_nil]
    · rw [List.cons_append, List.filter_cons, List.filter_cons, ih hs]

theorem rebuildByKey_append (key : SlotIx → Nat) (is : List SlotIx) (i : SlotIx) :
    rebuildByKey key (is ++ [i]) = placeByKey key i (rebuildByKey key is) := by
  unfold rebuildByKey
  rw [List.foldl_append, List.foldl_cons, List.foldl_nil]

theorem rebuildByKey_perm (key : SlotIx → Nat) (is : List SlotIx) :
    (rebuildByKey key is).Perm is := by
  induction is using List.reverseRecOn with
  | nil => exact List.Perm.refl _
  | append_singleton is i ih =>
    rw [rebuildByKey_append]
    exact (placeByKey_perm key i _).trans
      ((List.Perm.cons i ih).trans (List.perm_append_singleton i is).symm)

/-- A rebuilt list stands in order of the key (R69). -/
theorem rebuildByKey_ordered (key : SlotIx → Nat) (is : List SlotIx) :
    (rebuildByKey key is).Pairwise fun a b => key a ≤ key b := by
  induction is using List.reverseRecOn with
  | nil => exact List.Pairwise.nil
  | append_singleton is i ih =>
    rw [rebuildByKey_append]
    exact placeByKey_ordered key i _ ih

/-- A rebuilt list keeps the order among the slots of every one key (R69). -/
theorem rebuildByKey_stable (key : SlotIx → Nat) (is : List SlotIx) (v : Nat) :
    (rebuildByKey key is).filter (fun j => decide (key j = v)) =
      is.filter fun j => decide (key j = v) := by
  induction is using List.reverseRecOn with
  | nil => rfl
  | append_singleton is i ih =>
    rw [rebuildByKey_append, placeByKey_stable key i _ v (rebuildByKey_ordered key is),
      List.filter_append, List.filter_append, ih]

/-! ### Slots and lists -/

@[simp] theorem Schedule.mapEntry_slots (i : SlotIx) (f : Entry → Entry) :
    (c.mapEntry i f).slots = c.slots.upd i fun sl => { sl with entry := sl.entry.map f } := rfl

@[simp] theorem Schedule.mapEntry_dueList (i : SlotIx) (f : Entry → Entry) :
    (c.mapEntry i f).dueList = c.dueList := rfl

@[simp] theorem Schedule.mapEntry_waiting (i : SlotIx) (f : Entry → Entry) :
    (c.mapEntry i f).waiting = c.waiting := rfl

@[simp] theorem Schedule.mapEntry_quota (i : SlotIx) (f : Entry → Entry) :
    (c.mapEntry i f).quota = c.quota := rfl

@[simp] theorem Schedule.mapEntry_usage (i : SlotIx) (f : Entry → Entry) :
    (c.mapEntry i f).usage = c.usage := rfl

@[simp] theorem Schedule.mapEntry_sweep (i : SlotIx) (f : Entry → Entry) :
    (c.mapEntry i f).sweep = c.sweep := rfl

@[simp] theorem Schedule.mapEntry_pass (i : SlotIx) (f : Entry → Entry) :
    (c.mapEntry i f).pass = c.pass := rfl

@[simp] theorem Schedule.leaveDueList_slots (i : SlotIx) :
    (c.leaveDueList i).slots = c.slots := rfl

@[simp] theorem Schedule.leaveDueList_dueList (i : SlotIx) :
    (c.leaveDueList i).dueList = c.dueList.filter (· ≠ i) := rfl

@[simp] theorem Schedule.leaveDueList_waiting (i : SlotIx) :
    (c.leaveDueList i).waiting = c.waiting := rfl

@[simp] theorem Schedule.leaveDueList_quota (i : SlotIx) :
    (c.leaveDueList i).quota = c.quota := rfl

@[simp] theorem Schedule.leaveDueList_usage (i : SlotIx) :
    (c.leaveDueList i).usage = c.usage := rfl

@[simp] theorem Schedule.leaveDueList_sweep (i : SlotIx) :
    (c.leaveDueList i).sweep = c.sweep.map fun m => m.filter (· ≠ i) := rfl

@[simp] theorem Schedule.leaveDueList_pass (i : SlotIx) :
    (c.leaveDueList i).pass = c.pass := rfl

@[simp] theorem Schedule.leaveWaiting_slots (i : SlotIx) :
    (c.leaveWaiting i).slots = c.slots := rfl

@[simp] theorem Schedule.leaveWaiting_dueList (i : SlotIx) :
    (c.leaveWaiting i).dueList = c.dueList := rfl

@[simp] theorem Schedule.leaveWaiting_waiting (i : SlotIx) :
    (c.leaveWaiting i).waiting = c.waiting.map fun w => w.filter (· ≠ i) := rfl

@[simp] theorem Schedule.leaveWaiting_quota (i : SlotIx) :
    (c.leaveWaiting i).quota = c.quota := rfl

@[simp] theorem Schedule.leaveWaiting_usage (i : SlotIx) :
    (c.leaveWaiting i).usage = c.usage := rfl

@[simp] theorem Schedule.leaveWaiting_sweep (i : SlotIx) :
    (c.leaveWaiting i).sweep = c.sweep := rfl

@[simp] theorem Schedule.leaveWaiting_pass (i : SlotIx) :
    (c.leaveWaiting i).pass = c.pass := rfl

@[simp] theorem Schedule.free_slots (i : SlotIx) (p : Port) :
    (c.free i p).slots = c.slots.upd i fun sl => { tag := sl.tag + 1, entry := none } := rfl

@[simp] theorem Schedule.free_dueList (i : SlotIx) (p : Port) :
    (c.free i p).dueList = c.dueList.filter (· ≠ i) := rfl

@[simp] theorem Schedule.free_waiting (i : SlotIx) (p : Port) :
    (c.free i p).waiting = c.waiting.map fun w => w.filter (· ≠ i) := rfl

@[simp] theorem Schedule.free_quota (i : SlotIx) (p : Port) :
    (c.free i p).quota = c.quota := rfl

@[simp] theorem Schedule.free_usage (i : SlotIx) (p : Port) :
    (c.free i p).usage = c.usage.upd p (· - 1) := rfl

@[simp] theorem Schedule.free_sweep (i : SlotIx) (p : Port) :
    (c.free i p).sweep = c.sweep.map fun m => m.filter (· ≠ i) := rfl

@[simp] theorem Schedule.free_pass (i : SlotIx) (p : Port) :
    (c.free i p).pass = c.pass := rfl

@[simp] theorem Schedule.place_slots (i : SlotIx) :
    (c.place i).slots = c.slots := rfl

@[simp] theorem Schedule.place_dueList (i : SlotIx) :
    (c.place i).dueList = match c.pass with
      | some _ => c.dueList ++ [i]
      | none => placeByKey c.dueAt i c.dueList := rfl

@[simp] theorem Schedule.place_waiting (i : SlotIx) :
    (c.place i).waiting = c.waiting := rfl

@[simp] theorem Schedule.place_quota (i : SlotIx) :
    (c.place i).quota = c.quota := rfl

@[simp] theorem Schedule.place_usage (i : SlotIx) :
    (c.place i).usage = c.usage := rfl

@[simp] theorem Schedule.place_sweep (i : SlotIx) :
    (c.place i).sweep = c.sweep := rfl

@[simp] theorem Schedule.place_pass (i : SlotIx) :
    (c.place i).pass = c.pass := rfl

/-- The slots after a change of one entry. -/
theorem Schedule.mapEntry_slot (i j : SlotIx) (f : Entry → Entry) :
    (c.mapEntry i f).slots.get j =
      if i = j then { c.slots.get j with entry := (c.entryAt j).map f } else c.slots.get j := by
  rw [Schedule.mapEntry_slots, Table.get_upd]
  split
  · next h => rw [h]; rfl
  · rfl

/-- The entries after a change of one entry. -/
theorem Schedule.mapEntry_entryAt (i j : SlotIx) (f : Entry → Entry) :
    (c.mapEntry i f).entryAt j = if i = j then (c.entryAt j).map f else c.entryAt j := by
  unfold Schedule.entryAt
  rw [Schedule.mapEntry_slot]
  split <;> rfl

/-- The slots after an entry has been freed (R28 step 5). -/
theorem Schedule.free_slot (i j : SlotIx) (p : Port) :
    (c.free i p).slots.get j =
      if i = j then { tag := (c.slots.get j).tag + 1, entry := none } else c.slots.get j := by
  rw [Schedule.free_slots, Table.get_upd]
  split
  · next h => rw [h]
  · rfl

/-- The entries after an entry has been freed (R28). -/
theorem Schedule.free_entryAt (i j : SlotIx) (p : Port) :
    (c.free i p).entryAt j = if i = j then none else c.entryAt j := by
  unfold Schedule.entryAt
  rw [Schedule.free_slot]
  split <;> rfl

/-- The slot that a new entry takes is FREE and no lower one is (R23). -/
theorem Schedule.freeSlot_some (i : SlotIx) (h : c.freeSlot = some i) :
    c.entryAt i = none ∧ ∀ j : SlotIx, j < i → c.entryAt j ≠ none := by
  unfold Schedule.freeSlot indices at h
  rw [List.find?_eq_some_iff_getElem] at h
  obtain ⟨hi, n, hn, rfl, hlow⟩ := h
  refine ⟨Option.isNone_iff_eq_none.mp hi, fun j hj hnone => ?_⟩
  have hjn : j.val < n := by
    rw [List.getElem_finRange] at hj
    exact hj
  have := hlow j.val hjn
  rw [List.getElem_finRange] at this
  simp only [Fin.cast_mk, Fin.eta, hnone, Option.isNone_none, Bool.not_true,
    Bool.false_eq_true] at this

/-- There is no slot for a new entry exactly when every slot holds one (R23). -/
theorem Schedule.freeSlot_none : c.freeSlot = none ↔ ∀ i : SlotIx, c.entryAt i ≠ none := by
  unfold Schedule.freeSlot indices
  rw [List.find?_eq_none]
  refine ⟨fun h i hi => h i (List.mem_finRange i) (by rw [hi]; rfl), fun h i _ hi => ?_⟩
  exact h i (Option.isNone_iff_eq_none.mp hi)

@[simp] theorem Schedule.mem_slotsWhere (test : Entry → Bool) (i : SlotIx) :
    i ∈ c.slotsWhere test ↔ ∃ e, c.entryAt i = some e ∧ test e = true := by
  unfold Schedule.slotsWhere indices
  rw [List.mem_filter]
  cases h : c.entryAt i with
  | none => simp
  | some e => simp

theorem Schedule.slotsWhere_nodup (test : Entry → Bool) : (c.slotsWhere test).Nodup :=
  (List.nodup_finRange 64).filter _

/-! ### Freeing an entry (R28, R29) -/

/-- An empty slot has nothing to free. -/
theorem State.freeEntry_none (i : SlotIx) (h : s.schedule.entryAt i = none) : s.freeEntry i = s := by
  unfold State.freeEntry
  rw [h]

/-- Freeing an entry (R28). -/
theorem State.freeEntry_some (i : SlotIx) (e : Entry) (h : s.schedule.entryAt i = some e) :
    s.freeEntry i =
      { s with
        schedule := s.schedule.free i e.owner
        lines := dropRefs e.owner e.actions s.lines } := by
  unfold State.freeEntry
  rw [h]

/-- Freeing an entry reaches the schedule and the references of lines alone (R28). -/
theorem State.freeEntry_frame (i : SlotIx) :
    s.freeEntry i =
      { s with
        schedule := (s.freeEntry i).schedule
        lines := (s.freeEntry i).lines } := by
  have hv : ∃ v1 v2, s.freeEntry i = { s with schedule := v1, lines := v2 } := by
    unfold State.freeEntry
    split
    · exact ⟨s.schedule, s.lines, rfl⟩
    · exact ⟨_, _, rfl⟩
  obtain ⟨v1, v2, hv⟩ := hv
  rw [hv]

@[simp] theorem State.freeEntry_timebase (i : SlotIx) :
    (s.freeEntry i).timebase = s.timebase := by
  rw [State.freeEntry_frame]

@[simp] theorem State.freeEntry_authority (i : SlotIx) :
    (s.freeEntry i).authority = s.authority := by
  rw [State.freeEntry_frame]

@[simp] theorem State.freeEntry_capture (i : SlotIx) :
    (s.freeEntry i).capture = s.capture := by
  rw [State.freeEntry_frame]

@[simp] theorem State.freeEntry_notices (i : SlotIx) :
    (s.freeEntry i).notices = s.notices := by
  rw [State.freeEntry_frame]

@[simp] theorem State.freeEntry_ports (i : SlotIx) :
    (s.freeEntry i).ports = s.ports := by
  rw [State.freeEntry_frame]

@[simp] theorem State.freeEntry_trails (i : SlotIx) :
    (s.freeEntry i).trails = s.trails := by
  rw [State.freeEntry_frame]

@[simp] theorem State.freeEntry_resetCause (i : SlotIx) :
    (s.freeEntry i).resetCause = s.resetCause := by
  rw [State.freeEntry_frame]

@[simp] theorem State.freeEntry_inFullReset (i : SlotIx) :
    (s.freeEntry i).inFullReset = s.inFullReset := by
  rw [State.freeEntry_frame]

@[simp] theorem State.freeEntry_pending (i : SlotIx) :
    (s.freeEntry i).pending = s.pending := by
  rw [State.freeEntry_frame]

@[simp] theorem State.freeEntry_freeCount (i : SlotIx) :
    (s.freeEntry i).freeCount = s.freeCount := by
  rw [State.freeEntry_frame]

/-- An ENTRY_CANCELLED reaches the notice queues alone (R29). -/
theorem State.postCancelled_frame (e : Entry) (h : Handle) (reason : CancelReason) :
    s.postCancelled e h reason =
      { s with
        notices := (s.postCancelled e h reason).notices } := by
  have hv : ∃ v1, s.postCancelled e h reason = { s with notices := v1 } := by
    unfold State.postCancelled
    split
    · exact ⟨s.notices, rfl⟩
    · exact ⟨_, State.post_frame s _ _⟩
  obtain ⟨v1, hv⟩ := hv
  rw [hv]

@[simp] theorem State.postCancelled_timebase (e : Entry) (h : Handle) (reason : CancelReason) :
    (s.postCancelled e h reason).timebase = s.timebase := by
  rw [State.postCancelled_frame]

@[simp] theorem State.postCancelled_schedule (e : Entry) (h : Handle) (reason : CancelReason) :
    (s.postCancelled e h reason).schedule = s.schedule := by
  rw [State.postCancelled_frame]

@[simp] theorem State.postCancelled_lines (e : Entry) (h : Handle) (reason : CancelReason) :
    (s.postCancelled e h reason).lines = s.lines := by
  rw [State.postCancelled_frame]

@[simp] theorem State.postCancelled_authority (e : Entry) (h : Handle) (reason : CancelReason) :
    (s.postCancelled e h reason).authority = s.authority := by
  rw [State.postCancelled_frame]

@[simp] theorem State.postCancelled_capture (e : Entry) (h : Handle) (reason : CancelReason) :
    (s.postCancelled e h reason).capture = s.capture := by
  rw [State.postCancelled_frame]

@[simp] theorem State.postCancelled_ports (e : Entry) (h : Handle) (reason : CancelReason) :
    (s.postCancelled e h reason).ports = s.ports := by
  rw [State.postCancelled_frame]

@[simp] theorem State.postCancelled_trails (e : Entry) (h : Handle) (reason : CancelReason) :
    (s.postCancelled e h reason).trails = s.trails := by
  rw [State.postCancelled_frame]

@[simp] theorem State.postCancelled_resetCause (e : Entry) (h : Handle) (reason : CancelReason) :
    (s.postCancelled e h reason).resetCause = s.resetCause := by
  rw [State.postCancelled_frame]

@[simp] theorem State.postCancelled_inFullReset (e : Entry) (h : Handle) (reason : CancelReason) :
    (s.postCancelled e h reason).inFullReset = s.inFullReset := by
  rw [State.postCancelled_frame]

@[simp] theorem State.postCancelled_pending (e : Entry) (h : Handle) (reason : CancelReason) :
    (s.postCancelled e h reason).pending = s.pending := by
  rw [State.postCancelled_frame]

@[simp] theorem State.postCancelled_freeCount (e : Entry) (h : Handle) (reason : CancelReason) :
    (s.postCancelled e h reason).freeCount = s.freeCount := by
  rw [State.postCancelled_frame]

/-- Freeing an entry and telling its owner reaches the schedule, lines and notice queues alone (R28, R29). -/
theorem State.freeAndTell_frame (i : SlotIx) (reason : CancelReason) :
    s.freeAndTell i reason =
      { s with
        schedule := (s.freeAndTell i reason).schedule
        lines := (s.freeAndTell i reason).lines
        notices := (s.freeAndTell i reason).notices } := by
  have hv : ∃ v1 v2 v3, s.freeAndTell i reason = { s with schedule := v1, lines := v2, notices := v3 } := by
    unfold State.freeAndTell
    split
    · exact ⟨s.schedule, s.lines, s.notices, rfl⟩
    · exact ⟨_, _, _, by rw [State.postCancelled_frame, State.freeEntry_frame]⟩
  obtain ⟨v1, v2, v3, hv⟩ := hv
  rw [hv]

@[simp] theorem State.freeAndTell_timebase (i : SlotIx) (reason : CancelReason) :
    (s.freeAndTell i reason).timebase = s.timebase := by
  rw [State.freeAndTell_frame]

@[simp] theorem State.freeAndTell_authority (i : SlotIx) (reason : CancelReason) :
    (s.freeAndTell i reason).authority = s.authority := by
  rw [State.freeAndTell_frame]

@[simp] theorem State.freeAndTell_capture (i : SlotIx) (reason : CancelReason) :
    (s.freeAndTell i reason).capture = s.capture := by
  rw [State.freeAndTell_frame]

@[simp] theorem State.freeAndTell_ports (i : SlotIx) (reason : CancelReason) :
    (s.freeAndTell i reason).ports = s.ports := by
  rw [State.freeAndTell_frame]

@[simp] theorem State.freeAndTell_trails (i : SlotIx) (reason : CancelReason) :
    (s.freeAndTell i reason).trails = s.trails := by
  rw [State.freeAndTell_frame]

@[simp] theorem State.freeAndTell_resetCause (i : SlotIx) (reason : CancelReason) :
    (s.freeAndTell i reason).resetCause = s.resetCause := by
  rw [State.freeAndTell_frame]

@[simp] theorem State.freeAndTell_inFullReset (i : SlotIx) (reason : CancelReason) :
    (s.freeAndTell i reason).inFullReset = s.inFullReset := by
  rw [State.freeAndTell_frame]

@[simp] theorem State.freeAndTell_pending (i : SlotIx) (reason : CancelReason) :
    (s.freeAndTell i reason).pending = s.pending := by
  rw [State.freeAndTell_frame]

@[simp] theorem State.freeAndTell_freeCount (i : SlotIx) (reason : CancelReason) :
    (s.freeAndTell i reason).freeCount = s.freeCount := by
  rw [State.freeAndTell_frame]

/-- What freeing and telling does to the schedule is what freeing does. -/
theorem State.freeAndTell_freed (i : SlotIx) (reason : CancelReason) :
    (s.freeAndTell i reason).schedule = (s.freeEntry i).schedule
      ∧ (s.freeAndTell i reason).lines = (s.freeEntry i).lines := by
  unfold State.freeAndTell
  cases h : s.schedule.entryAt i with
  | none => simp only [State.freeEntry_none s i h, and_self]
  | some e => exact ⟨State.postCancelled_schedule _ _ _ _, State.postCancelled_lines _ _ _ _⟩

/-- Freeing several entries reaches the schedule and the references of lines alone (R28). -/
theorem State.freeAll_frame (is : List SlotIx) :
    s.freeAll is =
      { s with
        schedule := (s.freeAll is).schedule
        lines := (s.freeAll is).lines } := by
  have hv : ∃ v1 v2, s.freeAll is = { s with schedule := v1, lines := v2 } := by
    unfold State.freeAll
    induction is generalizing s with
    | nil => exact ⟨s.schedule, s.lines, rfl⟩
    | cons i is ih =>
      obtain ⟨m, n, hx⟩ := ih (s.freeEntry i)
      exact ⟨m, n, by rw [List.foldl_cons, hx, State.freeEntry_frame]⟩
  obtain ⟨v1, v2, hv⟩ := hv
  rw [hv]

@[simp] theorem State.freeAll_timebase (is : List SlotIx) :
    (s.freeAll is).timebase = s.timebase := by
  rw [State.freeAll_frame]

@[simp] theorem State.freeAll_authority (is : List SlotIx) :
    (s.freeAll is).authority = s.authority := by
  rw [State.freeAll_frame]

@[simp] theorem State.freeAll_capture (is : List SlotIx) :
    (s.freeAll is).capture = s.capture := by
  rw [State.freeAll_frame]

@[simp] theorem State.freeAll_notices (is : List SlotIx) :
    (s.freeAll is).notices = s.notices := by
  rw [State.freeAll_frame]

@[simp] theorem State.freeAll_ports (is : List SlotIx) :
    (s.freeAll is).ports = s.ports := by
  rw [State.freeAll_frame]

@[simp] theorem State.freeAll_trails (is : List SlotIx) :
    (s.freeAll is).trails = s.trails := by
  rw [State.freeAll_frame]

@[simp] theorem State.freeAll_resetCause (is : List SlotIx) :
    (s.freeAll is).resetCause = s.resetCause := by
  rw [State.freeAll_frame]

@[simp] theorem State.freeAll_inFullReset (is : List SlotIx) :
    (s.freeAll is).inFullReset = s.inFullReset := by
  rw [State.freeAll_frame]

@[simp] theorem State.freeAll_pending (is : List SlotIx) :
    (s.freeAll is).pending = s.pending := by
  rw [State.freeAll_frame]

@[simp] theorem State.freeAll_freeCount (is : List SlotIx) :
    (s.freeAll is).freeCount = s.freeCount := by
  rw [State.freeAll_frame]

/-- The slots after the entry of a slot has been freed (R28 step 5). -/
theorem State.freeEntry_slot (i j : SlotIx) :
    (s.freeEntry i).schedule.slots.get j =
      if i = j ∧ (s.schedule.entryAt j).isSome = true then
        { tag := (s.schedule.slots.get j).tag + 1, entry := none }
      else s.schedule.slots.get j := by
  cases h : s.schedule.entryAt i with
  | none =>
    rw [State.freeEntry_none s i h, if_neg]
    rintro ⟨rfl, c⟩
    rw [h] at c
    exact Bool.false_ne_true c
  | some e =>
    rw [State.freeEntry_some s i e h, Schedule.free_slot]
    by_cases hj : i = j
    · subst hj
      rw [if_pos rfl, if_pos ⟨rfl, by rw [h]; rfl⟩]
    · rw [if_neg hj, if_neg fun c => hj c.1]

/-- The slots after several entries have been freed (R28 step 5). -/
theorem State.freeAll_slot (is : List SlotIx) (j : SlotIx) (hn : is.Nodup) :
    (s.freeAll is).schedule.slots.get j =
      if j ∈ is ∧ (s.schedule.entryAt j).isSome = true then
        { tag := (s.schedule.slots.get j).tag + 1, entry := none }
      else s.schedule.slots.get j := by
  unfold State.freeAll
  induction is generalizing s with
  | nil => simp only [List.foldl_nil, List.not_mem_nil, false_and, if_false]
  | cons i is ih =>
    obtain ⟨hi, hn⟩ := List.nodup_cons.mp hn
    rw [List.foldl_cons, ih _ hn]
    unfold Schedule.entryAt
    rw [State.freeEntry_slot]
    by_cases hj : i = j
    · subst hj
      simp only [hi, false_and, if_false, List.mem_cons, true_or, true_and]
      rfl
    · have hj' : j ≠ i := fun e => hj e.symm
      simp only [hj, hj', false_and, if_false, List.mem_cons, false_or]

/-! ### The sweep (R51) -/

/-- The entry that an open sweep may take next (R51, R70). -/
theorem State.sweepHead_some (i : SlotIx) :
    s.sweepHead = some i ↔
      s.schedule.pass = none ∧ (∃ m, s.schedule.sweep = some m ∧ i ∈ m)
        ∧ s.schedule.dueList.head? = some i ∧ s.schedule.dueAt i ≤ s.timebase.now := by
  unfold State.sweepHead
  cases hp : s.schedule.pass with
  | some a => simp
  | none =>
    cases hs : s.schedule.sweep with
    | none => simp
    | some m =>
      cases hd : s.schedule.dueList with
      | nil => simp
      | cons j js =>
        simp only [true_and, List.head?_cons, Option.some.injEq, Option.ite_none_right_eq_some]
        constructor
        · rintro ⟨⟨h1, h2⟩, rfl⟩
          exact ⟨⟨m, rfl, h1⟩, rfl, h2⟩
        · rintro ⟨⟨_, rfl, h1⟩, rfl, h2⟩
          exact ⟨⟨h1, h2⟩, rfl⟩

/-- A sweep that may still take an entry stays open. -/
theorem State.closeIfDone_some (i : SlotIx) (h : s.sweepHead = some i) : s.closeIfDone = s := by
  unfold State.closeIfDone
  rw [h]

/-- A sweep that may take no entry is closed (R51). -/
theorem State.closeIfDone_none (h : s.sweepHead = none) :
    s.closeIfDone = { s with schedule := { s.schedule with sweep := none } } := by
  unfold State.closeIfDone
  rw [h]
  rfl

/-- Closing a sweep that is done reaches the sweep alone (R51). -/
theorem State.closeIfDone_frame :
    s.closeIfDone = { s with schedule := { s.schedule with sweep := s.closeIfDone.schedule.sweep } } := by
  have hv : ∃ v, s.closeIfDone = { s with schedule := { s.schedule with sweep := v } } := by
    unfold State.closeIfDone
    split
    · exact ⟨s.schedule.sweep, rfl⟩
    · exact ⟨none, rfl⟩
  obtain ⟨v, hv⟩ := hv
  rw [hv]

@[simp] theorem State.closeIfDone_timebase : s.closeIfDone.timebase = s.timebase := by
  rw [State.closeIfDone_frame]

@[simp] theorem State.closeIfDone_lines : s.closeIfDone.lines = s.lines := by
  rw [State.closeIfDone_frame]

@[simp] theorem State.closeIfDone_authority : s.closeIfDone.authority = s.authority := by
  rw [State.closeIfDone_frame]

@[simp] theorem State.closeIfDone_capture : s.closeIfDone.capture = s.capture := by
  rw [State.closeIfDone_frame]

@[simp] theorem State.closeIfDone_notices : s.closeIfDone.notices = s.notices := by
  rw [State.closeIfDone_frame]

@[simp] theorem State.closeIfDone_ports : s.closeIfDone.ports = s.ports := by
  rw [State.closeIfDone_frame]

@[simp] theorem State.closeIfDone_trails : s.closeIfDone.trails = s.trails := by
  rw [State.closeIfDone_frame]

@[simp] theorem State.closeIfDone_resetCause : s.closeIfDone.resetCause = s.resetCause := by
  rw [State.closeIfDone_frame]

@[simp] theorem State.closeIfDone_inFullReset : s.closeIfDone.inFullReset = s.inFullReset := by
  rw [State.closeIfDone_frame]

@[simp] theorem State.closeIfDone_pending : s.closeIfDone.pending = s.pending := by
  rw [State.closeIfDone_frame]

@[simp] theorem State.closeIfDone_freeCount : s.closeIfDone.freeCount = s.freeCount := by
  rw [State.closeIfDone_frame]

/-- Opening a sweep reaches the sweep alone (R51). -/
theorem State.openSweep_frame :
    s.openSweep = { s with schedule := { s.schedule with sweep := s.openSweep.schedule.sweep } } := by
  have hv : ∃ v, s.openSweep = { s with schedule := { s.schedule with sweep := v } } := by
    exact ⟨_, State.closeIfDone_frame _⟩
  obtain ⟨v, hv⟩ := hv
  rw [hv]

@[simp] theorem State.openSweep_timebase : s.openSweep.timebase = s.timebase := by
  rw [State.openSweep_frame]

@[simp] theorem State.openSweep_lines : s.openSweep.lines = s.lines := by
  rw [State.openSweep_frame]

@[simp] theorem State.openSweep_authority : s.openSweep.authority = s.authority := by
  rw [State.openSweep_frame]

@[simp] theorem State.openSweep_capture : s.openSweep.capture = s.capture := by
  rw [State.openSweep_frame]

@[simp] theorem State.openSweep_notices : s.openSweep.notices = s.notices := by
  rw [State.openSweep_frame]

@[simp] theorem State.openSweep_ports : s.openSweep.ports = s.ports := by
  rw [State.openSweep_frame]

@[simp] theorem State.openSweep_trails : s.openSweep.trails = s.trails := by
  rw [State.openSweep_frame]

@[simp] theorem State.openSweep_resetCause : s.openSweep.resetCause = s.resetCause := by
  rw [State.openSweep_frame]

@[simp] theorem State.openSweep_inFullReset : s.openSweep.inFullReset = s.inFullReset := by
  rw [State.openSweep_frame]

@[simp] theorem State.openSweep_pending : s.openSweep.pending = s.pending := by
  rw [State.openSweep_frame]

@[simp] theorem State.openSweep_freeCount : s.openSweep.freeCount = s.freeCount := by
  rw [State.openSweep_frame]

/-- What opening a sweep leaves (R51, R74). -/
theorem State.openSweep_sweep :
    s.openSweep.schedule.sweep =
      match s.schedule.pass, s.schedule.dueList with
      | none, i :: js =>
        if s.schedule.dueAt i ≤ s.timebase.now then some (i :: js) else none
      | _, _ => none := by
  cases hp : s.schedule.pass with
  | some a =>
    unfold State.openSweep
    rw [State.closeIfDone_none]
    · unfold State.sweepHead
      rw [State.mapSchedule_schedule, hp]
  | none =>
    cases hd : s.schedule.dueList with
    | nil =>
      unfold State.openSweep
      rw [State.closeIfDone_none]
      · unfold State.sweepHead
        rw [State.mapSchedule_schedule, hp, hd]
    | cons i js =>
      unfold State.openSweep
      by_cases h : s.schedule.dueAt i ≤ s.timebase.now
      · rw [State.closeIfDone_some (i := i)]
        · simp only [State.mapSchedule_schedule, hd, h, if_true]
        · rw [State.sweepHead_some]
          exact ⟨hp, ⟨_, rfl, by rw [hd]; exact List.mem_cons_self⟩, by
            simp only [State.mapSchedule_schedule, hd, List.head?_cons], h⟩
      · rw [State.closeIfDone_none]
        · simp only [h, if_false]
        · cases hh : State.sweepHead _ with
          | none => rfl
          | some j =>
            obtain ⟨_, _, h1, h2⟩ := (State.sweepHead_some _ j).mp hh
            simp only [State.mapSchedule_schedule, hd, List.head?_cons, Option.some.injEq] at h1
            subst h1
            exact absurd h2 h

/-! ### One expiry (R55 to R58, R60) -/

/-- The next due of a periodic entry and the periods to skip, in closed form (R57, R196). -/
theorem catchUp_eq (due period now : Nat) (hp : 0 < period) (hd : due ≤ now) :
    catchUp due period now =
      (due + ((now - due) / period + 1) * period, (now - due) / period) := by
  unfold catchUp
  dsimp only
  by_cases h : now < due + period
  · have hz : (now - due) / period = 0 := Nat.div_eq_of_lt (by omega)
    rw [if_pos h, hz, Nat.zero_add, Nat.one_mul]
  · have hk : (now - (due + period)) / period + 1 = (now - due) / period := by
      have : now - due = (now - (due + period)) + period := by omega
      rw [this, Nat.add_div_right _ hp]
    rw [if_neg h, hk, Nat.add_mul, Nat.one_mul]
    congr 1
    omega

/-- A FIRED reaches the notice queues alone (R60). -/
theorem State.postFired_frame (e : Entry) (h : Handle) (due skipped : Nat) (final range : Bool) :
    s.postFired e h due skipped final range =
      { s with
        notices := (s.postFired e h due skipped final range).notices } := by
  have hv : ∃ v1, s.postFired e h due skipped final range = { s with notices := v1 } := by
    unfold State.postFired
    split
    · exact ⟨_, State.post_frame s _ _⟩
    · exact ⟨s.notices, rfl⟩
  obtain ⟨v1, hv⟩ := hv
  rw [hv]

@[simp] theorem State.postFired_timebase
    (e : Entry) (h : Handle) (due skipped : Nat) (final range : Bool) :
    (s.postFired e h due skipped final range).timebase = s.timebase := by
  rw [State.postFired_frame]

@[simp] theorem State.postFired_schedule
    (e : Entry) (h : Handle) (due skipped : Nat) (final range : Bool) :
    (s.postFired e h due skipped final range).schedule = s.schedule := by
  rw [State.postFired_frame]

@[simp] theorem State.postFired_lines
    (e : Entry) (h : Handle) (due skipped : Nat) (final range : Bool) :
    (s.postFired e h due skipped final range).lines = s.lines := by
  rw [State.postFired_frame]

@[simp] theorem State.postFired_authority
    (e : Entry) (h : Handle) (due skipped : Nat) (final range : Bool) :
    (s.postFired e h due skipped final range).authority = s.authority := by
  rw [State.postFired_frame]

@[simp] theorem State.postFired_capture
    (e : Entry) (h : Handle) (due skipped : Nat) (final range : Bool) :
    (s.postFired e h due skipped final range).capture = s.capture := by
  rw [State.postFired_frame]

@[simp] theorem State.postFired_ports
    (e : Entry) (h : Handle) (due skipped : Nat) (final range : Bool) :
    (s.postFired e h due skipped final range).ports = s.ports := by
  rw [State.postFired_frame]

@[simp] theorem State.postFired_trails
    (e : Entry) (h : Handle) (due skipped : Nat) (final range : Bool) :
    (s.postFired e h due skipped final range).trails = s.trails := by
  rw [State.postFired_frame]

@[simp] theorem State.postFired_resetCause
    (e : Entry) (h : Handle) (due skipped : Nat) (final range : Bool) :
    (s.postFired e h due skipped final range).resetCause = s.resetCause := by
  rw [State.postFired_frame]

@[simp] theorem State.postFired_inFullReset
    (e : Entry) (h : Handle) (due skipped : Nat) (final range : Bool) :
    (s.postFired e h due skipped final range).inFullReset = s.inFullReset := by
  rw [State.postFired_frame]

@[simp] theorem State.postFired_pending
    (e : Entry) (h : Handle) (due skipped : Nat) (final range : Bool) :
    (s.postFired e h due skipped final range).pending = s.pending := by
  rw [State.postFired_frame]

@[simp] theorem State.postFired_freeCount
    (e : Entry) (h : Handle) (due skipped : Nat) (final range : Bool) :
    (s.postFired e h due skipped final range).freeCount = s.freeCount := by
  rw [State.postFired_frame]

/-- An expiry reaches the schedule, lines and notice queues alone (R53 to R61). -/
theorem State.expireEntry_frame (i : SlotIx) (e : Entry) :
    s.expireEntry i e =
      { s with
        schedule := (s.expireEntry i e).schedule
        lines := (s.expireEntry i e).lines
        notices := (s.expireEntry i e).notices } := by
  have hv : ∃ v1 v2 v3, s.expireEntry i e = { s with schedule := v1, lines := v2, notices := v3 } := by
    unfold State.expireEntry
    dsimp only
    split
    · exact ⟨_, _, _, by rw [State.postFired_frame, State.mapSchedule, State.lineActions_frame]; rfl⟩
    · split
      · exact ⟨_, _, _, by
          rw [State.postCancelled_frame, State.freeEntry_frame, State.postFired_frame,
            State.lineActions_frame]; rfl⟩
      · exact ⟨_, _, _, by
          rw [State.freeEntry_frame, State.postFired_frame, State.lineActions_frame]; rfl⟩
  obtain ⟨v1, v2, v3, hv⟩ := hv
  rw [hv]

@[simp] theorem State.expireEntry_timebase (i : SlotIx) (e : Entry) :
    (s.expireEntry i e).timebase = s.timebase := by
  rw [State.expireEntry_frame]

@[simp] theorem State.expireEntry_authority (i : SlotIx) (e : Entry) :
    (s.expireEntry i e).authority = s.authority := by
  rw [State.expireEntry_frame]

@[simp] theorem State.expireEntry_capture (i : SlotIx) (e : Entry) :
    (s.expireEntry i e).capture = s.capture := by
  rw [State.expireEntry_frame]

@[simp] theorem State.expireEntry_ports (i : SlotIx) (e : Entry) :
    (s.expireEntry i e).ports = s.ports := by
  rw [State.expireEntry_frame]

@[simp] theorem State.expireEntry_trails (i : SlotIx) (e : Entry) :
    (s.expireEntry i e).trails = s.trails := by
  rw [State.expireEntry_frame]

@[simp] theorem State.expireEntry_resetCause (i : SlotIx) (e : Entry) :
    (s.expireEntry i e).resetCause = s.resetCause := by
  rw [State.expireEntry_frame]

@[simp] theorem State.expireEntry_inFullReset (i : SlotIx) (e : Entry) :
    (s.expireEntry i e).inFullReset = s.inFullReset := by
  rw [State.expireEntry_frame]

@[simp] theorem State.expireEntry_pending (i : SlotIx) (e : Entry) :
    (s.expireEntry i e).pending = s.pending := by
  rw [State.expireEntry_frame]

@[simp] theorem State.expireEntry_freeCount (i : SlotIx) (e : Entry) :
    (s.expireEntry i e).freeCount = s.freeCount := by
  rw [State.expireEntry_frame]

/-- An EXPIRY reaches the schedule, lines and notice queues alone (R53). -/
theorem State.takeExpiry_frame :
    s.takeExpiry =
      { s with
        schedule := (s.takeExpiry).schedule
        lines := (s.takeExpiry).lines
        notices := (s.takeExpiry).notices } := by
  have hv : ∃ v1 v2 v3, s.takeExpiry = { s with schedule := v1, lines := v2, notices := v3 } := by
    unfold State.takeExpiry
    split
    · exact ⟨_, s.lines, s.notices, State.closeIfDone_frame s⟩
    · split
      · exact ⟨_, s.lines, s.notices, State.closeIfDone_frame s⟩
      · exact ⟨_, _, _, by rw [State.closeIfDone_frame, State.expireEntry_frame]⟩
  obtain ⟨v1, v2, v3, hv⟩ := hv
  rw [hv]

@[simp] theorem State.takeExpiry_timebase :
    (s.takeExpiry).timebase = s.timebase := by
  rw [State.takeExpiry_frame]

@[simp] theorem State.takeExpiry_authority :
    (s.takeExpiry).authority = s.authority := by
  rw [State.takeExpiry_frame]

@[simp] theorem State.takeExpiry_capture :
    (s.takeExpiry).capture = s.capture := by
  rw [State.takeExpiry_frame]

@[simp] theorem State.takeExpiry_ports :
    (s.takeExpiry).ports = s.ports := by
  rw [State.takeExpiry_frame]

@[simp] theorem State.takeExpiry_trails :
    (s.takeExpiry).trails = s.trails := by
  rw [State.takeExpiry_frame]

@[simp] theorem State.takeExpiry_resetCause :
    (s.takeExpiry).resetCause = s.resetCause := by
  rw [State.takeExpiry_frame]

@[simp] theorem State.takeExpiry_inFullReset :
    (s.takeExpiry).inFullReset = s.inFullReset := by
  rw [State.takeExpiry_frame]

@[simp] theorem State.takeExpiry_pending :
    (s.takeExpiry).pending = s.pending := by
  rw [State.takeExpiry_frame]

@[simp] theorem State.takeExpiry_freeCount :
    (s.takeExpiry).freeCount = s.freeCount := by
  rw [State.takeExpiry_frame]

/-! ### The step and the pass (R63 to R74) -/

/-- What a step policy reaches (R63 to R66). -/
theorem meetPolicy_frame (delta : Int) (acc : State × Nat) (i : SlotIx) :
    (meetPolicy delta acc i).1 =
      { acc.1 with
        schedule := (meetPolicy delta acc i).1.schedule
        lines := (meetPolicy delta acc i).1.lines
        notices := (meetPolicy delta acc i).1.notices } := by
  have hv : ∃ v1 v2 v3, (meetPolicy delta acc i).1 =
      { acc.1 with schedule := v1, lines := v2, notices := v3 } := by
    unfold meetPolicy
    repeat' (first | split | dsimp only)
    all_goals first
      | exact ⟨acc.1.schedule, acc.1.lines, acc.1.notices, rfl⟩
      | exact ⟨_, _, _, State.freeAndTell_frame acc.1 i _⟩
      | exact ⟨_, acc.1.lines, acc.1.notices, rfl⟩
  obtain ⟨v1, v2, v3, hv⟩ := hv
  rw [hv]

/-- A step reaches, through the schedule, its entries, the references of lines and notice queues alone (R63). -/
theorem State.scheduleStep_frame (w : Waiter) (oldNow newNow : Nat) :
    s.scheduleStep w oldNow newNow =
      { s with
        schedule := (s.scheduleStep w oldNow newNow).schedule
        lines := (s.scheduleStep w oldNow newNow).lines
        notices := (s.scheduleStep w oldNow newNow).notices } := by
  have hv : ∃ v1 v2 v3, s.scheduleStep w oldNow newNow = { s with schedule := v1, lines := v2, notices := v3 } := by
    unfold State.scheduleStep
    dsimp only
    have hf : ∀ (is : List SlotIx) (acc : State × Nat) (d : Int), ∃ v1 v2 v3,
        (is.foldl (meetPolicy d) acc).1 = { acc.1 with schedule := v1, lines := v2, notices := v3 } := by
      intro is
      induction is with
      | nil => exact fun acc _ => ⟨acc.1.schedule, acc.1.lines, acc.1.notices, rfl⟩
      | cons i is ih =>
        intro acc d
        obtain ⟨m, n, k, hx⟩ := ih (meetPolicy d acc i) d
        exact ⟨m, n, k, by rw [List.foldl_cons, hx, meetPolicy_frame]⟩
    obtain ⟨m, n, k, hx⟩ := hf (indices 64) (s, 0) ((newNow : Int) - (oldNow : Int))
    exact ⟨_, n, k, by rw [hx]; rfl⟩
  obtain ⟨v1, v2, v3, hv⟩ := hv
  rw [hv]

@[simp] theorem State.scheduleStep_timebase (w : Waiter) (oldNow newNow : Nat) :
    (s.scheduleStep w oldNow newNow).timebase = s.timebase := by
  rw [State.scheduleStep_frame]

@[simp] theorem State.scheduleStep_authority (w : Waiter) (oldNow newNow : Nat) :
    (s.scheduleStep w oldNow newNow).authority = s.authority := by
  rw [State.scheduleStep_frame]

@[simp] theorem State.scheduleStep_capture (w : Waiter) (oldNow newNow : Nat) :
    (s.scheduleStep w oldNow newNow).capture = s.capture := by
  rw [State.scheduleStep_frame]

@[simp] theorem State.scheduleStep_ports (w : Waiter) (oldNow newNow : Nat) :
    (s.scheduleStep w oldNow newNow).ports = s.ports := by
  rw [State.scheduleStep_frame]

@[simp] theorem State.scheduleStep_trails (w : Waiter) (oldNow newNow : Nat) :
    (s.scheduleStep w oldNow newNow).trails = s.trails := by
  rw [State.scheduleStep_frame]

@[simp] theorem State.scheduleStep_resetCause (w : Waiter) (oldNow newNow : Nat) :
    (s.scheduleStep w oldNow newNow).resetCause = s.resetCause := by
  rw [State.scheduleStep_frame]

@[simp] theorem State.scheduleStep_inFullReset (w : Waiter) (oldNow newNow : Nat) :
    (s.scheduleStep w oldNow newNow).inFullReset = s.inFullReset := by
  rw [State.scheduleStep_frame]

@[simp] theorem State.scheduleStep_pending (w : Waiter) (oldNow newNow : Nat) :
    (s.scheduleStep w oldNow newNow).pending = s.pending := by
  rw [State.scheduleStep_frame]

@[simp] theorem State.scheduleStep_freeCount (w : Waiter) (oldNow newNow : Nat) :
    (s.scheduleStep w oldNow newNow).freeCount = s.freeCount := by
  rw [State.scheduleStep_frame]

/-- An advance told to the schedule reaches the schedule alone (R51, R70). -/
theorem State.tellAdvance_frame :
    s.tellAdvance =
      { s with
        schedule := (s.tellAdvance).schedule } := by
  have hv : ∃ v1, s.tellAdvance = { s with schedule := v1 } := by
    unfold State.tellAdvance
    split
    · exact ⟨_, rfl⟩
    · exact ⟨_, State.openSweep_frame s⟩
  obtain ⟨v1, hv⟩ := hv
  rw [hv]

@[simp] theorem State.tellAdvance_timebase :
    (s.tellAdvance).timebase = s.timebase := by
  rw [State.tellAdvance_frame]

@[simp] theorem State.tellAdvance_lines :
    (s.tellAdvance).lines = s.lines := by
  rw [State.tellAdvance_frame]

@[simp] theorem State.tellAdvance_authority :
    (s.tellAdvance).authority = s.authority := by
  rw [State.tellAdvance_frame]

@[simp] theorem State.tellAdvance_capture :
    (s.tellAdvance).capture = s.capture := by
  rw [State.tellAdvance_frame]

@[simp] theorem State.tellAdvance_notices :
    (s.tellAdvance).notices = s.notices := by
  rw [State.tellAdvance_frame]

@[simp] theorem State.tellAdvance_ports :
    (s.tellAdvance).ports = s.ports := by
  rw [State.tellAdvance_frame]

@[simp] theorem State.tellAdvance_trails :
    (s.tellAdvance).trails = s.trails := by
  rw [State.tellAdvance_frame]

@[simp] theorem State.tellAdvance_resetCause :
    (s.tellAdvance).resetCause = s.resetCause := by
  rw [State.tellAdvance_frame]

@[simp] theorem State.tellAdvance_inFullReset :
    (s.tellAdvance).inFullReset = s.inFullReset := by
  rw [State.tellAdvance_frame]

@[simp] theorem State.tellAdvance_pending :
    (s.tellAdvance).pending = s.pending := by
  rw [State.tellAdvance_frame]

@[simp] theorem State.tellAdvance_freeCount :
    (s.tellAdvance).freeCount = s.freeCount := by
  rw [State.tellAdvance_frame]

/-- The completion of a pass reaches the schedule, the references of lines and the stepper's answer alone (R74). -/
theorem State.completePass_frame :
    s.completePass =
      { s with
        schedule := (s.completePass).schedule
        lines := (s.completePass).lines
        ports := (s.completePass).ports } := by
  have hv : ∃ v1 v2 v3, s.completePass = { s with schedule := v1, lines := v2, ports := v3 } := by
    unfold State.completePass
    split
    · exact ⟨s.schedule, s.lines, s.ports, rfl⟩
    · dsimp only
      split
      · exact ⟨_, _, _, by
          rw [State.openSweep_frame, State.mapSchedule, State.freeAll_frame, State.answer_frame]⟩
      · exact ⟨_, _, _, by rw [State.mapSchedule, State.freeAll_frame, State.answer_frame]⟩
  obtain ⟨v1, v2, v3, hv⟩ := hv
  rw [hv]

@[simp] theorem State.completePass_timebase :
    (s.completePass).timebase = s.timebase := by
  rw [State.completePass_frame]

@[simp] theorem State.completePass_authority :
    (s.completePass).authority = s.authority := by
  rw [State.completePass_frame]

@[simp] theorem State.completePass_capture :
    (s.completePass).capture = s.capture := by
  rw [State.completePass_frame]

@[simp] theorem State.completePass_notices :
    (s.completePass).notices = s.notices := by
  rw [State.completePass_frame]

@[simp] theorem State.completePass_trails :
    (s.completePass).trails = s.trails := by
  rw [State.completePass_frame]

@[simp] theorem State.completePass_resetCause :
    (s.completePass).resetCause = s.resetCause := by
  rw [State.completePass_frame]

@[simp] theorem State.completePass_inFullReset :
    (s.completePass).inFullReset = s.inFullReset := by
  rw [State.completePass_frame]

@[simp] theorem State.completePass_pending :
    (s.completePass).pending = s.pending := by
  rw [State.completePass_frame]

@[simp] theorem State.completePass_freeCount :
    (s.completePass).freeCount = s.freeCount := by
  rw [State.completePass_frame]

/-! ### Hand-over and detach (R32, R50) -/

/-- A hand-over of one entry reaches the schedule, the references of lines and notice queues alone (R32). -/
theorem State.handOverOne_frame (stamp : Nat) (i : SlotIx) :
    State.handOverOne stamp s i =
      { s with
        schedule := (State.handOverOne stamp s i).schedule
        lines := (State.handOverOne stamp s i).lines
        notices := (State.handOverOne stamp s i).notices } := by
  have hv : ∃ v1 v2 v3, State.handOverOne stamp s i = { s with schedule := v1, lines := v2, notices := v3 } := by
    unfold State.handOverOne
    split
    · exact ⟨s.schedule, s.lines, s.notices, rfl⟩
    · dsimp only
      split
      · exact ⟨_, _, _, State.freeAndTell_frame s i _⟩
      · exact ⟨_, s.lines, s.notices, rfl⟩
  obtain ⟨v1, v2, v3, hv⟩ := hv
  rw [hv]

@[simp] theorem State.handOverOne_timebase (stamp : Nat) (i : SlotIx) :
    (State.handOverOne stamp s i).timebase = s.timebase := by
  rw [State.handOverOne_frame]

@[simp] theorem State.handOverOne_authority (stamp : Nat) (i : SlotIx) :
    (State.handOverOne stamp s i).authority = s.authority := by
  rw [State.handOverOne_frame]

@[simp] theorem State.handOverOne_capture (stamp : Nat) (i : SlotIx) :
    (State.handOverOne stamp s i).capture = s.capture := by
  rw [State.handOverOne_frame]

@[simp] theorem State.handOverOne_ports (stamp : Nat) (i : SlotIx) :
    (State.handOverOne stamp s i).ports = s.ports := by
  rw [State.handOverOne_frame]

@[simp] theorem State.handOverOne_trails (stamp : Nat) (i : SlotIx) :
    (State.handOverOne stamp s i).trails = s.trails := by
  rw [State.handOverOne_frame]

@[simp] theorem State.handOverOne_resetCause (stamp : Nat) (i : SlotIx) :
    (State.handOverOne stamp s i).resetCause = s.resetCause := by
  rw [State.handOverOne_frame]

@[simp] theorem State.handOverOne_inFullReset (stamp : Nat) (i : SlotIx) :
    (State.handOverOne stamp s i).inFullReset = s.inFullReset := by
  rw [State.handOverOne_frame]

@[simp] theorem State.handOverOne_pending (stamp : Nat) (i : SlotIx) :
    (State.handOverOne stamp s i).pending = s.pending := by
  rw [State.handOverOne_frame]

@[simp] theorem State.handOverOne_freeCount (stamp : Nat) (i : SlotIx) :
    (State.handOverOne stamp s i).freeCount = s.freeCount := by
  rw [State.handOverOne_frame]

/-- A hand-over reaches the schedule, the references of lines and notice queues alone (R32). -/
theorem State.handOver_frame (n : InputIx) (stamp : Nat) :
    s.handOver n stamp =
      { s with
        schedule := (s.handOver n stamp).schedule
        lines := (s.handOver n stamp).lines
        notices := (s.handOver n stamp).notices } := by
  have hv : ∃ v1 v2 v3, s.handOver n stamp = { s with schedule := v1, lines := v2, notices := v3 } := by
    unfold State.handOver
    have hf : ∀ (is : List SlotIx) (t : State), ∃ v1 v2 v3,
        is.foldl (State.handOverOne stamp) t =
          { t with schedule := v1, lines := v2, notices := v3 } := by
      intro is
      induction is with
      | nil => exact fun t => ⟨t.schedule, t.lines, t.notices, rfl⟩
      | cons i is ih =>
        intro t
        obtain ⟨m, n, k, hx⟩ := ih (State.handOverOne stamp t i)
        exact ⟨m, n, k, by rw [List.foldl_cons, hx, State.handOverOne_frame]⟩
    obtain ⟨m, k, l, hx⟩ := hf (s.schedule.waiting.get n) _
    exact ⟨m, k, l, by rw [hx]; rfl⟩
  obtain ⟨v1, v2, v3, hv⟩ := hv
  rw [hv]

@[simp] theorem State.handOver_timebase (n : InputIx) (stamp : Nat) :
    (s.handOver n stamp).timebase = s.timebase := by
  rw [State.handOver_frame]

@[simp] theorem State.handOver_authority (n : InputIx) (stamp : Nat) :
    (s.handOver n stamp).authority = s.authority := by
  rw [State.handOver_frame]

@[simp] theorem State.handOver_capture (n : InputIx) (stamp : Nat) :
    (s.handOver n stamp).capture = s.capture := by
  rw [State.handOver_frame]

@[simp] theorem State.handOver_ports (n : InputIx) (stamp : Nat) :
    (s.handOver n stamp).ports = s.ports := by
  rw [State.handOver_frame]

@[simp] theorem State.handOver_trails (n : InputIx) (stamp : Nat) :
    (s.handOver n stamp).trails = s.trails := by
  rw [State.handOver_frame]

@[simp] theorem State.handOver_resetCause (n : InputIx) (stamp : Nat) :
    (s.handOver n stamp).resetCause = s.resetCause := by
  rw [State.handOver_frame]

@[simp] theorem State.handOver_inFullReset (n : InputIx) (stamp : Nat) :
    (s.handOver n stamp).inFullReset = s.inFullReset := by
  rw [State.handOver_frame]

@[simp] theorem State.handOver_pending (n : InputIx) (stamp : Nat) :
    (s.handOver n stamp).pending = s.pending := by
  rw [State.handOver_frame]

@[simp] theorem State.handOver_freeCount (n : InputIx) (stamp : Nat) :
    (s.handOver n stamp).freeCount = s.freeCount := by
  rw [State.handOver_frame]

/-- An orphan policy reaches the schedule and the references of lines alone (R50, R73). -/
theorem State.orphanOne_frame (i : SlotIx) :
    s.orphanOne i =
      { s with
        schedule := (s.orphanOne i).schedule
        lines := (s.orphanOne i).lines } := by
  have hv : ∃ v1 v2, s.orphanOne i = { s with schedule := v1, lines := v2 } := by
    unfold State.orphanOne
    repeat' split
    all_goals first
      | exact ⟨s.schedule, s.lines, rfl⟩
      | exact ⟨_, _, State.freeEntry_frame s i⟩
      | exact ⟨_, s.lines, rfl⟩
  obtain ⟨v1, v2, hv⟩ := hv
  rw [hv]

@[simp] theorem State.orphanOne_timebase (i : SlotIx) :
    (s.orphanOne i).timebase = s.timebase := by
  rw [State.orphanOne_frame]

@[simp] theorem State.orphanOne_authority (i : SlotIx) :
    (s.orphanOne i).authority = s.authority := by
  rw [State.orphanOne_frame]

@[simp] theorem State.orphanOne_capture (i : SlotIx) :
    (s.orphanOne i).capture = s.capture := by
  rw [State.orphanOne_frame]

@[simp] theorem State.orphanOne_notices (i : SlotIx) :
    (s.orphanOne i).notices = s.notices := by
  rw [State.orphanOne_frame]

@[simp] theorem State.orphanOne_ports (i : SlotIx) :
    (s.orphanOne i).ports = s.ports := by
  rw [State.orphanOne_frame]

@[simp] theorem State.orphanOne_trails (i : SlotIx) :
    (s.orphanOne i).trails = s.trails := by
  rw [State.orphanOne_frame]

@[simp] theorem State.orphanOne_resetCause (i : SlotIx) :
    (s.orphanOne i).resetCause = s.resetCause := by
  rw [State.orphanOne_frame]

@[simp] theorem State.orphanOne_inFullReset (i : SlotIx) :
    (s.orphanOne i).inFullReset = s.inFullReset := by
  rw [State.orphanOne_frame]

@[simp] theorem State.orphanOne_pending (i : SlotIx) :
    (s.orphanOne i).pending = s.pending := by
  rw [State.orphanOne_frame]

@[simp] theorem State.orphanOne_freeCount (i : SlotIx) :
    (s.orphanOne i).freeCount = s.freeCount := by
  rw [State.orphanOne_frame]

/-- The detach of a port's entries reaches the schedule and the references of lines alone (R50). -/
theorem State.orphanEntries_frame (p : Port) :
    s.orphanEntries p =
      { s with
        schedule := (s.orphanEntries p).schedule
        lines := (s.orphanEntries p).lines } := by
  have hv : ∃ v1 v2, s.orphanEntries p = { s with schedule := v1, lines := v2 } := by
    unfold State.orphanEntries
    generalize s.schedule.slotsWhere _ = is
    induction is generalizing s with
    | nil => exact ⟨s.schedule, s.lines, rfl⟩
    | cons i is ih =>
      obtain ⟨m, n, hx⟩ := ih (s.orphanOne i)
      exact ⟨m, n, by rw [List.foldl_cons, hx, State.orphanOne_frame]⟩
  obtain ⟨v1, v2, hv⟩ := hv
  rw [hv]

@[simp] theorem State.orphanEntries_timebase (p : Port) :
    (s.orphanEntries p).timebase = s.timebase := by
  rw [State.orphanEntries_frame]

@[simp] theorem State.orphanEntries_authority (p : Port) :
    (s.orphanEntries p).authority = s.authority := by
  rw [State.orphanEntries_frame]

@[simp] theorem State.orphanEntries_capture (p : Port) :
    (s.orphanEntries p).capture = s.capture := by
  rw [State.orphanEntries_frame]

@[simp] theorem State.orphanEntries_notices (p : Port) :
    (s.orphanEntries p).notices = s.notices := by
  rw [State.orphanEntries_frame]

@[simp] theorem State.orphanEntries_ports (p : Port) :
    (s.orphanEntries p).ports = s.ports := by
  rw [State.orphanEntries_frame]

@[simp] theorem State.orphanEntries_trails (p : Port) :
    (s.orphanEntries p).trails = s.trails := by
  rw [State.orphanEntries_frame]

@[simp] theorem State.orphanEntries_resetCause (p : Port) :
    (s.orphanEntries p).resetCause = s.resetCause := by
  rw [State.orphanEntries_frame]

@[simp] theorem State.orphanEntries_inFullReset (p : Port) :
    (s.orphanEntries p).inFullReset = s.inFullReset := by
  rw [State.orphanEntries_frame]

@[simp] theorem State.orphanEntries_pending (p : Port) :
    (s.orphanEntries p).pending = s.pending := by
  rw [State.orphanEntries_frame]

@[simp] theorem State.orphanEntries_freeCount (p : Port) :
    (s.orphanEntries p).freeCount = s.freeCount := by
  rw [State.orphanEntries_frame]

end Sys2Proof.Machine
end

