-- ==== Sys2Proof/Laws/Capture.lean ====
section
/-! SUPPORT. What the capture unit's procedures do: sets, reader sets, the log, and what each reaches outside the unit. -/

namespace Sys2Proof.Machine

variable (s : State)

/-! ### Sets (R191) -/

/-- The set of the ports that a test selects holds exactly them. -/
theorem hasBit_portsWhere (test : Port → Bool) (p : Port) : hasBit (portsWhere test) p = test p := by
  have h : ∀ a b c : Bool,
      hasBit ((if a then 1#3 else 0#3) ||| (if b then 2#3 else 0#3) ||| (if c then 4#3 else 0#3))
        (0 : Fin 3) = a
      ∧ hasBit ((if a then 1#3 else 0#3) ||| (if b then 2#3 else 0#3) ||| (if c then 4#3 else 0#3))
        (1 : Fin 3) = b
      ∧ hasBit ((if a then 1#3 else 0#3) ||| (if b then 2#3 else 0#3) ||| (if c then 4#3 else 0#3))
        (2 : Fin 3) = c := by decide
  have hx := h (test 0) (test 1) (test 2)
  match p with
  | 0 => exact hx.1
  | 1 => exact hx.2.1
  | 2 => exact hx.2.2

/-- A set without a member. -/
theorem hasBit_dropBit {n : Nat} (m : BitVec n) (i j : Fin n) :
    hasBit (dropBit m i) j = (hasBit m j && decide (i ≠ j)) := by
  unfold hasBit dropBit
  rw [BitVec.getLsbD_and, BitVec.getLsbD_not, BitVec.getLsbD_twoPow]
  have hj : j.val < n := j.isLt
  by_cases h : i = j
  · subst h
    simp [hj]
  · have hv : i.val ≠ j.val := fun e => h (Fin.ext e)
    simp [hj, h, hv]

/-- Sets with the same members are equal. -/
theorem set_ext {n : Nat} {a b : BitVec n} (h : ∀ i : Fin n, hasBit a i = hasBit b i) : a = b :=
  BitVec.eq_of_getLsbD_eq fun i hi => h ⟨i, hi⟩

theorem mem_members (m : PortSet) (p : Port) : p ∈ members m ↔ hasBit m p = true := by
  unfold members
  rw [List.mem_filter]
  exact ⟨fun h => h.2, fun h => ⟨mem_allPorts p, h⟩⟩

/-! ### Reader sets and the log (R135, R136, R139) -/

/-- A record with another reader left stays, without the port that read it (R135). -/
theorem CaptureRecord.readBy_some (p : Port) (r x : CaptureRecord) :
    r.readBy p = some x ↔
      dropBit r.readers p ≠ 0 ∧ x = { r with readers := dropBit r.readers p } := by
  unfold CaptureRecord.readBy
  dsimp only
  split
  · next h => simp [h]
  · next h =>
    rw [Option.some.injEq]
    exact ⟨fun e => ⟨h, e.symm⟩, fun e => e.2.symm⟩

/-- Reading removes records or readers and adds none. -/
theorem mem_consume (p : Port) (n : Nat) (rs : List CaptureRecord) (x : CaptureRecord)
    (h : x ∈ consume p n rs) : x ∈ rs ∨ ∃ r ∈ rs, r.readBy p = some x := by
  induction rs generalizing n with
  | nil => cases n <;> exact absurd h List.not_mem_nil
  | cons r rs ih =>
    cases n with
    | zero => exact Or.inl h
    | succ n =>
      unfold consume at h
      split at h
      · rcases List.mem_append.mp h with h | h
        · exact Or.inr ⟨r, List.mem_cons_self, Option.mem_toList.mp h⟩
        · rcases ih n h with h | ⟨y, hy, e⟩
          · exact Or.inl (List.mem_cons_of_mem r h)
          · exact Or.inr ⟨y, List.mem_cons_of_mem r hy, e⟩
      · rcases List.mem_cons.mp h with rfl | h
        · exact Or.inl List.mem_cons_self
        · rcases ih (n + 1) h with h | ⟨y, hy, e⟩
          · exact Or.inl (List.mem_cons_of_mem r h)
          · exact Or.inr ⟨y, List.mem_cons_of_mem r hy, e⟩

/-- The level before an edge is not the level after it (R126). -/
theorem levelBefore_ne_levelAfter (d : Edge) : levelBefore d ≠ levelAfter d := by
  cases d <;> decide

/-! ### What the procedures reach -/

/-- A dropped record reaches the notice queues alone (R133). -/
theorem State.dropCapture_frame (r : CaptureRecord) (reason : DropReason) :
    s.dropCapture r reason =
      { s with
        notices := (s.dropCapture r reason).notices } := by
  have hv : ∃ v1, s.dropCapture r reason = { s with notices := v1 } := by
    exact ⟨_, State.postAll_frame s _ _⟩
  obtain ⟨v1, hv⟩ := hv
  rw [hv]

@[simp] theorem State.dropCapture_timebase (r : CaptureRecord) (reason : DropReason) :
    (s.dropCapture r reason).timebase = s.timebase := by
  rw [State.dropCapture_frame]

@[simp] theorem State.dropCapture_schedule (r : CaptureRecord) (reason : DropReason) :
    (s.dropCapture r reason).schedule = s.schedule := by
  rw [State.dropCapture_frame]

@[simp] theorem State.dropCapture_lines (r : CaptureRecord) (reason : DropReason) :
    (s.dropCapture r reason).lines = s.lines := by
  rw [State.dropCapture_frame]

@[simp] theorem State.dropCapture_authority (r : CaptureRecord) (reason : DropReason) :
    (s.dropCapture r reason).authority = s.authority := by
  rw [State.dropCapture_frame]

@[simp] theorem State.dropCapture_capture (r : CaptureRecord) (reason : DropReason) :
    (s.dropCapture r reason).capture = s.capture := by
  rw [State.dropCapture_frame]

@[simp] theorem State.dropCapture_ports (r : CaptureRecord) (reason : DropReason) :
    (s.dropCapture r reason).ports = s.ports := by
  rw [State.dropCapture_frame]

@[simp] theorem State.dropCapture_trails (r : CaptureRecord) (reason : DropReason) :
    (s.dropCapture r reason).trails = s.trails := by
  rw [State.dropCapture_frame]

@[simp] theorem State.dropCapture_resetCause (r : CaptureRecord) (reason : DropReason) :
    (s.dropCapture r reason).resetCause = s.resetCause := by
  rw [State.dropCapture_frame]

@[simp] theorem State.dropCapture_inFullReset (r : CaptureRecord) (reason : DropReason) :
    (s.dropCapture r reason).inFullReset = s.inFullReset := by
  rw [State.dropCapture_frame]

@[simp] theorem State.dropCapture_pending (r : CaptureRecord) (reason : DropReason) :
    (s.dropCapture r reason).pending = s.pending := by
  rw [State.dropCapture_frame]

@[simp] theorem State.dropCapture_freeCount (r : CaptureRecord) (reason : DropReason) :
    (s.dropCapture r reason).freeCount = s.freeCount := by
  rw [State.dropCapture_frame]

/-- An appended record reaches the log and notice queues alone (R134). -/
theorem State.appendCapture_frame (r : CaptureRecord) :
    s.appendCapture r =
      { s with
        capture := (s.appendCapture r).capture
        notices := (s.appendCapture r).notices } := by
  have hv : ∃ v1 v2, s.appendCapture r = { s with capture := v1, notices := v2 } := by
    exact ⟨_, _, State.postWhere_frame _ _ _⟩
  obtain ⟨v1, v2, hv⟩ := hv
  rw [hv]

@[simp] theorem State.appendCapture_timebase (r : CaptureRecord) :
    (s.appendCapture r).timebase = s.timebase := by
  rw [State.appendCapture_frame]

@[simp] theorem State.appendCapture_schedule (r : CaptureRecord) :
    (s.appendCapture r).schedule = s.schedule := by
  rw [State.appendCapture_frame]

@[simp] theorem State.appendCapture_lines (r : CaptureRecord) :
    (s.appendCapture r).lines = s.lines := by
  rw [State.appendCapture_frame]

@[simp] theorem State.appendCapture_authority (r : CaptureRecord) :
    (s.appendCapture r).authority = s.authority := by
  rw [State.appendCapture_frame]

@[simp] theorem State.appendCapture_ports (r : CaptureRecord) :
    (s.appendCapture r).ports = s.ports := by
  rw [State.appendCapture_frame]

@[simp] theorem State.appendCapture_trails (r : CaptureRecord) :
    (s.appendCapture r).trails = s.trails := by
  rw [State.appendCapture_frame]

@[simp] theorem State.appendCapture_resetCause (r : CaptureRecord) :
    (s.appendCapture r).resetCause = s.resetCause := by
  rw [State.appendCapture_frame]

@[simp] theorem State.appendCapture_inFullReset (r : CaptureRecord) :
    (s.appendCapture r).inFullReset = s.inFullReset := by
  rw [State.appendCapture_frame]

@[simp] theorem State.appendCapture_pending (r : CaptureRecord) :
    (s.appendCapture r).pending = s.pending := by
  rw [State.appendCapture_frame]

@[simp] theorem State.appendCapture_freeCount (r : CaptureRecord) :
    (s.appendCapture r).freeCount = s.freeCount := by
  rw [State.appendCapture_frame]

/-- The fate of a record reaches the log and notice queues alone (R133). -/
theorem State.storeCapture_frame (r : CaptureRecord) :
    s.storeCapture r =
      { s with
        capture := (s.storeCapture r).capture
        notices := (s.storeCapture r).notices } := by
  have hv : ∃ v1 v2, s.storeCapture r = { s with capture := v1, notices := v2 } := by
    unfold State.storeCapture
    split
    · exact ⟨s.capture, s.notices, rfl⟩
    · split
      · exact ⟨s.capture, _, State.dropCapture_frame s _ _⟩
      · split
        · exact ⟨s.capture, _, State.dropCapture_frame s _ _⟩
        · exact ⟨_, _, State.appendCapture_frame s _⟩
  obtain ⟨v1, v2, hv⟩ := hv
  rw [hv]

@[simp] theorem State.storeCapture_timebase (r : CaptureRecord) :
    (s.storeCapture r).timebase = s.timebase := by
  rw [State.storeCapture_frame]

@[simp] theorem State.storeCapture_schedule (r : CaptureRecord) :
    (s.storeCapture r).schedule = s.schedule := by
  rw [State.storeCapture_frame]

@[simp] theorem State.storeCapture_lines (r : CaptureRecord) :
    (s.storeCapture r).lines = s.lines := by
  rw [State.storeCapture_frame]

@[simp] theorem State.storeCapture_authority (r : CaptureRecord) :
    (s.storeCapture r).authority = s.authority := by
  rw [State.storeCapture_frame]

@[simp] theorem State.storeCapture_ports (r : CaptureRecord) :
    (s.storeCapture r).ports = s.ports := by
  rw [State.storeCapture_frame]

@[simp] theorem State.storeCapture_trails (r : CaptureRecord) :
    (s.storeCapture r).trails = s.trails := by
  rw [State.storeCapture_frame]

@[simp] theorem State.storeCapture_resetCause (r : CaptureRecord) :
    (s.storeCapture r).resetCause = s.resetCause := by
  rw [State.storeCapture_frame]

@[simp] theorem State.storeCapture_inFullReset (r : CaptureRecord) :
    (s.storeCapture r).inFullReset = s.inFullReset := by
  rw [State.storeCapture_frame]

@[simp] theorem State.storeCapture_pending (r : CaptureRecord) :
    (s.storeCapture r).pending = s.pending := by
  rw [State.storeCapture_frame]

@[simp] theorem State.storeCapture_freeCount (r : CaptureRecord) :
    (s.storeCapture r).freeCount = s.freeCount := by
  rw [State.storeCapture_frame]

/-- What the log holds after the fate of a record (R133, R134). -/
theorem State.storeCapture_capture (r : CaptureRecord) :
    (s.storeCapture r).capture =
      if r.readers = 0 ∨ 32 ≤ s.capture.log.length ∨ ∃ y ∈ s.capture.log, y.seq = r.seq then
        s.capture
      else { s.capture with log := s.capture.log ++ [r] } := by
  unfold State.storeCapture
  by_cases h1 : r.readers = 0
  · rw [if_pos h1, if_pos (Or.inl h1)]
  · rw [if_neg h1]
    by_cases h2 : logRoom ≤ s.capture.log.length
    · have h2' : 32 ≤ s.capture.log.length := h2
      rw [if_pos h2, if_pos (Or.inr (Or.inl h2')), State.dropCapture_capture]
    · rw [if_neg h2]
      have h3 : (s.capture.log.any fun x => decide (x.seq = r.seq)) = true ↔
          ∃ y ∈ s.capture.log, y.seq = r.seq := by
        simp only [List.any_eq_true, decide_eq_true_eq]
      by_cases h4 : ∃ y ∈ s.capture.log, y.seq = r.seq
      · rw [if_pos (h3.mpr h4), if_pos (Or.inr (Or.inr h4)), State.dropCapture_capture]
      · rw [if_neg fun c => h4 (h3.mp c)]
        have hn : ¬ (r.readers = 0 ∨ 32 ≤ s.capture.log.length
            ∨ ∃ y ∈ s.capture.log, y.seq = r.seq) := by
          rintro (c | c | c)
          · exact h1 c
          · exact h2 c
          · exact h4 c
        rw [if_neg hn]
        unfold State.appendCapture
        rw [State.postWhere_capture, State.mapCapture_capture]

/-- A CAPTURE_TRIGGERED reaches the notice queues alone (R132). -/
theorem State.postTriggered_frame (r : CaptureRecord) (c : Schedule) (i : SlotIx) :
    State.postTriggered r c s i =
      { s with notices := (State.postTriggered r c s i).notices } := by
  have hv : ∃ v, State.postTriggered r c s i = { s with notices := v } := by
    unfold State.postTriggered
    split
    · exact ⟨s.notices, rfl⟩
    · dsimp only
      split
      · exact ⟨_, State.post_frame s _ _⟩
      · exact ⟨s.notices, rfl⟩
  obtain ⟨v, hv⟩ := hv
  rw [hv]

/-- The hand-over of a capture reaches the schedule, the references of lines and notice queues alone (R132). -/
theorem State.handOverCapture_frame (r : CaptureRecord) :
    s.handOverCapture r =
      { s with
        schedule := (s.handOverCapture r).schedule
        lines := (s.handOverCapture r).lines
        notices := (s.handOverCapture r).notices } := by
  have hv : ∃ v1 v2 v3, s.handOverCapture r = { s with schedule := v1, lines := v2, notices := v3 } := by
    unfold State.handOverCapture
    have hf : ∀ (is : List SlotIx) (t : State) (c : Schedule), ∃ v,
        is.foldl (State.postTriggered r c) t = { t with notices := v } := by
      intro is
      induction is with
      | nil => exact fun t _ => ⟨t.notices, rfl⟩
      | cons i is ih =>
        intro t c
        obtain ⟨m, hx⟩ := ih (State.postTriggered r c t i) c
        exact ⟨m, by rw [List.foldl_cons, hx, State.postTriggered_frame]⟩
    obtain ⟨m, hx⟩ := hf (s.schedule.waiting.get r.input) (s.handOver r.input r.stamp) s.schedule
    exact ⟨_, _, m, by rw [hx, State.handOver_frame]⟩
  obtain ⟨v1, v2, v3, hv⟩ := hv
  rw [hv]

@[simp] theorem State.handOverCapture_timebase (r : CaptureRecord) :
    (s.handOverCapture r).timebase = s.timebase := by
  rw [State.handOverCapture_frame]

@[simp] theorem State.handOverCapture_authority (r : CaptureRecord) :
    (s.handOverCapture r).authority = s.authority := by
  rw [State.handOverCapture_frame]

@[simp] theorem State.handOverCapture_capture (r : CaptureRecord) :
    (s.handOverCapture r).capture = s.capture := by
  rw [State.handOverCapture_frame]

@[simp] theorem State.handOverCapture_ports (r : CaptureRecord) :
    (s.handOverCapture r).ports = s.ports := by
  rw [State.handOverCapture_frame]

@[simp] theorem State.handOverCapture_trails (r : CaptureRecord) :
    (s.handOverCapture r).trails = s.trails := by
  rw [State.handOverCapture_frame]

@[simp] theorem State.handOverCapture_resetCause (r : CaptureRecord) :
    (s.handOverCapture r).resetCause = s.resetCause := by
  rw [State.handOverCapture_frame]

@[simp] theorem State.handOverCapture_inFullReset (r : CaptureRecord) :
    (s.handOverCapture r).inFullReset = s.inFullReset := by
  rw [State.handOverCapture_frame]

@[simp] theorem State.handOverCapture_pending (r : CaptureRecord) :
    (s.handOverCapture r).pending = s.pending := by
  rw [State.handOverCapture_frame]

@[simp] theorem State.handOverCapture_freeCount (r : CaptureRecord) :
    (s.handOverCapture r).freeCount = s.freeCount := by
  rw [State.handOverCapture_frame]

/-- An accepted edge reaches the schedule, the references of lines, the capture unit and notice queues alone (R129). -/
theorem State.acceptEdge_frame (n : InputIx) (d : Edge) :
    s.acceptEdge n d =
      { s with
        schedule := (s.acceptEdge n d).schedule
        lines := (s.acceptEdge n d).lines
        capture := (s.acceptEdge n d).capture
        notices := (s.acceptEdge n d).notices } := by
  have hv : ∃ v1 v2 v3 v4, s.acceptEdge n d = { s with schedule := v1, lines := v2, capture := v3, notices := v4 } := by
    exact ⟨_, _, _, _, by
      unfold State.acceptEdge
      dsimp only
      rw [State.storeCapture_frame, State.handOverCapture_frame]; rfl⟩
  obtain ⟨v1, v2, v3, v4, hv⟩ := hv
  rw [hv]

@[simp] theorem State.acceptEdge_timebase (n : InputIx) (d : Edge) :
    (s.acceptEdge n d).timebase = s.timebase := by
  rw [State.acceptEdge_frame]

@[simp] theorem State.acceptEdge_authority (n : InputIx) (d : Edge) :
    (s.acceptEdge n d).authority = s.authority := by
  rw [State.acceptEdge_frame]

@[simp] theorem State.acceptEdge_ports (n : InputIx) (d : Edge) :
    (s.acceptEdge n d).ports = s.ports := by
  rw [State.acceptEdge_frame]

@[simp] theorem State.acceptEdge_trails (n : InputIx) (d : Edge) :
    (s.acceptEdge n d).trails = s.trails := by
  rw [State.acceptEdge_frame]

@[simp] theorem State.acceptEdge_resetCause (n : InputIx) (d : Edge) :
    (s.acceptEdge n d).resetCause = s.resetCause := by
  rw [State.acceptEdge_frame]

@[simp] theorem State.acceptEdge_inFullReset (n : InputIx) (d : Edge) :
    (s.acceptEdge n d).inFullReset = s.inFullReset := by
  rw [State.acceptEdge_frame]

@[simp] theorem State.acceptEdge_pending (n : InputIx) (d : Edge) :
    (s.acceptEdge n d).pending = s.pending := by
  rw [State.acceptEdge_frame]

@[simp] theorem State.acceptEdge_freeCount (n : InputIx) (d : Edge) :
    (s.acceptEdge n d).freeCount = s.freeCount := by
  rw [State.acceptEdge_frame]

/-- An edge reaches the schedule, the references of lines, the capture unit and notice queues alone (R126). -/
theorem State.takeEdge_frame (n : InputIx) (d : Edge) :
    s.takeEdge n d =
      { s with
        schedule := (s.takeEdge n d).schedule
        lines := (s.takeEdge n d).lines
        capture := (s.takeEdge n d).capture
        notices := (s.takeEdge n d).notices } := by
  have hv : ∃ v1 v2 v3 v4, s.takeEdge n d = { s with schedule := v1, lines := v2, capture := v3, notices := v4 } := by
    unfold State.takeEdge
    split
    · exact ⟨s.schedule, s.lines, s.capture, s.notices, rfl⟩
    · split
      · exact ⟨_, _, _, _, State.acceptEdge_frame s n d⟩
      · exact ⟨s.schedule, s.lines, _, s.notices, rfl⟩
  obtain ⟨v1, v2, v3, v4, hv⟩ := hv
  rw [hv]

@[simp] theorem State.takeEdge_timebase (n : InputIx) (d : Edge) :
    (s.takeEdge n d).timebase = s.timebase := by
  rw [State.takeEdge_frame]

@[simp] theorem State.takeEdge_authority (n : InputIx) (d : Edge) :
    (s.takeEdge n d).authority = s.authority := by
  rw [State.takeEdge_frame]

@[simp] theorem State.takeEdge_ports (n : InputIx) (d : Edge) :
    (s.takeEdge n d).ports = s.ports := by
  rw [State.takeEdge_frame]

@[simp] theorem State.takeEdge_trails (n : InputIx) (d : Edge) :
    (s.takeEdge n d).trails = s.trails := by
  rw [State.takeEdge_frame]

@[simp] theorem State.takeEdge_resetCause (n : InputIx) (d : Edge) :
    (s.takeEdge n d).resetCause = s.resetCause := by
  rw [State.takeEdge_frame]

@[simp] theorem State.takeEdge_inFullReset (n : InputIx) (d : Edge) :
    (s.takeEdge n d).inFullReset = s.inFullReset := by
  rw [State.takeEdge_frame]

@[simp] theorem State.takeEdge_pending (n : InputIx) (d : Edge) :
    (s.takeEdge n d).pending = s.pending := by
  rw [State.takeEdge_frame]

@[simp] theorem State.takeEdge_freeCount (n : InputIx) (d : Edge) :
    (s.takeEdge n d).freeCount = s.freeCount := by
  rw [State.takeEdge_frame]

end Sys2Proof.Machine
end

