-- ==== Sys2Proof/Laws/Time.lean ====
section
/-! SUPPORT. What the timebase's procedures do: the end of a slew, the answers to STOPs, the advance, the microsecond and the step, and what each reaches outside the timebase. -/

namespace Sys2Proof.Machine

variable (s : State)

/-- With no slew there is nothing to end (R15). -/
theorem State.endSlew_none (reason : SlewReason) (h : s.timebase.slew = none) :
    s.endSlew reason = s := by
  unfold State.endSlew
  rw [h]

/-- The end of a slew reaches the timebase and the holder's queue alone (R15). -/
theorem State.endSlew_frame (reason : SlewReason) :
    s.endSlew reason =
      { s with
        timebase := (s.endSlew reason).timebase
        notices := (s.endSlew reason).notices } := by
  have hv : ∃ v1 v2, s.endSlew reason = { s with timebase := v1, notices := v2 } := by
    unfold State.endSlew
    split
    · exact ⟨s.timebase, s.notices, rfl⟩
    · dsimp only
      split
      · exact ⟨_, _, State.post_frame _ _ _⟩
      · exact ⟨_, s.notices, rfl⟩
  obtain ⟨v1, v2, hv⟩ := hv
  rw [hv]

@[simp] theorem State.endSlew_schedule (reason : SlewReason) :
    (s.endSlew reason).schedule = s.schedule := by
  rw [State.endSlew_frame]

@[simp] theorem State.endSlew_lines (reason : SlewReason) :
    (s.endSlew reason).lines = s.lines := by
  rw [State.endSlew_frame]

@[simp] theorem State.endSlew_authority (reason : SlewReason) :
    (s.endSlew reason).authority = s.authority := by
  rw [State.endSlew_frame]

@[simp] theorem State.endSlew_capture (reason : SlewReason) :
    (s.endSlew reason).capture = s.capture := by
  rw [State.endSlew_frame]

@[simp] theorem State.endSlew_ports (reason : SlewReason) :
    (s.endSlew reason).ports = s.ports := by
  rw [State.endSlew_frame]

@[simp] theorem State.endSlew_trails (reason : SlewReason) :
    (s.endSlew reason).trails = s.trails := by
  rw [State.endSlew_frame]

@[simp] theorem State.endSlew_resetCause (reason : SlewReason) :
    (s.endSlew reason).resetCause = s.resetCause := by
  rw [State.endSlew_frame]

@[simp] theorem State.endSlew_inFullReset (reason : SlewReason) :
    (s.endSlew reason).inFullReset = s.inFullReset := by
  rw [State.endSlew_frame]

@[simp] theorem State.endSlew_pending (reason : SlewReason) :
    (s.endSlew reason).pending = s.pending := by
  rw [State.endSlew_frame]

@[simp] theorem State.endSlew_freeCount (reason : SlewReason) :
    (s.endSlew reason).freeCount = s.freeCount := by
  rw [State.endSlew_frame]

/-- The end of a slew leaves no slew, and the rest of the timebase as it was (R15). -/
theorem State.endSlew_timebase (reason : SlewReason) :
    (s.endSlew reason).timebase = { s.timebase with slew := none } := by
  unfold State.endSlew
  cases hs : s.timebase.slew with
  | none =>
    dsimp only
    rw [← hs]
  | some sl =>
    dsimp only
    split
    · rw [State.post_timebase, State.mapTime_timebase]
    · rw [State.mapTime_timebase]

/-- The queues after the end of a slew: the holder alone is told (R15). -/
theorem State.endSlew_told (reason : SlewReason) :
    Told s (s.endSlew reason) fun q =>
      match s.timebase.slew with
      | some sl => if s.holder = some q then [.slewEnded reason sl.remaining] else []
      | none => [] := by
  cases hs : s.timebase.slew with
  | none =>
    rw [State.endSlew_none s reason hs]
    exact Told.none rfl
  | some sl =>
    unfold State.endSlew
    rw [hs]
    dsimp only
    cases hh : s.holder with
    | none => exact (Told.none rfl).congr fun q _ => by simp only [reduceCtorEq, if_false]
    | some p =>
      refine ((Told.none (s := s) (t := s.mapTime fun t => { t with slew := none }) rfl).post p
        (.slewEnded reason sl.remaining) fun _ => rfl).congr fun q _ => ?_
      simp only [List.nil_append, Option.some.injEq]

/-- The answers to the pending STOPs reach the timebase and the port interfaces alone (R7). -/
theorem State.answerStops_frame (st : Status) :
    s.answerStops st =
      { s with
        timebase := (s.answerStops st).timebase
        ports := (s.answerStops st).ports } := by
  have hv : ∃ v1 v2, s.answerStops st = { s with timebase := v1, ports := v2 } := by
    unfold State.answerStops
    have hf : ∀ (ws : List Waiter) (t : State) (pl : List Byte), ∃ v,
        ws.foldl (fun t w => t.answer w.port w.ticket st pl) t = { t with ports := v } := by
      intro ws
      induction ws with
      | nil => exact fun t _ => ⟨t.ports, rfl⟩
      | cons w ws ih =>
        intro t pl
        obtain ⟨m, hx⟩ := ih (t.answer w.port w.ticket st pl) pl
        exact ⟨m, by rw [List.foldl_cons, hx, State.answer_frame]⟩
    obtain ⟨m, hx⟩ := hf s.timebase.stopWaiters s _
    exact ⟨_, m, by rw [hx]; rfl⟩
  obtain ⟨v1, v2, hv⟩ := hv
  rw [hv]

@[simp] theorem State.answerStops_schedule (st : Status) :
    (s.answerStops st).schedule = s.schedule := by
  rw [State.answerStops_frame]

@[simp] theorem State.answerStops_lines (st : Status) :
    (s.answerStops st).lines = s.lines := by
  rw [State.answerStops_frame]

@[simp] theorem State.answerStops_authority (st : Status) :
    (s.answerStops st).authority = s.authority := by
  rw [State.answerStops_frame]

@[simp] theorem State.answerStops_capture (st : Status) :
    (s.answerStops st).capture = s.capture := by
  rw [State.answerStops_frame]

@[simp] theorem State.answerStops_notices (st : Status) :
    (s.answerStops st).notices = s.notices := by
  rw [State.answerStops_frame]

@[simp] theorem State.answerStops_trails (st : Status) :
    (s.answerStops st).trails = s.trails := by
  rw [State.answerStops_frame]

@[simp] theorem State.answerStops_resetCause (st : Status) :
    (s.answerStops st).resetCause = s.resetCause := by
  rw [State.answerStops_frame]

@[simp] theorem State.answerStops_inFullReset (st : Status) :
    (s.answerStops st).inFullReset = s.inFullReset := by
  rw [State.answerStops_frame]

@[simp] theorem State.answerStops_pending (st : Status) :
    (s.answerStops st).pending = s.pending := by
  rw [State.answerStops_frame]

@[simp] theorem State.answerStops_freeCount (st : Status) :
    (s.answerStops st).freeCount = s.freeCount := by
  rw [State.answerStops_frame]

/-- The answers to the pending STOPs leave no STOP pending, and the rest of the timebase as it was. -/
theorem State.answerStops_timebase (st : Status) :
    (s.answerStops st).timebase = { s.timebase with stopWaiters := [] } := by
  have hf : ∀ (ws : List Waiter) (t : State) (pl : List Byte),
      (ws.foldl (fun t w => t.answer w.port w.ticket st pl) t).timebase = t.timebase := by
    intro ws
    induction ws with
    | nil => exact fun _ _ => rfl
    | cons w ws ih => exact fun t pl => (ih _ pl).trans (State.answer_timebase _ _ _ _ _ _)
  unfold State.answerStops
  rw [State.mapTime_timebase, hf]

/-- The answers to the pending STOPs change no session. -/
theorem State.attached_answerStops (st : Status) (q : Port) :
    (s.answerStops st).attached q = s.attached q := by
  have hf : ∀ (ws : List Waiter) (t : State) (pl : List Byte),
      (ws.foldl (fun t w => t.answer w.port w.ticket st pl) t).attached q = t.attached q := by
    intro ws
    induction ws with
    | nil => exact fun _ _ => rfl
    | cons w ws ih => exact fun t pl => (ih _ pl).trans (State.attached_answer _ _ _ _ _ _ _)
  exact hf _ _ _

/-- The end of a STOPPING reaches the timebase, notice queues and port interfaces alone (R7). -/
theorem State.stopCompletes_frame :
    s.stopCompletes =
      { s with
        timebase := (s.stopCompletes).timebase
        notices := (s.stopCompletes).notices
        ports := (s.stopCompletes).ports } := by
  have hv : ∃ v1 v2 v3, s.stopCompletes = { s with timebase := v1, notices := v2, ports := v3 } := by
    exact ⟨_, _, _, by unfold State.stopCompletes; rw [State.postWhere_frame, State.answerStops_frame]; rfl⟩
  obtain ⟨v1, v2, v3, hv⟩ := hv
  rw [hv]

@[simp] theorem State.stopCompletes_schedule :
    (s.stopCompletes).schedule = s.schedule := by
  rw [State.stopCompletes_frame]

@[simp] theorem State.stopCompletes_lines :
    (s.stopCompletes).lines = s.lines := by
  rw [State.stopCompletes_frame]

@[simp] theorem State.stopCompletes_authority :
    (s.stopCompletes).authority = s.authority := by
  rw [State.stopCompletes_frame]

@[simp] theorem State.stopCompletes_capture :
    (s.stopCompletes).capture = s.capture := by
  rw [State.stopCompletes_frame]

@[simp] theorem State.stopCompletes_trails :
    (s.stopCompletes).trails = s.trails := by
  rw [State.stopCompletes_frame]

@[simp] theorem State.stopCompletes_resetCause :
    (s.stopCompletes).resetCause = s.resetCause := by
  rw [State.stopCompletes_frame]

@[simp] theorem State.stopCompletes_inFullReset :
    (s.stopCompletes).inFullReset = s.inFullReset := by
  rw [State.stopCompletes_frame]

@[simp] theorem State.stopCompletes_pending :
    (s.stopCompletes).pending = s.pending := by
  rw [State.stopCompletes_frame]

@[simp] theorem State.stopCompletes_freeCount :
    (s.stopCompletes).freeCount = s.freeCount := by
  rw [State.stopCompletes_frame]

/-- The time end reaches the timebase, notice queues and port interfaces alone (R9). -/
theorem State.timeEnd_frame :
    s.timeEnd =
      { s with
        timebase := (s.timeEnd).timebase
        notices := (s.timeEnd).notices
        ports := (s.timeEnd).ports } := by
  have hv : ∃ v1 v2 v3, s.timeEnd = { s with timebase := v1, notices := v2, ports := v3 } := by
    exact ⟨_, _, _, by
      unfold State.timeEnd
      rw [State.postWhere_frame, State.endSlew_frame, State.answerStops_frame]; rfl⟩
  obtain ⟨v1, v2, v3, hv⟩ := hv
  rw [hv]

@[simp] theorem State.timeEnd_schedule :
    (s.timeEnd).schedule = s.schedule := by
  rw [State.timeEnd_frame]

@[simp] theorem State.timeEnd_lines :
    (s.timeEnd).lines = s.lines := by
  rw [State.timeEnd_frame]

@[simp] theorem State.timeEnd_authority :
    (s.timeEnd).authority = s.authority := by
  rw [State.timeEnd_frame]

@[simp] theorem State.timeEnd_capture :
    (s.timeEnd).capture = s.capture := by
  rw [State.timeEnd_frame]

@[simp] theorem State.timeEnd_trails :
    (s.timeEnd).trails = s.trails := by
  rw [State.timeEnd_frame]

@[simp] theorem State.timeEnd_resetCause :
    (s.timeEnd).resetCause = s.resetCause := by
  rw [State.timeEnd_frame]

@[simp] theorem State.timeEnd_inFullReset :
    (s.timeEnd).inFullReset = s.inFullReset := by
  rw [State.timeEnd_frame]

@[simp] theorem State.timeEnd_pending :
    (s.timeEnd).pending = s.pending := by
  rw [State.timeEnd_frame]

@[simp] theorem State.timeEnd_freeCount :
    (s.timeEnd).freeCount = s.freeCount := by
  rw [State.timeEnd_frame]

/-- What follows an advance in the timebase reaches the timebase, notice queues and port interfaces alone. -/
theorem State.settleState_frame :
    s.settleState =
      { s with
        timebase := (s.settleState).timebase
        notices := (s.settleState).notices
        ports := (s.settleState).ports } := by
  have hv : ∃ v1 v2 v3, s.settleState = { s with timebase := v1, notices := v2, ports := v3 } := by
    unfold State.settleState
    split
    · exact ⟨_, _, _, State.timeEnd_frame s⟩
    · split
      · exact ⟨_, _, _, State.stopCompletes_frame s⟩
      · exact ⟨s.timebase, s.notices, s.ports, rfl⟩
  obtain ⟨v1, v2, v3, hv⟩ := hv
  rw [hv]

@[simp] theorem State.settleState_schedule :
    (s.settleState).schedule = s.schedule := by
  rw [State.settleState_frame]

@[simp] theorem State.settleState_lines :
    (s.settleState).lines = s.lines := by
  rw [State.settleState_frame]

@[simp] theorem State.settleState_authority :
    (s.settleState).authority = s.authority := by
  rw [State.settleState_frame]

@[simp] theorem State.settleState_capture :
    (s.settleState).capture = s.capture := by
  rw [State.settleState_frame]

@[simp] theorem State.settleState_trails :
    (s.settleState).trails = s.trails := by
  rw [State.settleState_frame]

@[simp] theorem State.settleState_resetCause :
    (s.settleState).resetCause = s.resetCause := by
  rw [State.settleState_frame]

@[simp] theorem State.settleState_inFullReset :
    (s.settleState).inFullReset = s.inFullReset := by
  rw [State.settleState_frame]

@[simp] theorem State.settleState_pending :
    (s.settleState).pending = s.pending := by
  rw [State.settleState_frame]

@[simp] theorem State.settleState_freeCount :
    (s.settleState).freeCount = s.freeCount := by
  rw [State.settleState_frame]

/-- The end of a slew that is done reaches the timebase and the holder's queue alone (R13). -/
theorem State.endSlewIfDone_frame :
    s.endSlewIfDone =
      { s with
        timebase := (s.endSlewIfDone).timebase
        notices := (s.endSlewIfDone).notices } := by
  have hv : ∃ v1 v2, s.endSlewIfDone = { s with timebase := v1, notices := v2 } := by
    unfold State.endSlewIfDone
    repeat' split
    all_goals first
      | exact ⟨_, _, State.endSlew_frame s _⟩
      | exact ⟨s.timebase, s.notices, rfl⟩
  obtain ⟨v1, v2, hv⟩ := hv
  rw [hv]

@[simp] theorem State.endSlewIfDone_schedule :
    (s.endSlewIfDone).schedule = s.schedule := by
  rw [State.endSlewIfDone_frame]

@[simp] theorem State.endSlewIfDone_lines :
    (s.endSlewIfDone).lines = s.lines := by
  rw [State.endSlewIfDone_frame]

@[simp] theorem State.endSlewIfDone_authority :
    (s.endSlewIfDone).authority = s.authority := by
  rw [State.endSlewIfDone_frame]

@[simp] theorem State.endSlewIfDone_capture :
    (s.endSlewIfDone).capture = s.capture := by
  rw [State.endSlewIfDone_frame]

@[simp] theorem State.endSlewIfDone_ports :
    (s.endSlewIfDone).ports = s.ports := by
  rw [State.endSlewIfDone_frame]

@[simp] theorem State.endSlewIfDone_trails :
    (s.endSlewIfDone).trails = s.trails := by
  rw [State.endSlewIfDone_frame]

@[simp] theorem State.endSlewIfDone_resetCause :
    (s.endSlewIfDone).resetCause = s.resetCause := by
  rw [State.endSlewIfDone_frame]

@[simp] theorem State.endSlewIfDone_inFullReset :
    (s.endSlewIfDone).inFullReset = s.inFullReset := by
  rw [State.endSlewIfDone_frame]

@[simp] theorem State.endSlewIfDone_pending :
    (s.endSlewIfDone).pending = s.pending := by
  rw [State.endSlewIfDone_frame]

@[simp] theorem State.endSlewIfDone_freeCount :
    (s.endSlewIfDone).freeCount = s.freeCount := by
  rw [State.endSlewIfDone_frame]

/-- An advance reaches the timebase, the schedule, notice queues and port interfaces alone (R3). -/
theorem State.advance_frame :
    s.advance =
      { s with
        timebase := (s.advance).timebase
        schedule := (s.advance).schedule
        notices := (s.advance).notices
        ports := (s.advance).ports } := by
  have hv : ∃ v1 v2 v3 v4, s.advance = { s with timebase := v1, schedule := v2, notices := v3, ports := v4 } := by
    unfold State.advance
    dsimp only
    split
    · exact ⟨_, _, _, _, by
        rw [State.tellAdvance_frame, State.settleState_frame, State.endSlewIfDone_frame]; rfl⟩
    · exact ⟨_, s.schedule, _, _, by rw [State.settleState_frame, State.endSlewIfDone_frame]; rfl⟩
  obtain ⟨v1, v2, v3, v4, hv⟩ := hv
  rw [hv]

@[simp] theorem State.advance_lines :
    (s.advance).lines = s.lines := by
  rw [State.advance_frame]

@[simp] theorem State.advance_authority :
    (s.advance).authority = s.authority := by
  rw [State.advance_frame]

@[simp] theorem State.advance_capture :
    (s.advance).capture = s.capture := by
  rw [State.advance_frame]

@[simp] theorem State.advance_trails :
    (s.advance).trails = s.trails := by
  rw [State.advance_frame]

@[simp] theorem State.advance_resetCause :
    (s.advance).resetCause = s.resetCause := by
  rw [State.advance_frame]

@[simp] theorem State.advance_inFullReset :
    (s.advance).inFullReset = s.inFullReset := by
  rw [State.advance_frame]

@[simp] theorem State.advance_pending :
    (s.advance).pending = s.pending := by
  rw [State.advance_frame]

@[simp] theorem State.advance_freeCount :
    (s.advance).freeCount = s.freeCount := by
  rw [State.advance_frame]

/-- The counts of a reference microsecond reach the dividers, the age of a pass and the holdoffs alone (R1, R128). -/
theorem State.countMicrosecond_frame :
    s.countMicrosecond =
      { s with
        timebase := (s.countMicrosecond).timebase
        schedule := (s.countMicrosecond).schedule
        capture := (s.countMicrosecond).capture } := by
  have hv : ∃ v1 v2 v3, s.countMicrosecond = { s with timebase := v1, schedule := v2, capture := v3 } := by
    exact ⟨_, _, _, rfl⟩
  obtain ⟨v1, v2, v3, hv⟩ := hv
  rw [hv]

@[simp] theorem State.countMicrosecond_lines :
    (s.countMicrosecond).lines = s.lines := by
  rw [State.countMicrosecond_frame]

@[simp] theorem State.countMicrosecond_authority :
    (s.countMicrosecond).authority = s.authority := by
  rw [State.countMicrosecond_frame]

@[simp] theorem State.countMicrosecond_notices :
    (s.countMicrosecond).notices = s.notices := by
  rw [State.countMicrosecond_frame]

@[simp] theorem State.countMicrosecond_ports :
    (s.countMicrosecond).ports = s.ports := by
  rw [State.countMicrosecond_frame]

@[simp] theorem State.countMicrosecond_trails :
    (s.countMicrosecond).trails = s.trails := by
  rw [State.countMicrosecond_frame]

@[simp] theorem State.countMicrosecond_resetCause :
    (s.countMicrosecond).resetCause = s.resetCause := by
  rw [State.countMicrosecond_frame]

@[simp] theorem State.countMicrosecond_inFullReset :
    (s.countMicrosecond).inFullReset = s.inFullReset := by
  rw [State.countMicrosecond_frame]

@[simp] theorem State.countMicrosecond_pending :
    (s.countMicrosecond).pending = s.pending := by
  rw [State.countMicrosecond_frame]

@[simp] theorem State.countMicrosecond_freeCount :
    (s.countMicrosecond).freeCount = s.freeCount := by
  rw [State.countMicrosecond_frame]

/-- A reference microsecond reaches everything but the authority unit, the reset flags and the queue of commands (R1). -/
theorem State.microsecond_frame :
    s.microsecond =
      { s with
        timebase := (s.microsecond).timebase
        schedule := (s.microsecond).schedule
        lines := (s.microsecond).lines
        capture := (s.microsecond).capture
        notices := (s.microsecond).notices
        ports := (s.microsecond).ports
        trails := (s.microsecond).trails } := by
  have hv : ∃ v1 v2 v3 v4 v5 v6 v7, s.microsecond = { s with timebase := v1, schedule := v2, lines := v3, capture := v4, notices := v5, ports := v6, trails := v7 } := by
    unfold State.microsecond
    dsimp only
    split
    · split
      · exact ⟨_, _, _, _, s.notices, _, s.completePass.noted.trails, by
          rw [State.countMicrosecond_frame, State.noted, State.completePass_frame]⟩
      · exact ⟨_, _, _, _, _, _, s.completePass.noted.trails, by
          rw [State.advance_frame, State.countMicrosecond_frame, State.noted,
            State.completePass_frame]⟩
    · split
      · exact ⟨_, _, s.lines, _, s.notices, s.ports, s.trails, State.countMicrosecond_frame s⟩
      · exact ⟨_, _, s.lines, _, _, _, s.trails, by
          rw [State.advance_frame, State.countMicrosecond_frame]⟩
  obtain ⟨v1, v2, v3, v4, v5, v6, v7, hv⟩ := hv
  rw [hv]

@[simp] theorem State.microsecond_authority :
    (s.microsecond).authority = s.authority := by
  rw [State.microsecond_frame]

@[simp] theorem State.microsecond_resetCause :
    (s.microsecond).resetCause = s.resetCause := by
  rw [State.microsecond_frame]

@[simp] theorem State.microsecond_inFullReset :
    (s.microsecond).inFullReset = s.inFullReset := by
  rw [State.microsecond_frame]

@[simp] theorem State.microsecond_pending :
    (s.microsecond).pending = s.pending := by
  rw [State.microsecond_frame]

@[simp] theorem State.microsecond_freeCount :
    (s.microsecond).freeCount = s.freeCount := by
  rw [State.microsecond_frame]

/-- A step reaches the timebase, the schedule, lines and notice queues alone (R17). -/
theorem State.takeStep_frame (w : Waiter) (newNow : Nat) :
    s.takeStep w newNow =
      { s with
        timebase := (s.takeStep w newNow).timebase
        schedule := (s.takeStep w newNow).schedule
        lines := (s.takeStep w newNow).lines
        notices := (s.takeStep w newNow).notices } := by
  have hv : ∃ v1 v2 v3 v4, s.takeStep w newNow = { s with timebase := v1, schedule := v2, lines := v3, notices := v4 } := by
    exact ⟨_, _, _, _, by
      unfold State.takeStep
      dsimp only
      rw [State.scheduleStep_frame, State.postWhere_frame, State.endSlew_frame]; rfl⟩
  obtain ⟨v1, v2, v3, v4, hv⟩ := hv
  rw [hv]

@[simp] theorem State.takeStep_authority (w : Waiter) (newNow : Nat) :
    (s.takeStep w newNow).authority = s.authority := by
  rw [State.takeStep_frame]

@[simp] theorem State.takeStep_capture (w : Waiter) (newNow : Nat) :
    (s.takeStep w newNow).capture = s.capture := by
  rw [State.takeStep_frame]

@[simp] theorem State.takeStep_ports (w : Waiter) (newNow : Nat) :
    (s.takeStep w newNow).ports = s.ports := by
  rw [State.takeStep_frame]

@[simp] theorem State.takeStep_trails (w : Waiter) (newNow : Nat) :
    (s.takeStep w newNow).trails = s.trails := by
  rw [State.takeStep_frame]

@[simp] theorem State.takeStep_resetCause (w : Waiter) (newNow : Nat) :
    (s.takeStep w newNow).resetCause = s.resetCause := by
  rw [State.takeStep_frame]

@[simp] theorem State.takeStep_inFullReset (w : Waiter) (newNow : Nat) :
    (s.takeStep w newNow).inFullReset = s.inFullReset := by
  rw [State.takeStep_frame]

@[simp] theorem State.takeStep_pending (w : Waiter) (newNow : Nat) :
    (s.takeStep w newNow).pending = s.pending := by
  rw [State.takeStep_frame]

@[simp] theorem State.takeStep_freeCount (w : Waiter) (newNow : Nat) :
    (s.takeStep w newNow).freeCount = s.freeCount := by
  rw [State.takeStep_frame]

/-- A step leaves Now, the epoch and the slew as R17 says, and the rest of the timebase as it was. -/
theorem State.takeStep_timebase (w : Waiter) (newNow : Nat) :
    (s.takeStep w newNow).timebase =
      { s.timebase with now := newNow, epoch := s.timebase.epoch + 1, slew := none } := by
  unfold State.takeStep
  dsimp only
  rw [State.scheduleStep_timebase, State.postWhere_timebase, State.endSlew_timebase,
    State.mapTime_timebase]

/-- Now moves by the advance amount, within its range (R3). -/
theorem Timebase.advancedNow_le (t : Timebase) : t.advancedNow ≤ maxNow := Nat.min_le_right _ _

/-- The advance amount is 0, 1 or 2 (R3, R12). -/
theorem advanceAmount_le (slew : Option Slew) : advanceAmount slew ≤ 2 := by
  unfold advanceAmount
  repeat' split
  all_goals omega

/-- One slew microsecond keeps the accumulator below 1,000,000 (R12). -/
theorem Slew.tick_accumulator (sl : Slew) (h : sl.Wf) : sl.tick.accumulator < 1000000 := by
  obtain ⟨_, h1, h2, _, _, _, h3⟩ := h
  unfold Slew.tick Slew.corrects Slew.gained
  dsimp only
  split
  · omega
  · next hc =>
    rw [decide_eq_true_eq] at hc
    omega

end Sys2Proof.Machine
end

