-- ==== Sys2Proof/Laws/Session.lean ====
section
/-! SUPPORT. What a detach and a port reset reach. -/

namespace Sys2Proof.Machine

variable (s : State)

/-- A detach leaves the timebase, the reset flags and the queue of commands as they are (R182). -/
theorem State.detach_frame (p : Port) :
    s.detach p =
      { s with
        schedule := (s.detach p).schedule
        lines := (s.detach p).lines
        authority := (s.detach p).authority
        capture := (s.detach p).capture
        notices := (s.detach p).notices
        ports := (s.detach p).ports } := by
  have hv : ∃ v1 v2 v3 v4 v5 v6, s.detach p = { s with schedule := v1, lines := v2, authority := v3, capture := v4, notices := v5, ports := v6 } := by
    exact ⟨_, _, _, _, _, _, by
      unfold State.detach
      rw [State.orphanEntries_frame, State.detachAuthority_frame]; rfl⟩
  obtain ⟨v1, v2, v3, v4, v5, v6, hv⟩ := hv
  rw [hv]

@[simp] theorem State.detach_timebase (p : Port) :
    (s.detach p).timebase = s.timebase := by
  rw [State.detach_frame]

@[simp] theorem State.detach_trails (p : Port) :
    (s.detach p).trails = s.trails := by
  rw [State.detach_frame]

@[simp] theorem State.detach_resetCause (p : Port) :
    (s.detach p).resetCause = s.resetCause := by
  rw [State.detach_frame]

@[simp] theorem State.detach_inFullReset (p : Port) :
    (s.detach p).inFullReset = s.inFullReset := by
  rw [State.detach_frame]

@[simp] theorem State.detach_pending (p : Port) :
    (s.detach p).pending = s.pending := by
  rw [State.detach_frame]

@[simp] theorem State.detach_freeCount (p : Port) :
    (s.detach p).freeCount = s.freeCount := by
  rw [State.detach_frame]

/-- A port reset leaves the timebase, the reset flags and the queue of commands as they are (R175). -/
theorem State.resetPort_frame (p : Port) :
    s.resetPort p =
      { s with
        schedule := (s.resetPort p).schedule
        lines := (s.resetPort p).lines
        authority := (s.resetPort p).authority
        capture := (s.resetPort p).capture
        notices := (s.resetPort p).notices
        ports := (s.resetPort p).ports
        trails := (s.resetPort p).trails } := by
  have hv : ∃ v1 v2 v3 v4 v5 v6 v7, s.resetPort p = { s with schedule := v1, lines := v2, authority := v3, capture := v4, notices := v5, ports := v6, trails := v7 } := by
    unfold State.resetPort
    dsimp only
    split
    · exact ⟨s.schedule, s.lines, s.authority, s.capture, s.notices, _, s.trails, rfl⟩
    · split
      · exact ⟨_, _, _, _, _, _, s.noted.trails, by rw [State.detach_frame]; rfl⟩
      · exact ⟨s.schedule, s.lines, s.authority, s.capture, s.notices, _, s.noted.trails, rfl⟩
  obtain ⟨v1, v2, v3, v4, v5, v6, v7, hv⟩ := hv
  rw [hv]

@[simp] theorem State.resetPort_timebase (p : Port) :
    (s.resetPort p).timebase = s.timebase := by
  rw [State.resetPort_frame]

@[simp] theorem State.resetPort_resetCause (p : Port) :
    (s.resetPort p).resetCause = s.resetCause := by
  rw [State.resetPort_frame]

@[simp] theorem State.resetPort_inFullReset (p : Port) :
    (s.resetPort p).inFullReset = s.inFullReset := by
  rw [State.resetPort_frame]

@[simp] theorem State.resetPort_pending (p : Port) :
    (s.resetPort p).pending = s.pending := by
  rw [State.resetPort_frame]

@[simp] theorem State.resetPort_freeCount (p : Port) :
    (s.resetPort p).freeCount = s.freeCount := by
  rw [State.resetPort_frame]

/-- The port interfaces after a detach: the session of one port is closed (R182 part 1). -/
theorem State.detach_ports (p : Port) :
    (s.detach p).ports = s.ports.upd p fun i => { i with session := .detached } := by
  unfold State.detach
  rw [State.orphanEntries_ports, State.detachAuthority_ports, State.mapCapture_ports,
    State.mapQueue_ports, State.mapPort_ports]

end Sys2Proof.Machine
end

