-- ==== Sys2Proof/Laws/Exec.lean ====
section
/-! SUPPORT. What the taking of each kind of request leaves as it is, and what every command leaves: the queue of commands. -/

namespace Sys2Proof.Machine

variable (s : State)

/-- A purge reaches the schedule, the references of lines and notice queues alone (R48). -/
theorem State.purge_frame (p q : Port) :
    s.purge p q =
      { s with
        schedule := (s.purge p q).schedule
        lines := (s.purge p q).lines
        notices := (s.purge p q).notices } := by
  have hv : ∃ v1 v2 v3, s.purge p q = { s with schedule := v1, lines := v2, notices := v3 } := by
    unfold State.purge
    generalize s.schedule.slotsWhere _ = is
    induction is generalizing s with
    | nil => exact ⟨s.schedule, s.lines, s.notices, rfl⟩
    | cons i is ih =>
      obtain ⟨m, n, l, hx⟩ := ih (if q = p then s.freeEntry i else s.freeAndTell i .purged)
      refine ⟨m, n, l, ?_⟩
      rw [List.foldl_cons, hx]
      split
      · rw [State.freeEntry_frame]
      · rw [State.freeAndTell_frame]
  obtain ⟨v1, v2, v3, hv⟩ := hv
  rw [hv]

@[simp] theorem State.purge_timebase (p q : Port) :
    (s.purge p q).timebase = s.timebase := by
  rw [State.purge_frame]

@[simp] theorem State.purge_authority (p q : Port) :
    (s.purge p q).authority = s.authority := by
  rw [State.purge_frame]

@[simp] theorem State.purge_capture (p q : Port) :
    (s.purge p q).capture = s.capture := by
  rw [State.purge_frame]

@[simp] theorem State.purge_ports (p q : Port) :
    (s.purge p q).ports = s.ports := by
  rw [State.purge_frame]

@[simp] theorem State.purge_trails (p q : Port) :
    (s.purge p q).trails = s.trails := by
  rw [State.purge_frame]

@[simp] theorem State.purge_resetCause (p q : Port) :
    (s.purge p q).resetCause = s.resetCause := by
  rw [State.purge_frame]

@[simp] theorem State.purge_inFullReset (p q : Port) :
    (s.purge p q).inFullReset = s.inFullReset := by
  rw [State.purge_frame]

@[simp] theorem State.purge_pending (p q : Port) :
    (s.purge p q).pending = s.pending := by
  rw [State.purge_frame]

@[simp] theorem State.purge_freeCount (p q : Port) :
    (s.purge p q).freeCount = s.freeCount := by
  rw [State.purge_frame]

/-! ### The requests -/

/-- What the taking of attach leaves as it is. -/
theorem State.attachTaken_keeps (p : Port) (k : BitVec 16) :
    (State.attachTaken p k s).timebase = s.timebase
      ∧ (State.attachTaken p k s).lines = s.lines
      ∧ (State.attachTaken p k s).authority = s.authority
      ∧ (State.attachTaken p k s).capture = s.capture
      ∧ (State.attachTaken p k s).trails = s.trails
      ∧ (State.attachTaken p k s).resetCause = s.resetCause
      ∧ (State.attachTaken p k s).inFullReset = s.inFullReset
      ∧ (State.attachTaken p k s).pending = s.pending
      ∧ (State.attachTaken p k s).freeCount = s.freeCount := by
  unfold State.attachTaken State.openSession
  repeat' (first | split | dsimp only)
  all_goals simp

/-- What the taking of detach leaves as it is. -/
theorem State.detachTaken_keeps (p : Port) (k : BitVec 16) :
    (State.detachTaken p k s).timebase = s.timebase
      ∧ (State.detachTaken p k s).trails = s.trails
      ∧ (State.detachTaken p k s).resetCause = s.resetCause
      ∧ (State.detachTaken p k s).inFullReset = s.inFullReset
      ∧ (State.detachTaken p k s).pending = s.pending
      ∧ (State.detachTaken p k s).freeCount = s.freeCount := by
  unfold State.detachTaken
  simp

/-- What the taking of attention leaves as it is. -/
theorem State.attentionTaken_keeps (p : Port) (pl : List Byte) (k : BitVec 16) :
    (State.attentionTaken p pl k s).timebase = s.timebase
      ∧ (State.attentionTaken p pl k s).schedule = s.schedule
      ∧ (State.attentionTaken p pl k s).lines = s.lines
      ∧ (State.attentionTaken p pl k s).authority = s.authority
      ∧ (State.attentionTaken p pl k s).capture = s.capture
      ∧ (State.attentionTaken p pl k s).trails = s.trails
      ∧ (State.attentionTaken p pl k s).resetCause = s.resetCause
      ∧ (State.attentionTaken p pl k s).inFullReset = s.inFullReset
      ∧ (State.attentionTaken p pl k s).pending = s.pending
      ∧ (State.attentionTaken p pl k s).freeCount = s.freeCount := by
  unfold State.attentionTaken
  repeat' (first | split | dsimp only)
  all_goals simp

/-- What the taking of fetch leaves as it is. -/
theorem State.fetchTaken_keeps (p : Port) (pl : List Byte) (k : BitVec 16) :
    (State.fetchTaken p pl k s).timebase = s.timebase
      ∧ (State.fetchTaken p pl k s).schedule = s.schedule
      ∧ (State.fetchTaken p pl k s).lines = s.lines
      ∧ (State.fetchTaken p pl k s).authority = s.authority
      ∧ (State.fetchTaken p pl k s).capture = s.capture
      ∧ (State.fetchTaken p pl k s).notices = s.notices
      ∧ (State.fetchTaken p pl k s).trails = s.trails
      ∧ (State.fetchTaken p pl k s).resetCause = s.resetCause
      ∧ (State.fetchTaken p pl k s).inFullReset = s.inFullReset
      ∧ (State.fetchTaken p pl k s).pending = s.pending
      ∧ (State.fetchTaken p pl k s).freeCount = s.freeCount := by
  unfold State.fetchTaken
  repeat' (first | split | dsimp only)
  all_goals simp

/-- What the taking of ack leaves as it is. -/
theorem State.ackTaken_keeps (p : Port) (pl : List Byte) (k : BitVec 16) :
    (State.ackTaken p pl k s).timebase = s.timebase
      ∧ (State.ackTaken p pl k s).schedule = s.schedule
      ∧ (State.ackTaken p pl k s).lines = s.lines
      ∧ (State.ackTaken p pl k s).authority = s.authority
      ∧ (State.ackTaken p pl k s).capture = s.capture
      ∧ (State.ackTaken p pl k s).trails = s.trails
      ∧ (State.ackTaken p pl k s).resetCause = s.resetCause
      ∧ (State.ackTaken p pl k s).inFullReset = s.inFullReset
      ∧ (State.ackTaken p pl k s).pending = s.pending
      ∧ (State.ackTaken p pl k s).freeCount = s.freeCount := by
  unfold State.ackTaken
  repeat' (first | split | dsimp only)
  all_goals simp

/-- What the taking of queryTime leaves as it is. -/
theorem State.queryTimeTaken_keeps (p : Port) (k : BitVec 16) :
    (State.queryTimeTaken p k s).timebase = s.timebase
      ∧ (State.queryTimeTaken p k s).schedule = s.schedule
      ∧ (State.queryTimeTaken p k s).lines = s.lines
      ∧ (State.queryTimeTaken p k s).authority = s.authority
      ∧ (State.queryTimeTaken p k s).capture = s.capture
      ∧ (State.queryTimeTaken p k s).notices = s.notices
      ∧ (State.queryTimeTaken p k s).trails = s.trails
      ∧ (State.queryTimeTaken p k s).resetCause = s.resetCause
      ∧ (State.queryTimeTaken p k s).inFullReset = s.inFullReset
      ∧ (State.queryTimeTaken p k s).pending = s.pending
      ∧ (State.queryTimeTaken p k s).freeCount = s.freeCount := by
  unfold State.queryTimeTaken
  simp

/-- What the taking of start leaves as it is. -/
theorem State.startTaken_keeps (p : Port) (k : BitVec 16) :
    (State.startTaken p k s).schedule = s.schedule
      ∧ (State.startTaken p k s).lines = s.lines
      ∧ (State.startTaken p k s).authority = s.authority
      ∧ (State.startTaken p k s).capture = s.capture
      ∧ (State.startTaken p k s).trails = s.trails
      ∧ (State.startTaken p k s).resetCause = s.resetCause
      ∧ (State.startTaken p k s).inFullReset = s.inFullReset
      ∧ (State.startTaken p k s).pending = s.pending
      ∧ (State.startTaken p k s).freeCount = s.freeCount := by
  unfold State.startTaken
  repeat' (first | split | dsimp only)
  all_goals simp

/-- What the taking of stop leaves as it is. -/
theorem State.stopTaken_keeps (p : Port) (k : BitVec 16) :
    (State.stopTaken p k s).schedule = s.schedule
      ∧ (State.stopTaken p k s).lines = s.lines
      ∧ (State.stopTaken p k s).authority = s.authority
      ∧ (State.stopTaken p k s).capture = s.capture
      ∧ (State.stopTaken p k s).notices = s.notices
      ∧ (State.stopTaken p k s).trails = s.trails
      ∧ (State.stopTaken p k s).resetCause = s.resetCause
      ∧ (State.stopTaken p k s).inFullReset = s.inFullReset
      ∧ (State.stopTaken p k s).pending = s.pending
      ∧ (State.stopTaken p k s).freeCount = s.freeCount := by
  unfold State.stopTaken
  repeat' (first | split | dsimp only)
  all_goals simp

/-- What the taking of step leaves as it is. -/
theorem State.stepTaken_keeps (p : Port) (pl : List Byte) (k : BitVec 16) :
    (State.stepTaken p pl k s).authority = s.authority
      ∧ (State.stepTaken p pl k s).capture = s.capture
      ∧ (State.stepTaken p pl k s).trails = s.trails
      ∧ (State.stepTaken p pl k s).resetCause = s.resetCause
      ∧ (State.stepTaken p pl k s).inFullReset = s.inFullReset
      ∧ (State.stepTaken p pl k s).pending = s.pending
      ∧ (State.stepTaken p pl k s).freeCount = s.freeCount := by
  unfold State.stepTaken
  repeat' (first | split | dsimp only)
  all_goals simp

/-- What the taking of slew leaves as it is. -/
theorem State.slewTaken_keeps (p : Port) (pl : List Byte) (k : BitVec 16) :
    (State.slewTaken p pl k s).schedule = s.schedule
      ∧ (State.slewTaken p pl k s).lines = s.lines
      ∧ (State.slewTaken p pl k s).authority = s.authority
      ∧ (State.slewTaken p pl k s).capture = s.capture
      ∧ (State.slewTaken p pl k s).trails = s.trails
      ∧ (State.slewTaken p pl k s).resetCause = s.resetCause
      ∧ (State.slewTaken p pl k s).inFullReset = s.inFullReset
      ∧ (State.slewTaken p pl k s).pending = s.pending
      ∧ (State.slewTaken p pl k s).freeCount = s.freeCount := by
  unfold State.slewTaken
  repeat' (first | split | dsimp only)
  all_goals simp

/-- What the taking of add leaves as it is. -/
theorem State.addTaken_keeps (p : Port) (pl : List Byte) (k : BitVec 16) :
    (State.addTaken p pl k s).timebase = s.timebase
      ∧ (State.addTaken p pl k s).authority = s.authority
      ∧ (State.addTaken p pl k s).capture = s.capture
      ∧ (State.addTaken p pl k s).notices = s.notices
      ∧ (State.addTaken p pl k s).trails = s.trails
      ∧ (State.addTaken p pl k s).resetCause = s.resetCause
      ∧ (State.addTaken p pl k s).inFullReset = s.inFullReset
      ∧ (State.addTaken p pl k s).pending = s.pending
      ∧ (State.addTaken p pl k s).freeCount = s.freeCount := by
  unfold State.addTaken State.createEntry
  repeat' (first | split | dsimp only)
  all_goals simp

/-- What the taking of cancel leaves as it is. -/
theorem State.cancelTaken_keeps (p : Port) (pl : List Byte) (k : BitVec 16) :
    (State.cancelTaken p pl k s).timebase = s.timebase
      ∧ (State.cancelTaken p pl k s).authority = s.authority
      ∧ (State.cancelTaken p pl k s).capture = s.capture
      ∧ (State.cancelTaken p pl k s).notices = s.notices
      ∧ (State.cancelTaken p pl k s).trails = s.trails
      ∧ (State.cancelTaken p pl k s).resetCause = s.resetCause
      ∧ (State.cancelTaken p pl k s).inFullReset = s.inFullReset
      ∧ (State.cancelTaken p pl k s).pending = s.pending
      ∧ (State.cancelTaken p pl k s).freeCount = s.freeCount := by
  unfold State.cancelTaken State.ownEntry State.handleCheck
  repeat' (first | split | dsimp only)
  all_goals simp

/-- What the taking of hold leaves as it is. -/
theorem State.holdTaken_keeps (p : Port) (pl : List Byte) (k : BitVec 16) :
    (State.holdTaken p pl k s).timebase = s.timebase
      ∧ (State.holdTaken p pl k s).lines = s.lines
      ∧ (State.holdTaken p pl k s).authority = s.authority
      ∧ (State.holdTaken p pl k s).capture = s.capture
      ∧ (State.holdTaken p pl k s).notices = s.notices
      ∧ (State.holdTaken p pl k s).trails = s.trails
      ∧ (State.holdTaken p pl k s).resetCause = s.resetCause
      ∧ (State.holdTaken p pl k s).inFullReset = s.inFullReset
      ∧ (State.holdTaken p pl k s).pending = s.pending
      ∧ (State.holdTaken p pl k s).freeCount = s.freeCount := by
  unfold State.holdTaken State.ownEntry State.handleCheck
  repeat' (first | split | dsimp only)
  all_goals simp

/-- What the taking of resume leaves as it is. -/
theorem State.resumeTaken_keeps (p : Port) (pl : List Byte) (k : BitVec 16) :
    (State.resumeTaken p pl k s).timebase = s.timebase
      ∧ (State.resumeTaken p pl k s).lines = s.lines
      ∧ (State.resumeTaken p pl k s).authority = s.authority
      ∧ (State.resumeTaken p pl k s).capture = s.capture
      ∧ (State.resumeTaken p pl k s).notices = s.notices
      ∧ (State.resumeTaken p pl k s).trails = s.trails
      ∧ (State.resumeTaken p pl k s).resetCause = s.resetCause
      ∧ (State.resumeTaken p pl k s).inFullReset = s.inFullReset
      ∧ (State.resumeTaken p pl k s).pending = s.pending
      ∧ (State.resumeTaken p pl k s).freeCount = s.freeCount := by
  unfold State.resumeTaken State.ownEntry State.handleCheck
  repeat' (first | split | dsimp only)
  all_goals simp

/-- What the taking of entryQuery leaves as it is. -/
theorem State.entryQueryTaken_keeps (p : Port) (pl : List Byte) (k : BitVec 16) :
    (State.entryQueryTaken p pl k s).timebase = s.timebase
      ∧ (State.entryQueryTaken p pl k s).schedule = s.schedule
      ∧ (State.entryQueryTaken p pl k s).lines = s.lines
      ∧ (State.entryQueryTaken p pl k s).authority = s.authority
      ∧ (State.entryQueryTaken p pl k s).capture = s.capture
      ∧ (State.entryQueryTaken p pl k s).notices = s.notices
      ∧ (State.entryQueryTaken p pl k s).trails = s.trails
      ∧ (State.entryQueryTaken p pl k s).resetCause = s.resetCause
      ∧ (State.entryQueryTaken p pl k s).inFullReset = s.inFullReset
      ∧ (State.entryQueryTaken p pl k s).pending = s.pending
      ∧ (State.entryQueryTaken p pl k s).freeCount = s.freeCount := by
  unfold State.entryQueryTaken State.handleCheck
  repeat' (first | split | dsimp only)
  all_goals simp

/-- What the taking of nextQuery leaves as it is. -/
theorem State.nextQueryTaken_keeps (p : Port) (k : BitVec 16) :
    (State.nextQueryTaken p k s).timebase = s.timebase
      ∧ (State.nextQueryTaken p k s).schedule = s.schedule
      ∧ (State.nextQueryTaken p k s).lines = s.lines
      ∧ (State.nextQueryTaken p k s).authority = s.authority
      ∧ (State.nextQueryTaken p k s).capture = s.capture
      ∧ (State.nextQueryTaken p k s).notices = s.notices
      ∧ (State.nextQueryTaken p k s).trails = s.trails
      ∧ (State.nextQueryTaken p k s).resetCause = s.resetCause
      ∧ (State.nextQueryTaken p k s).inFullReset = s.inFullReset
      ∧ (State.nextQueryTaken p k s).pending = s.pending
      ∧ (State.nextQueryTaken p k s).freeCount = s.freeCount := by
  unfold State.nextQueryTaken
  repeat' (first | split | dsimp only)
  all_goals simp

/-- What the taking of entryList leaves as it is. -/
theorem State.entryListTaken_keeps (p : Port) (pl : List Byte) (k : BitVec 16) :
    (State.entryListTaken p pl k s).timebase = s.timebase
      ∧ (State.entryListTaken p pl k s).schedule = s.schedule
      ∧ (State.entryListTaken p pl k s).lines = s.lines
      ∧ (State.entryListTaken p pl k s).authority = s.authority
      ∧ (State.entryListTaken p pl k s).capture = s.capture
      ∧ (State.entryListTaken p pl k s).notices = s.notices
      ∧ (State.entryListTaken p pl k s).trails = s.trails
      ∧ (State.entryListTaken p pl k s).resetCause = s.resetCause
      ∧ (State.entryListTaken p pl k s).inFullReset = s.inFullReset
      ∧ (State.entryListTaken p pl k s).pending = s.pending
      ∧ (State.entryListTaken p pl k s).freeCount = s.freeCount := by
  unfold State.entryListTaken
  repeat' (first | split | dsimp only)
  all_goals simp

/-- What the taking of quota leaves as it is. -/
theorem State.quotaTaken_keeps (p : Port) (pl : List Byte) (k : BitVec 16) :
    (State.quotaTaken p pl k s).timebase = s.timebase
      ∧ (State.quotaTaken p pl k s).lines = s.lines
      ∧ (State.quotaTaken p pl k s).authority = s.authority
      ∧ (State.quotaTaken p pl k s).capture = s.capture
      ∧ (State.quotaTaken p pl k s).notices = s.notices
      ∧ (State.quotaTaken p pl k s).trails = s.trails
      ∧ (State.quotaTaken p pl k s).resetCause = s.resetCause
      ∧ (State.quotaTaken p pl k s).inFullReset = s.inFullReset
      ∧ (State.quotaTaken p pl k s).pending = s.pending
      ∧ (State.quotaTaken p pl k s).freeCount = s.freeCount := by
  unfold State.quotaTaken
  repeat' (first | split | dsimp only)
  all_goals simp

/-- What the taking of purge leaves as it is. -/
theorem State.purgeTaken_keeps (p : Port) (pl : List Byte) (k : BitVec 16) :
    (State.purgeTaken p pl k s).timebase = s.timebase
      ∧ (State.purgeTaken p pl k s).authority = s.authority
      ∧ (State.purgeTaken p pl k s).capture = s.capture
      ∧ (State.purgeTaken p pl k s).trails = s.trails
      ∧ (State.purgeTaken p pl k s).resetCause = s.resetCause
      ∧ (State.purgeTaken p pl k s).inFullReset = s.inFullReset
      ∧ (State.purgeTaken p pl k s).pending = s.pending
      ∧ (State.purgeTaken p pl k s).freeCount = s.freeCount := by
  unfold State.purgeTaken
  repeat' (first | split | dsimp only)
  all_goals simp

/-- What the taking of lineQuery leaves as it is. -/
theorem State.lineQueryTaken_keeps (p : Port) (pl : List Byte) (k : BitVec 16) :
    (State.lineQueryTaken p pl k s).timebase = s.timebase
      ∧ (State.lineQueryTaken p pl k s).schedule = s.schedule
      ∧ (State.lineQueryTaken p pl k s).lines = s.lines
      ∧ (State.lineQueryTaken p pl k s).authority = s.authority
      ∧ (State.lineQueryTaken p pl k s).capture = s.capture
      ∧ (State.lineQueryTaken p pl k s).notices = s.notices
      ∧ (State.lineQueryTaken p pl k s).trails = s.trails
      ∧ (State.lineQueryTaken p pl k s).resetCause = s.resetCause
      ∧ (State.lineQueryTaken p pl k s).inFullReset = s.inFullReset
      ∧ (State.lineQueryTaken p pl k s).pending = s.pending
      ∧ (State.lineQueryTaken p pl k s).freeCount = s.freeCount := by
  unfold State.lineQueryTaken
  repeat' (first | split | dsimp only)
  all_goals simp

/-- What the taking of policy leaves as it is. -/
theorem State.policyTaken_keeps (p : Port) (pl : List Byte) (k : BitVec 16) :
    (State.policyTaken p pl k s).timebase = s.timebase
      ∧ (State.policyTaken p pl k s).schedule = s.schedule
      ∧ (State.policyTaken p pl k s).authority = s.authority
      ∧ (State.policyTaken p pl k s).capture = s.capture
      ∧ (State.policyTaken p pl k s).notices = s.notices
      ∧ (State.policyTaken p pl k s).trails = s.trails
      ∧ (State.policyTaken p pl k s).resetCause = s.resetCause
      ∧ (State.policyTaken p pl k s).inFullReset = s.inFullReset
      ∧ (State.policyTaken p pl k s).pending = s.pending
      ∧ (State.policyTaken p pl k s).freeCount = s.freeCount := by
  unfold State.policyTaken
  repeat' (first | split | dsimp only)
  all_goals simp

/-- What the taking of force leaves as it is. -/
theorem State.forceTaken_keeps (p : Port) (pl : List Byte) (k : BitVec 16) :
    (State.forceTaken p pl k s).timebase = s.timebase
      ∧ (State.forceTaken p pl k s).schedule = s.schedule
      ∧ (State.forceTaken p pl k s).authority = s.authority
      ∧ (State.forceTaken p pl k s).capture = s.capture
      ∧ (State.forceTaken p pl k s).notices = s.notices
      ∧ (State.forceTaken p pl k s).trails = s.trails
      ∧ (State.forceTaken p pl k s).resetCause = s.resetCause
      ∧ (State.forceTaken p pl k s).inFullReset = s.inFullReset
      ∧ (State.forceTaken p pl k s).pending = s.pending
      ∧ (State.forceTaken p pl k s).freeCount = s.freeCount := by
  unfold State.forceTaken
  repeat' (first | split | dsimp only)
  all_goals simp

/-- What the taking of claim leaves as it is. -/
theorem State.claimTaken_keeps (p : Port) (pl : List Byte) (k : BitVec 16) :
    (State.claimTaken p pl k s).timebase = s.timebase
      ∧ (State.claimTaken p pl k s).schedule = s.schedule
      ∧ (State.claimTaken p pl k s).capture = s.capture
      ∧ (State.claimTaken p pl k s).trails = s.trails
      ∧ (State.claimTaken p pl k s).resetCause = s.resetCause
      ∧ (State.claimTaken p pl k s).inFullReset = s.inFullReset
      ∧ (State.claimTaken p pl k s).pending = s.pending
      ∧ (State.claimTaken p pl k s).freeCount = s.freeCount := by
  unfold State.claimTaken State.grantClaim State.queueClaim
  repeat' (first | split | dsimp only)
  all_goals simp

/-- What the taking of release leaves as it is. -/
theorem State.releaseTaken_keeps (p : Port) (k : BitVec 16) :
    (State.releaseTaken p k s).timebase = s.timebase
      ∧ (State.releaseTaken p k s).schedule = s.schedule
      ∧ (State.releaseTaken p k s).capture = s.capture
      ∧ (State.releaseTaken p k s).trails = s.trails
      ∧ (State.releaseTaken p k s).resetCause = s.resetCause
      ∧ (State.releaseTaken p k s).inFullReset = s.inFullReset
      ∧ (State.releaseTaken p k s).pending = s.pending
      ∧ (State.releaseTaken p k s).freeCount = s.freeCount := by
  unfold State.releaseTaken
  repeat' (first | split | dsimp only)
  all_goals simp

/-- What the taking of renew leaves as it is. -/
theorem State.renewTaken_keeps (p : Port) (pl : List Byte) (k : BitVec 16) :
    (State.renewTaken p pl k s).timebase = s.timebase
      ∧ (State.renewTaken p pl k s).schedule = s.schedule
      ∧ (State.renewTaken p pl k s).lines = s.lines
      ∧ (State.renewTaken p pl k s).capture = s.capture
      ∧ (State.renewTaken p pl k s).notices = s.notices
      ∧ (State.renewTaken p pl k s).trails = s.trails
      ∧ (State.renewTaken p pl k s).resetCause = s.resetCause
      ∧ (State.renewTaken p pl k s).inFullReset = s.inFullReset
      ∧ (State.renewTaken p pl k s).pending = s.pending
      ∧ (State.renewTaken p pl k s).freeCount = s.freeCount := by
  unfold State.renewTaken
  repeat' (first | split | dsimp only)
  all_goals simp

/-- What the taking of queryAuthority leaves as it is. -/
theorem State.queryAuthorityTaken_keeps (p : Port) (k : BitVec 16) :
    (State.queryAuthorityTaken p k s).timebase = s.timebase
      ∧ (State.queryAuthorityTaken p k s).schedule = s.schedule
      ∧ (State.queryAuthorityTaken p k s).lines = s.lines
      ∧ (State.queryAuthorityTaken p k s).authority = s.authority
      ∧ (State.queryAuthorityTaken p k s).capture = s.capture
      ∧ (State.queryAuthorityTaken p k s).notices = s.notices
      ∧ (State.queryAuthorityTaken p k s).trails = s.trails
      ∧ (State.queryAuthorityTaken p k s).resetCause = s.resetCause
      ∧ (State.queryAuthorityTaken p k s).inFullReset = s.inFullReset
      ∧ (State.queryAuthorityTaken p k s).pending = s.pending
      ∧ (State.queryAuthorityTaken p k s).freeCount = s.freeCount := by
  unfold State.queryAuthorityTaken
  simp

/-- What the taking of grace leaves as it is. -/
theorem State.graceTaken_keeps (p : Port) (pl : List Byte) (k : BitVec 16) :
    (State.graceTaken p pl k s).timebase = s.timebase
      ∧ (State.graceTaken p pl k s).schedule = s.schedule
      ∧ (State.graceTaken p pl k s).lines = s.lines
      ∧ (State.graceTaken p pl k s).capture = s.capture
      ∧ (State.graceTaken p pl k s).notices = s.notices
      ∧ (State.graceTaken p pl k s).trails = s.trails
      ∧ (State.graceTaken p pl k s).resetCause = s.resetCause
      ∧ (State.graceTaken p pl k s).inFullReset = s.inFullReset
      ∧ (State.graceTaken p pl k s).pending = s.pending
      ∧ (State.graceTaken p pl k s).freeCount = s.freeCount := by
  unfold State.graceTaken
  repeat' (first | split | dsimp only)
  all_goals simp

/-- What the taking of setCapture leaves as it is. -/
theorem State.setCaptureTaken_keeps (p : Port) (pl : List Byte) (k : BitVec 16) :
    (State.setCaptureTaken p pl k s).timebase = s.timebase
      ∧ (State.setCaptureTaken p pl k s).schedule = s.schedule
      ∧ (State.setCaptureTaken p pl k s).lines = s.lines
      ∧ (State.setCaptureTaken p pl k s).authority = s.authority
      ∧ (State.setCaptureTaken p pl k s).notices = s.notices
      ∧ (State.setCaptureTaken p pl k s).trails = s.trails
      ∧ (State.setCaptureTaken p pl k s).resetCause = s.resetCause
      ∧ (State.setCaptureTaken p pl k s).inFullReset = s.inFullReset
      ∧ (State.setCaptureTaken p pl k s).pending = s.pending
      ∧ (State.setCaptureTaken p pl k s).freeCount = s.freeCount := by
  unfold State.setCaptureTaken
  repeat' (first | split | dsimp only)
  all_goals simp

/-- What the taking of subscribe leaves as it is. -/
theorem State.subscribeTaken_keeps (p : Port) (pl : List Byte) (k : BitVec 16) :
    (State.subscribeTaken p pl k s).timebase = s.timebase
      ∧ (State.subscribeTaken p pl k s).schedule = s.schedule
      ∧ (State.subscribeTaken p pl k s).lines = s.lines
      ∧ (State.subscribeTaken p pl k s).authority = s.authority
      ∧ (State.subscribeTaken p pl k s).notices = s.notices
      ∧ (State.subscribeTaken p pl k s).trails = s.trails
      ∧ (State.subscribeTaken p pl k s).resetCause = s.resetCause
      ∧ (State.subscribeTaken p pl k s).inFullReset = s.inFullReset
      ∧ (State.subscribeTaken p pl k s).pending = s.pending
      ∧ (State.subscribeTaken p pl k s).freeCount = s.freeCount := by
  unfold State.subscribeTaken
  repeat' (first | split | dsimp only)
  all_goals simp

/-- What the taking of read leaves as it is. -/
theorem State.readTaken_keeps (p : Port) (pl : List Byte) (k : BitVec 16) :
    (State.readTaken p pl k s).timebase = s.timebase
      ∧ (State.readTaken p pl k s).schedule = s.schedule
      ∧ (State.readTaken p pl k s).lines = s.lines
      ∧ (State.readTaken p pl k s).authority = s.authority
      ∧ (State.readTaken p pl k s).notices = s.notices
      ∧ (State.readTaken p pl k s).trails = s.trails
      ∧ (State.readTaken p pl k s).resetCause = s.resetCause
      ∧ (State.readTaken p pl k s).inFullReset = s.inFullReset
      ∧ (State.readTaken p pl k s).pending = s.pending
      ∧ (State.readTaken p pl k s).freeCount = s.freeCount := by
  unfold State.readTaken
  repeat' (first | split | dsimp only)
  all_goals simp

/-! ### Every command -/

/-- A request leaves the queue of commands as it is when its block does. -/
theorem State.request_pending (k : Kind) (p : Port) (lags : List Nat) (tag : Byte)
    (pl : List Byte) (block : BitVec 16 → State → State)
    (hb : ∀ ticket t, (block ticket t).pending = t.pending) :
    (s.request k p lags tag pl block).pending = s.pending :=
  State.request_keeps s (fun t => t.pending = s.pending) k p lags tag pl block rfl
    (fun _ _ _ h => h) (fun _ _ h => h) (fun ticket t h => (hb ticket t).trans h)

/-- The authority check leaves the queue of commands as it is when its block does. -/
theorem State.privileged_pending (p : Port) (k : BitVec 16) (block : State → State)
    (hb : ∀ t, (block t).pending = t.pending) : (s.privileged p k block).pending = s.pending := by
  unfold State.privileged
  split
  · exact hb s
  · exact State.refuse_pending s p k _

/-- An event leaves the queue of commands as it is when its effect does. -/
theorem State.event_pending (f : State → State) (hf : ∀ t, (f t).pending = t.pending) :
    (s.event f).pending = s.pending := by
  unfold State.event
  split
  · rfl
  · exact hf s.noted

/-- No command reaches the queue: what waits behind it waits on. -/
theorem exec_pending (c : Instr) (t : State) (h : exec c s = .next t) : t.pending = s.pending := by
  cases c with
  | attach a tag pl =>
    cases h
    exact s.request_pending _ a.port a.lags tag pl _ fun k u => (State.attachTaken_keeps u a.port k).2.2.2.2.2.2.2.1
  | detach a tag pl =>
    cases h
    exact s.request_pending _ a.port a.lags tag pl _ fun k u => (State.detachTaken_keeps u a.port k).2.2.2.2.1
  | setAttention a tag pl =>
    cases h
    exact s.request_pending _ a.port a.lags tag pl _ fun k u => (State.attentionTaken_keeps u a.port pl k).2.2.2.2.2.2.2.2.1
  | queryTime a tag pl =>
    cases h
    exact s.request_pending _ a.port a.lags tag pl _ fun k u => (State.queryTimeTaken_keeps u a.port k).2.2.2.2.2.2.2.2.2.1
  | start a tag pl =>
    cases h
    exact s.request_pending _ a.port a.lags tag pl _ fun k t =>
      t.privileged_pending a.port k _ fun u => (State.startTaken_keeps u a.port k).2.2.2.2.2.2.2.1
  | stop a tag pl =>
    cases h
    exact s.request_pending _ a.port a.lags tag pl _ fun k t =>
      t.privileged_pending a.port k _ fun u => (State.stopTaken_keeps u a.port k).2.2.2.2.2.2.2.2.1
  | step a tag pl =>
    cases h
    exact s.request_pending _ a.port a.lags tag pl _ fun k t =>
      t.privileged_pending a.port k _ fun u => (State.stepTaken_keeps u a.port pl k).2.2.2.2.2.1
  | slew a tag pl =>
    cases h
    exact s.request_pending _ a.port a.lags tag pl _ fun k t =>
      t.privileged_pending a.port k _ fun u => (State.slewTaken_keeps u a.port pl k).2.2.2.2.2.2.2.1
  | entryAdd a tag pl =>
    cases h
    exact s.request_pending _ a.port a.lags tag pl _ fun k u => (State.addTaken_keeps u a.port pl k).2.2.2.2.2.2.2.1
  | entryCancel a tag pl =>
    cases h
    exact s.request_pending _ a.port a.lags tag pl _ fun k u => (State.cancelTaken_keeps u a.port pl k).2.2.2.2.2.2.2.1
  | entryHold a tag pl =>
    cases h
    exact s.request_pending _ a.port a.lags tag pl _ fun k u => (State.holdTaken_keeps u a.port pl k).2.2.2.2.2.2.2.2.1
  | entryResume a tag pl =>
    cases h
    exact s.request_pending _ a.port a.lags tag pl _ fun k u => (State.resumeTaken_keeps u a.port pl k).2.2.2.2.2.2.2.2.1
  | entryQuery a tag pl =>
    cases h
    exact s.request_pending _ a.port a.lags tag pl _ fun k u => (State.entryQueryTaken_keeps u a.port pl k).2.2.2.2.2.2.2.2.2.1
  | nextQuery a tag pl =>
    cases h
    exact s.request_pending _ a.port a.lags tag pl _ fun k u => (State.nextQueryTaken_keeps u a.port k).2.2.2.2.2.2.2.2.2.1
  | entryList a tag pl =>
    cases h
    exact s.request_pending _ a.port a.lags tag pl _ fun k u => (State.entryListTaken_keeps u a.port pl k).2.2.2.2.2.2.2.2.2.1
  | setQuota a tag pl =>
    cases h
    exact s.request_pending _ a.port a.lags tag pl _ fun k t =>
      t.privileged_pending a.port k _ fun u => (State.quotaTaken_keeps u a.port pl k).2.2.2.2.2.2.2.2.1
  | purgePort a tag pl =>
    cases h
    exact s.request_pending _ a.port a.lags tag pl _ fun k t =>
      t.privileged_pending a.port k _ fun u => (State.purgeTaken_keeps u a.port pl k).2.2.2.2.2.2.1
  | lineQuery a tag pl =>
    cases h
    exact s.request_pending _ a.port a.lags tag pl _ fun k u => (State.lineQueryTaken_keeps u a.port pl k).2.2.2.2.2.2.2.2.2.1
  | setLinePolicy a tag pl =>
    cases h
    exact s.request_pending _ a.port a.lags tag pl _ fun k t =>
      t.privileged_pending a.port k _ fun u => (State.policyTaken_keeps u a.port pl k).2.2.2.2.2.2.2.2.1
  | forceLine a tag pl =>
    cases h
    exact s.request_pending _ a.port a.lags tag pl _ fun k t =>
      t.privileged_pending a.port k _ fun u => (State.forceTaken_keeps u a.port pl k).2.2.2.2.2.2.2.2.1
  | claim a tag pl =>
    cases h
    exact s.request_pending _ a.port a.lags tag pl _ fun k u => (State.claimTaken_keeps u a.port pl k).2.2.2.2.2.2.1
  | release a tag pl =>
    cases h
    exact s.request_pending _ a.port a.lags tag pl _ fun k u => (State.releaseTaken_keeps u a.port k).2.2.2.2.2.2.1
  | renew a tag pl =>
    cases h
    exact s.request_pending _ a.port a.lags tag pl _ fun k u => (State.renewTaken_keeps u a.port pl k).2.2.2.2.2.2.2.2.1
  | queryAuthority a tag pl =>
    cases h
    exact s.request_pending _ a.port a.lags tag pl _ fun k u => (State.queryAuthorityTaken_keeps u a.port k).2.2.2.2.2.2.2.2.2.1
  | setGrace a tag pl =>
    cases h
    exact s.request_pending _ a.port a.lags tag pl _ fun k t =>
      t.privileged_pending a.port k _ fun u => (State.graceTaken_keeps u a.port pl k).2.2.2.2.2.2.2.2.1
  | setCapture a tag pl =>
    cases h
    exact s.request_pending _ a.port a.lags tag pl _ fun k t =>
      t.privileged_pending a.port k _ fun u => (State.setCaptureTaken_keeps u a.port pl k).2.2.2.2.2.2.2.2.1
  | subscribe a tag pl =>
    cases h
    exact s.request_pending _ a.port a.lags tag pl _ fun k u => (State.subscribeTaken_keeps u a.port pl k).2.2.2.2.2.2.2.2.1
  | readCaptures a tag pl =>
    cases h
    exact s.request_pending _ a.port a.lags tag pl _ fun k u => (State.readTaken_keeps u a.port pl k).2.2.2.2.2.2.2.2.1
  | fetchNotices a tag pl =>
    cases h
    exact s.request_pending _ a.port a.lags tag pl _ fun k u => (State.fetchTaken_keeps u a.port pl k).2.2.2.2.2.2.2.2.2.1
  | ackNotices a tag pl =>
    cases h
    exact s.request_pending _ a.port a.lags tag pl _ fun k u => (State.ackTaken_keeps u a.port pl k).2.2.2.2.2.2.2.2.1
  | badKind a tag kind pl =>
    change execBadKind a tag kind pl s = _ at h
    unfold execBadKind at h
    split at h
    · cases h
    · cases h
      unfold State.receive
      repeat' split
      all_goals rfl
  | poll a clocked =>
    cases h
    split
    · rfl
    · unfold State.pollTaken
      split <;> rfl
  | repeatFrame a clocked =>
    cases h
    split
    · rfl
    · unfold State.repeatTaken
      repeat' split
      all_goals rfl
  | faultyFrame a bytes =>
    change execFaultyFrame a bytes s = _ at h
    unfold execFaultyFrame at h
    split at h
    · cases h
      rfl
    · cases h
    · cases h
      split <;> rfl
  | portReset p =>
    cases h
    exact s.resetPort_pending p
  | fullReset cause =>
    cases h
    rfl
  | fullResetEnd rank1 rank0 levels =>
    cases h
    unfold State.endReset
    split <;> rfl
  | referenceMicrosecond =>
    cases h
    exact s.event_pending _ State.microsecond_pending
  | referenceMillisecond =>
    cases h
    exact s.event_pending _ State.millisecond_pending
  | slewDone =>
    cases h
    refine s.event_pending _ fun u => ?_
    split
    · exact u.microsecond_pending
    · rfl
  | leaseExpiry =>
    cases h
    refine s.event_pending _ fun u => ?_
    split
    · exact u.millisecond_pending
    · rfl
  | graceExpiry =>
    cases h
    refine s.event_pending _ fun u => ?_
    split
    · exact u.millisecond_pending
    · rfl
  | captureEdge n edge =>
    cases h
    exact s.event_pending _ fun u => u.takeEdge_pending n edge
  | expiry =>
    cases h
    exact s.event_pending _ State.takeExpiry_pending
  | pulseEnd l =>
    cases h
    refine s.event_pending _ fun u => ?_
    split <;> rfl
  | passComplete =>
    cases h
    exact s.event_pending _ State.completePass_pending
  | portResetRelease p =>
    cases h
    rfl

/-- No command faults: the manual names no fault (R164 and R174 make every error a value). -/
theorem exec_no_fault (c : Instr) (f : Fault) : exec c s ≠ .fault f := by
  cases f

end Sys2Proof.Machine
end

