-- ==== Sys2Proof/Laws/PerInstr.lean ====
section
/-! SUPPORT. The family FrameShape, one lemma per command: the frame of a well-formed command passes the tests of R164, unless the command is a faulty frame, whose bytes fail one. -/

namespace Sys2Proof.Laws

open Sys2Proof.Machine

/-- A REQUEST frame of at most 96 payload bytes passes the tests of R164. -/
theorem judgeFrame_requestFrame (tag kind : Byte) (pl : List Byte) (h : pl.length ≤ 96) :
    judgeFrame (requestFrame tag kind pl) = .good := by
  have hn : (natByte pl.length).toNat = pl.length := by
    unfold natByte
    rw [BitVec.toNat_ofNat]
    omega
  have hlen : (requestFrame tag kind pl).length = pl.length + 5 := by
    unfold requestFrame requestBody
    simp only [List.length_append, List.length_cons, List.length_nil]
  have h3 : byteAt (requestFrame tag kind pl) 3 = natByte pl.length := rfl
  have hlast : byteAt (requestFrame tag kind pl) (pl.length + 5 - 1) =
      crc8 (requestBody tag kind pl) := by
    unfold byteAt requestFrame
    have hb : (requestBody tag kind pl).length = pl.length + 4 := by
      unfold requestBody
      simp only [List.length_cons]
    rw [List.getD_eq_getElem?_getD, List.getElem?_append_right (by omega), hb]
    have hz : pl.length + 5 - 1 - (pl.length + 4) = 0 := by omega
    rw [hz]
    rfl
  have hdrop : (requestFrame tag kind pl).dropLast = requestBody tag kind pl :=
    List.dropLast_concat
  have hm : ¬ (maxPayload < pl.length ∨ pl.length + 5 ≠ pl.length + 5) := by
    rintro (c | c)
    · unfold maxPayload at c
      omega
    · exact c rfl
  unfold judgeFrame
  split
  · next e => rw [e] at hlen; simp only [List.length_nil] at hlen; omega
  · next type rest e =>
    have ht : type = requestType := by
      have := congrArg (fun x => x.getD 0 0) e
      exact this.symm
    subst ht
    rw [hlen, h3, hn, hdrop, hlast, if_neg (by decide), if_neg (by decide),
      if_neg (by omega), if_neg hm, if_neg (not_not.mpr rfl)]

/-- The bytes of a command's frame suit the command (R161, R164). -/
def FrameShape.Statement (c : Instr) : Prop :=
  ∀ (a : Arrival) (bytes : List Byte), c.wellFormed = true → encodeFrame c = some (a, bytes) →
    (judgeFrame bytes = .good ↔ ∀ q more, c ≠ .faultyFrame q more) ∧ judgeFrame bytes ≠ .noFrame

/-- A command whose frame is a good REQUEST. -/
theorem FrameShape.of_request (c : Instr) (q : Arrival) (tag kind : Byte) (pl : List Byte)
    (hf : ∀ r more, c ≠ .faultyFrame r more) (hw : c.wellFormed = true → pl.length ≤ 96)
    (he : encodeFrame c = some (q, requestFrame tag kind pl)) : FrameShape.Statement c := by
  intro a bytes h e
  rw [he] at e
  injection e with e
  injection e with _ e
  subst e
  rw [judgeFrame_requestFrame tag kind pl (hw h)]
  exact ⟨⟨fun _ => hf, fun _ => rfl⟩, fun x => by cases x⟩

/-- A command that is no frame. -/
theorem FrameShape.of_event (c : Instr) (he : encodeFrame c = none) : FrameShape.Statement c := by
  intro a bytes _ e
  rw [he] at e
  cases e

theorem FrameShape.attach (a : Arrival) (tag : Byte) (payload : List Byte) :
    FrameShape.Statement (.attach a tag payload) :=
  FrameShape.of_request _ a tag Kind.attach.code payload (fun _ _ e => by cases e) of_decide_eq_true rfl

theorem FrameShape.detach (a : Arrival) (tag : Byte) (payload : List Byte) :
    FrameShape.Statement (.detach a tag payload) :=
  FrameShape.of_request _ a tag Kind.detach.code payload (fun _ _ e => by cases e) of_decide_eq_true rfl

theorem FrameShape.setAttention (a : Arrival) (tag : Byte) (payload : List Byte) :
    FrameShape.Statement (.setAttention a tag payload) :=
  FrameShape.of_request _ a tag Kind.setAttention.code payload (fun _ _ e => by cases e) of_decide_eq_true rfl

theorem FrameShape.queryTime (a : Arrival) (tag : Byte) (payload : List Byte) :
    FrameShape.Statement (.queryTime a tag payload) :=
  FrameShape.of_request _ a tag Kind.queryTime.code payload (fun _ _ e => by cases e) of_decide_eq_true rfl

theorem FrameShape.start (a : Arrival) (tag : Byte) (payload : List Byte) :
    FrameShape.Statement (.start a tag payload) :=
  FrameShape.of_request _ a tag Kind.start.code payload (fun _ _ e => by cases e) of_decide_eq_true rfl

theorem FrameShape.stop (a : Arrival) (tag : Byte) (payload : List Byte) :
    FrameShape.Statement (.stop a tag payload) :=
  FrameShape.of_request _ a tag Kind.stop.code payload (fun _ _ e => by cases e) of_decide_eq_true rfl

theorem FrameShape.step (a : Arrival) (tag : Byte) (payload : List Byte) :
    FrameShape.Statement (.step a tag payload) :=
  FrameShape.of_request _ a tag Kind.step.code payload (fun _ _ e => by cases e) of_decide_eq_true rfl

theorem FrameShape.slew (a : Arrival) (tag : Byte) (payload : List Byte) :
    FrameShape.Statement (.slew a tag payload) :=
  FrameShape.of_request _ a tag Kind.slew.code payload (fun _ _ e => by cases e) of_decide_eq_true rfl

theorem FrameShape.entryAdd (a : Arrival) (tag : Byte) (payload : List Byte) :
    FrameShape.Statement (.entryAdd a tag payload) :=
  FrameShape.of_request _ a tag Kind.entryAdd.code payload (fun _ _ e => by cases e) of_decide_eq_true rfl

theorem FrameShape.entryCancel (a : Arrival) (tag : Byte) (payload : List Byte) :
    FrameShape.Statement (.entryCancel a tag payload) :=
  FrameShape.of_request _ a tag Kind.entryCancel.code payload (fun _ _ e => by cases e) of_decide_eq_true rfl

theorem FrameShape.entryHold (a : Arrival) (tag : Byte) (payload : List Byte) :
    FrameShape.Statement (.entryHold a tag payload) :=
  FrameShape.of_request _ a tag Kind.entryHold.code payload (fun _ _ e => by cases e) of_decide_eq_true rfl

theorem FrameShape.entryResume (a : Arrival) (tag : Byte) (payload : List Byte) :
    FrameShape.Statement (.entryResume a tag payload) :=
  FrameShape.of_request _ a tag Kind.entryResume.code payload (fun _ _ e => by cases e) of_decide_eq_true rfl

theorem FrameShape.entryQuery (a : Arrival) (tag : Byte) (payload : List Byte) :
    FrameShape.Statement (.entryQuery a tag payload) :=
  FrameShape.of_request _ a tag Kind.entryQuery.code payload (fun _ _ e => by cases e) of_decide_eq_true rfl

theorem FrameShape.nextQuery (a : Arrival) (tag : Byte) (payload : List Byte) :
    FrameShape.Statement (.nextQuery a tag payload) :=
  FrameShape.of_request _ a tag Kind.nextQuery.code payload (fun _ _ e => by cases e) of_decide_eq_true rfl

theorem FrameShape.entryList (a : Arrival) (tag : Byte) (payload : List Byte) :
    FrameShape.Statement (.entryList a tag payload) :=
  FrameShape.of_request _ a tag Kind.entryList.code payload (fun _ _ e => by cases e) of_decide_eq_true rfl

theorem FrameShape.setQuota (a : Arrival) (tag : Byte) (payload : List Byte) :
    FrameShape.Statement (.setQuota a tag payload) :=
  FrameShape.of_request _ a tag Kind.setQuota.code payload (fun _ _ e => by cases e) of_decide_eq_true rfl

theorem FrameShape.purgePort (a : Arrival) (tag : Byte) (payload : List Byte) :
    FrameShape.Statement (.purgePort a tag payload) :=
  FrameShape.of_request _ a tag Kind.purgePort.code payload (fun _ _ e => by cases e) of_decide_eq_true rfl

theorem FrameShape.lineQuery (a : Arrival) (tag : Byte) (payload : List Byte) :
    FrameShape.Statement (.lineQuery a tag payload) :=
  FrameShape.of_request _ a tag Kind.lineQuery.code payload (fun _ _ e => by cases e) of_decide_eq_true rfl

theorem FrameShape.setLinePolicy (a : Arrival) (tag : Byte) (payload : List Byte) :
    FrameShape.Statement (.setLinePolicy a tag payload) :=
  FrameShape.of_request _ a tag Kind.setLinePolicy.code payload (fun _ _ e => by cases e) of_decide_eq_true rfl

theorem FrameShape.forceLine (a : Arrival) (tag : Byte) (payload : List Byte) :
    FrameShape.Statement (.forceLine a tag payload) :=
  FrameShape.of_request _ a tag Kind.forceLine.code payload (fun _ _ e => by cases e) of_decide_eq_true rfl

theorem FrameShape.claim (a : Arrival) (tag : Byte) (payload : List Byte) :
    FrameShape.Statement (.claim a tag payload) :=
  FrameShape.of_request _ a tag Kind.claim.code payload (fun _ _ e => by cases e) of_decide_eq_true rfl

theorem FrameShape.release (a : Arrival) (tag : Byte) (payload : List Byte) :
    FrameShape.Statement (.release a tag payload) :=
  FrameShape.of_request _ a tag Kind.release.code payload (fun _ _ e => by cases e) of_decide_eq_true rfl

theorem FrameShape.renew (a : Arrival) (tag : Byte) (payload : List Byte) :
    FrameShape.Statement (.renew a tag payload) :=
  FrameShape.of_request _ a tag Kind.renew.code payload (fun _ _ e => by cases e) of_decide_eq_true rfl

theorem FrameShape.queryAuthority (a : Arrival) (tag : Byte) (payload : List Byte) :
    FrameShape.Statement (.queryAuthority a tag payload) :=
  FrameShape.of_request _ a tag Kind.queryAuthority.code payload (fun _ _ e => by cases e) of_decide_eq_true rfl

theorem FrameShape.setGrace (a : Arrival) (tag : Byte) (payload : List Byte) :
    FrameShape.Statement (.setGrace a tag payload) :=
  FrameShape.of_request _ a tag Kind.setGrace.code payload (fun _ _ e => by cases e) of_decide_eq_true rfl

theorem FrameShape.setCapture (a : Arrival) (tag : Byte) (payload : List Byte) :
    FrameShape.Statement (.setCapture a tag payload) :=
  FrameShape.of_request _ a tag Kind.setCapture.code payload (fun _ _ e => by cases e) of_decide_eq_true rfl

theorem FrameShape.subscribe (a : Arrival) (tag : Byte) (payload : List Byte) :
    FrameShape.Statement (.subscribe a tag payload) :=
  FrameShape.of_request _ a tag Kind.subscribe.code payload (fun _ _ e => by cases e) of_decide_eq_true rfl

theorem FrameShape.readCaptures (a : Arrival) (tag : Byte) (payload : List Byte) :
    FrameShape.Statement (.readCaptures a tag payload) :=
  FrameShape.of_request _ a tag Kind.readCaptures.code payload (fun _ _ e => by cases e) of_decide_eq_true rfl

theorem FrameShape.fetchNotices (a : Arrival) (tag : Byte) (payload : List Byte) :
    FrameShape.Statement (.fetchNotices a tag payload) :=
  FrameShape.of_request _ a tag Kind.fetchNotices.code payload (fun _ _ e => by cases e) of_decide_eq_true rfl

theorem FrameShape.ackNotices (a : Arrival) (tag : Byte) (payload : List Byte) :
    FrameShape.Statement (.ackNotices a tag payload) :=
  FrameShape.of_request _ a tag Kind.ackNotices.code payload (fun _ _ e => by cases e) of_decide_eq_true rfl

theorem FrameShape.badKind (a : Arrival) (tag kind : Byte) (payload : List Byte) :
    FrameShape.Statement (.badKind a tag kind payload) :=
  FrameShape.of_request _ a tag kind payload (fun _ _ e => by cases e)
    (fun h => of_decide_eq_true (Bool.and_eq_true_iff.mp h).1) rfl

theorem FrameShape.poll (a : Arrival) (clocked : List Byte) :
    FrameShape.Statement (.poll a clocked) := by
  intro q bytes _ e
  cases e
  have hj : judgeFrame (pollType :: clocked) = .good := by
    unfold judgeFrame
    exact if_pos (Or.inl rfl)
  rw [hj]
  exact ⟨⟨fun _ _ _ e => (by cases e), fun _ => rfl⟩, fun x => (by cases x)⟩

theorem FrameShape.repeatFrame (a : Arrival) (clocked : List Byte) :
    FrameShape.Statement (.repeatFrame a clocked) := by
  intro q bytes _ e
  cases e
  have hj : judgeFrame (repeatType :: clocked) = .good := by
    unfold judgeFrame
    exact if_pos (Or.inr rfl)
  rw [hj]
  exact ⟨⟨fun _ _ _ e => (by cases e), fun _ => rfl⟩, fun x => (by cases x)⟩

theorem FrameShape.faultyFrame (a : Arrival) (bytes : List Byte) :
    FrameShape.Statement (.faultyFrame a bytes) := by
  intro q more h e
  injection e with e
  injection e with hq hm
  subst hq hm
  change (match judgeFrame bytes with | .faulty _ => true | .good | .noFrame => false) = true at h
  cases hj : judgeFrame bytes with
  | noFrame => rw [hj] at h; cases h
  | good => rw [hj] at h; cases h
  | faulty f =>
    refine ⟨⟨fun x => ?_, fun x => absurd rfl (x a bytes)⟩, fun x => ?_⟩ <;> cases x

theorem FrameShape.portReset (p : Port) : FrameShape.Statement (.portReset p) :=
  FrameShape.of_event _ rfl

theorem FrameShape.fullReset (cause : ResetCause) : FrameShape.Statement (.fullReset cause) :=
  FrameShape.of_event _ rfl

theorem FrameShape.fullResetEnd (rank1 rank0 : Bool) (levels : InputSet) : FrameShape.Statement (.fullResetEnd rank1 rank0 levels) :=
  FrameShape.of_event _ rfl

theorem FrameShape.referenceMicrosecond : FrameShape.Statement .referenceMicrosecond :=
  FrameShape.of_event _ rfl

theorem FrameShape.referenceMillisecond : FrameShape.Statement .referenceMillisecond :=
  FrameShape.of_event _ rfl

theorem FrameShape.slewDone : FrameShape.Statement .slewDone :=
  FrameShape.of_event _ rfl

theorem FrameShape.leaseExpiry : FrameShape.Statement .leaseExpiry :=
  FrameShape.of_event _ rfl

theorem FrameShape.graceExpiry : FrameShape.Statement .graceExpiry :=
  FrameShape.of_event _ rfl

theorem FrameShape.captureEdge (i : InputIx) (edge : Edge) : FrameShape.Statement (.captureEdge i edge) :=
  FrameShape.of_event _ rfl

theorem FrameShape.expiry : FrameShape.Statement .expiry :=
  FrameShape.of_event _ rfl

theorem FrameShape.pulseEnd (line : LineIx) : FrameShape.Statement (.pulseEnd line) :=
  FrameShape.of_event _ rfl

theorem FrameShape.passComplete : FrameShape.Statement .passComplete :=
  FrameShape.of_event _ rfl

theorem FrameShape.portResetRelease (p : Port) : FrameShape.Statement (.portResetRelease p) :=
  FrameShape.of_event _ rfl

end Sys2Proof.Laws
end

