-- ==== Sys2Proof/Tests/Slice0.lean ====
section
/-! SUPPORT. Tests: the well-formedness smoke, frames written out byte by byte, one or two steps of every command, and a state and operands that meet the hypotheses of every statement. -/

namespace Sys2Proof.Tests

-- One theorem at a time: kernel evaluations that wait for each other would hold a thread's stack each.
set_option Elab.async false

open Sys2Proof.Machine

/-! ### Small states -/

/-- Every port attached with its attention on, nobody holding the authority. -/
def open3 : State :=
  { State.reset with
    ports := Table.fill 3 { PortIf.reset false with session := .attached, causeReported := true }
    notices := Table.fill 3 { NoticeQueue.reset with attention := true } }

/-- The same, with port 0 holding the authority for 100 ms. -/
def held : State :=
  { open3 with
    authority := { open3.authority with tenure := some { port := 0, leaseRemaining := 100 } } }

/-- The same, RUNNING at 1000. -/
def running : State :=
  { held with timebase := { held.timebase with state := .running, now := 1000 } }

/-- A STOP of port 0 with ticket 0 waits. -/
def stopping : State :=
  { running with
    timebase := { running.timebase with state := .stopping, stopWaiters := [⟨0, 0⟩] }
    ports :=
      running.ports.upd 0 fun i =>
        { i with slot := .working { tag := 9, kind := 0x22, ticket := 0 }, nextTicket := 1 } }

/-- An entry of port 0: due 5, a PULSE of width 10 on line 3. -/
def pulser : Entry :=
  { owner := 0, state := .scheduled, orphaned := false, cancelPending := false, due := some 5
    trigger := .absolute, input := none, captureOffset := none, period := 0, repeatsLeft := 0
    stepPolicy := .shift, orphanPolicy := .cancel, notify := true, label := none
    actions := [⟨3, .pulse, some 10⟩], fired := 0, missed := 0 }

/-- Port 0 holds the authority and the entry stands in slot 0 with tag 0. -/
def withEntry (e : Entry) : State :=
  { held with
    schedule :=
      { held.schedule with
        slots := held.schedule.slots.set 0 { tag := 0, entry := some e }
        dueList := if e.state = .scheduled then [0] else []
        waiting := if e.state = .waiting then held.schedule.waiting.set 2 [0] else held.schedule.waiting
        usage := held.schedule.usage.set 0 1 }
    lines := addRefs 0 e.actions held.lines }

/-- The entry is due and the sweep is open. -/
def sweeping (e : Entry) : State :=
  { withEntry e with
    timebase := { held.timebase with state := .running, now := 5 }
    schedule := { (withEntry e).schedule with sweep := some [0] } }

/-- A pass begun by port 0 with ticket 0 is in flight. -/
def passing : State :=
  { withEntry pulser with
    schedule :=
      { (withEntry pulser).schedule with
        pass :=
          some
            { stepper := ⟨0, 0⟩, oldNow := 0, newNow := 0, cancelled := 0, advanced := true, age := 0 } }
    ports :=
      held.ports.upd 0 fun i =>
        { i with slot := .working { tag := 9, kind := 0x23, ticket := 0 }, nextTicket := 1 } }

/-- Port 2 holds the authority, port 0 waits urgently and demands it. -/
def demanded : State :=
  { open3 with
    authority :=
      { open3.authority with
        tenure := some { port := 2, leaseRemaining := 1 }
        waiters := [⟨0, 10, true⟩]
        demand := some ⟨0, 1⟩ } }

/-- The waiting variant of the entry, for input 2. -/
def waiter : Entry :=
  { pulser with
    state := .waiting, due := none, trigger := .onCapture, input := some 2, captureOffset := some 7 }

/-- Input 2 looks for rising edges, port 1 subscribes to it. -/
def watching (s : State) : State :=
  { s with
    capture :=
      { s.capture with
        inputs := s.capture.inputs.upd 2 fun x => { x with edge := .rising, holdoff := 3 }
        subscriptions := s.capture.subscriptions.set 1 4 } }

/-- A record of input 2 that port 1 is to read. -/
def record0 : CaptureRecord :=
  { seq := 1, input := 2, edge := .rising, stamp := 0, stopped := true, epoch := 0, readers := 2 }

/-- The log holds that record. -/
def logged : State :=
  { watching held with capture := { (watching held).capture with log := [record0], sequence := 1 } }

/-- A notice in the queue of port 0. -/
def noticed : State :=
  { open3 with
    notices :=
      open3.notices.upd 0 fun q =>
        { q with queue := [⟨0, 0, 0, .timebaseState .started⟩], nextSeq := 1 } }

/-- The state after a command, the state itself where it does not go on. -/
def after (c : Instr) (s : State) : State :=
  match exec c s with
  | .next t => t
  | .fault _ | .refused _ => s

/-- The answer that stands in the slot of a port. -/
def answer (p : Port) (s : State) : Option (Status × List Byte) :=
  match (s.ports.get p).slot with
  | .answered _ r => some (r.status, r.payload)
  | .empty | .working _ => none

/-- The notices in the queue of a port. -/
def queued (p : Port) (s : State) : List NoticeBody := (s.notices.get p).queue.map Notice.body

/-! ### Well-formedness: an ill-formed command of each check -/

theorem test_wellFormed_good :
    (Instr.attach ⟨0, []⟩ 7 []).wellFormed = true ∧ (Instr.badKind ⟨0, []⟩ 7 0x99 []).wellFormed = true
      ∧ (Instr.faultyFrame ⟨0, []⟩ [0x51]).wellFormed = true
      ∧ (Instr.step ⟨0, []⟩ 7 (List.replicate 96 0)).wellFormed = true := by decide

theorem test_wellFormed_payload_of_97 :
    (Instr.step ⟨0, []⟩ 7 (List.replicate 97 0)).wellFormed = false
      ∧ (Instr.badKind ⟨0, []⟩ 7 0x99 (List.replicate 97 0)).wellFormed = false := by decide

theorem test_wellFormed_named_kind : (Instr.badKind ⟨0, []⟩ 7 0x10 []).wellFormed = false := by decide

theorem test_wellFormed_good_frame_is_not_faulty :
    (Instr.faultyFrame ⟨0, []⟩ [0x51, 0x07, 0x10, 0x00, 0xD6]).wellFormed = false
      ∧ (Instr.faultyFrame ⟨0, []⟩ [0x52]).wellFormed = false
      ∧ (Instr.faultyFrame ⟨0, []⟩ []).wellFormed = false := by decide +kernel

/-! ### Frames, written out from R161 to R164 and R189 -/

/-- The CRC-8 of the nine digits: polynomial 2Fh, initial value FFh, not inverted. -/
theorem test_crc_of_the_digits :
    crc8 [0x31, 0x32, 0x33, 0x34, 0x35, 0x36, 0x37, 0x38, 0x39] = 0x20 := by decide +kernel

theorem test_frame_attach :
    decodeFrame ⟨0, []⟩ [0x51, 0x07, 0x10, 0x00, 0xD6] = some (.attach ⟨0, []⟩ 7 []) := by decide +kernel

theorem test_frame_entryList :
    decodeFrame ⟨2, []⟩ [0x51, 0x01, 0x36, 0x01, 0x00, 0xA4] = some (.entryList ⟨2, []⟩ 1 [0]) := by decide +kernel

theorem test_frame_slew :
    decodeFrame ⟨1, []⟩ [0x51, 0x09, 0x24, 0x04, 0xE8, 0x03, 0x01, 0x00, 0x51] =
      some (.slew ⟨1, []⟩ 9 [0xE8, 3, 1, 0]) := by decide +kernel

theorem test_frame_setGrace :
    decodeFrame ⟨1, []⟩ [0x51, 0x02, 0x54, 0x01, 0x32, 0xD5] = some (.setGrace ⟨1, []⟩ 2 [0x32]) := by decide +kernel

theorem test_frame_badKind :
    decodeFrame ⟨0, []⟩ [0x51, 0x01, 0x99, 0x00, 0x99] = some (.badKind ⟨0, []⟩ 1 0x99 []) := by decide +kernel

theorem test_frame_poll_and_repeat :
    decodeFrame ⟨0, []⟩ [0x52, 0, 0] = some (.poll ⟨0, []⟩ [0, 0])
      ∧ decodeFrame ⟨0, []⟩ [0x53] = some (.repeatFrame ⟨0, []⟩ []) ∧ decodeFrame ⟨0, []⟩ [] = none := by decide

theorem test_frame_faulty :
    decodeFrame ⟨0, []⟩ [0x51, 0x07, 0x10, 0x00, 0xD7] =
      some (.faultyFrame ⟨0, []⟩ [0x51, 0x07, 0x10, 0x00, 0xD7]) := by decide +kernel

theorem test_encode_attach :
    encodeFrame (.attach ⟨0, []⟩ 7 []) = some (⟨0, []⟩, [0x51, 0x07, 0x10, 0x00, 0xD6]) := by decide +kernel

theorem test_idle_frame : idleFrame .none .empty = [0x6F, 0, 0, 0x2D] := by decide +kernel

/-! ### The commands -/

theorem test_step_takes_the_front :
    step { State.reset with pending := [.fullReset .pin] } = exec (.fullReset .pin) State.reset := rfl

theorem test_step_idle_counts_refclk :
    step State.reset = .next { State.reset with timebase := { Timebase.reset with refclk := 1 } } := rfl

theorem test_attach :
    answer 0 (after (.attach ⟨0, []⟩ 7 []) State.reset) =
      some (.ok, [1, 0, 0, 0, 0, 0, 0, 0, 0, 0, 0, 0xFF, 0]) := by decide

theorem test_attach_status : (after (.attach ⟨0, []⟩ 7 []) State.reset).statusByte 0 = 0xAA := by decide

theorem test_detach :
    answer 0 (after (.detach ⟨0, []⟩ 7 []) held) = some (.ok, [0, 0, 0, 1, 0xFF])
      ∧ (after (.detach ⟨0, []⟩ 7 []) held).holder = none := by decide

theorem test_setAttention :
    answer 1 (after (.setAttention ⟨1, []⟩ 7 [0]) open3) = some (.ok, [1]) := by decide

theorem test_fetchNotices :
    answer 0 (after (.fetchNotices ⟨0, []⟩ 7 [4]) noticed) =
      some (.ok, [1, 1, 0, 0, 0x0B, 0, 0, 0, 0, 0, 0, 0, 0, 0, 0, 0xFF, 0xFF,
        0, 0, 0, 0, 0, 0, 0, 0, 0, 0]) := by decide

theorem test_ackNotices :
    answer 0 (after (.ackNotices ⟨0, []⟩ 7 [0, 0]) noticed) = some (.ok, [1, 0, 0, 0, 0])
      ∧ queued 0 (after (.ackNotices ⟨0, []⟩ 7 [0, 0]) noticed) = [] := by decide

theorem test_queryTime :
    answer 2 (after (.queryTime ⟨2, []⟩ 7 []) running) =
      some (.ok, [0xE8, 3, 0, 0, 0, 0, 1, 0, 0, 0, 0, 0, 0, 0]) := by decide

theorem test_start :
    (after (.start ⟨0, []⟩ 7 []) held).timebase.state = .running
      ∧ queued 1 (after (.start ⟨0, []⟩ 7 []) held) = [.timebaseState .started] := by decide

theorem test_stop :
    (after (.stop ⟨0, []⟩ 7 []) running).timebase.state = .stopping
      ∧ answer 0 (after (.stop ⟨0, []⟩ 7 []) running) = none := by decide

theorem test_step :
    (after (.step ⟨0, []⟩ 7 [1, 1, 0xE8, 3, 0, 0, 0, 0]) running).timebase.now = 0
      ∧ queued 1 (after (.step ⟨0, []⟩ 7 [1, 1, 0xE8, 3, 0, 0, 0, 0]) running) =
          [.timeStepped 0 1000 0 1] := by decide +kernel

theorem test_slew :
    (after (.slew ⟨0, []⟩ 7 [0x18, 0xFC, 1, 0]) running).timebase.slew = some ⟨-1000, 1, 0, 0⟩ := by decide

theorem test_entryAdd :
    answer 0
        (after
          (.entryAdd ⟨0, []⟩ 7
            [0, 5, 0, 0, 0, 0, 0, 0, 0, 0, 0, 0, 0, 0, 0, 1, 1, 1, 0, 0, 0, 1, 3, 0, 10, 0, 0])
          held) = some (.ok, [0, 0, 1, 5, 0, 0, 0, 0, 0]) := by decide

theorem test_entryAdd_record :
    (after
        (.entryAdd ⟨0, []⟩ 7
          [0, 5, 0, 0, 0, 0, 0, 0, 0, 0, 0, 0, 0, 0, 0, 1, 1, 1, 0, 0, 0, 1, 3, 0, 10, 0, 0])
        held).schedule = (withEntry pulser).schedule := by decide

theorem test_entryCancel :
    answer 0 (after (.entryCancel ⟨0, []⟩ 7 [0, 0]) (withEntry pulser)) = some (.ok, [1, 0, 0, 0, 0, 0])
      ∧ (after (.entryCancel ⟨0, []⟩ 7 [0, 0]) (withEntry pulser)).lines = held.lines
      ∧ ((after (.entryCancel ⟨0, []⟩ 7 [0, 0])
            (withEntry { pulser with label := some 9 })).ports.get 0).slot =
          .answered { tag := 7, kind := 0x31, ticket := 0 }
            { tag := 7, kind := 0x31, status := .ok, payload := [1, 0, 0, 0, 0, 0]
              freed := some { handle := ⟨0, 0⟩, label := some 9 } } := by decide

theorem test_entryHold :
    (after (.entryHold ⟨0, []⟩ 7 [0, 0]) (withEntry pulser)).schedule.dueList = [] := by decide

theorem test_entryResume :
    answer 0 (after (.entryResume ⟨0, []⟩ 7 [0, 0]) (withEntry { pulser with state := .held })) =
      some (.ok, [5, 0, 0, 0, 0, 0, 0]) := by decide

theorem test_entryQuery :
    (answer 0 (after (.entryQuery ⟨0, []⟩ 7 [0, 0]) (withEntry pulser))).map (fun a => a.2.take 14) =
      some [0, 0, 0, 1, 0x14, 5, 0, 0, 0, 0, 0, 0, 0xFF, 0] := by decide

theorem test_nextQuery :
    answer 1 (after (.nextQuery ⟨1, []⟩ 7 []) (withEntry pulser)) =
      some (.ok, [0, 0, 0, 0, 0, 0, 0, 5, 0, 0, 0, 0, 0, 1, 0, 0, 0, 0, 0, 0, 0, 0,
        32, 1, 32, 0, 32, 0, 63]) := by decide

theorem test_entryList :
    answer 0 (after (.entryList ⟨0, []⟩ 7 [0]) (withEntry pulser)) = some (.ok, [1, 64, 1, 0, 0]) := by
  decide

theorem test_setQuota :
    answer 0 (after (.setQuota ⟨0, []⟩ 7 [2, 64]) held) = some (.ok, [32, 0]) := by decide

theorem test_purgePort :
    answer 0 (after (.purgePort ⟨0, []⟩ 7 [0]) (withEntry pulser)) = some (.ok, [1])
      ∧ (after (.purgePort ⟨0, []⟩ 7 [0]) (withEntry pulser)).schedule.usage = held.schedule.usage := by
  decide

theorem test_lineQuery :
    answer 0 (after (.lineQuery ⟨0, []⟩ 7 [3]) (withEntry pulser)) =
      some (.ok, [0, 0, 0, 0, 0, 0, 0, 0, 0, 0, 0, 0, 0xFF, 0xFF, 0, 0, 0, 0xFF, 0, 0, 7,
        1, 0, 0, 0xFF, 0, 0, 0, 0]) := by decide

theorem test_setLinePolicy :
    answer 0 (after (.setLinePolicy ⟨0, []⟩ 7 [3, 5, 1, 1]) (withEntry pulser)) =
      some (.ok, [7, 0, 0, 0]) := by decide

theorem test_forceLine :
    answer 0 (after (.forceLine ⟨0, []⟩ 7 [15, 1]) held) = some (.ok, [0, 1, 1]) := by decide

theorem test_claim_granted :
    answer 1 (after (.claim ⟨1, []⟩ 7 [10, 0, 0]) open3) = some (.granted, [10, 0, 0]) := by decide

theorem test_claim_queued :
    answer 1 (after (.claim ⟨1, []⟩ 7 [10, 0, 1]) held) = some (.queued, [1, 0, 0, 0])
      ∧ queued 0 (after (.claim ⟨1, []⟩ 7 [10, 0, 1]) held) = [.authorityWanted 1 true 1] := by decide

theorem test_release :
    answer 2 (after (.release ⟨2, []⟩ 7 []) demanded) = some (.ok, [0])
      ∧ queued 0 (after (.release ⟨2, []⟩ 7 []) demanded) = [.authorityGranted 2 10 .released] := by decide

theorem test_renew : answer 0 (after (.renew ⟨0, []⟩ 7 [1, 0]) held) = some (.ok, [1, 0]) := by decide

theorem test_queryAuthority :
    answer 1 (after (.queryAuthority ⟨1, []⟩ 7 []) demanded) =
      some (.ok, [2, 2, 1, 0, 1, 0, 10, 0, 1, 0, 0, 0, 0, 0, 1, 50, 0]) := by decide

theorem test_setGrace : answer 0 (after (.setGrace ⟨0, []⟩ 7 [255]) held) = some (.ok, [50]) := by decide

theorem test_setCapture :
    answer 0 (after (.setCapture ⟨0, []⟩ 7 [2, 0, 0, 0]) (watching held)) = some (.ok, [1, 3, 0]) := by
  decide

theorem test_subscribe :
    answer 1 (after (.subscribe ⟨1, []⟩ 7 [0]) logged) = some (.ok, [4, 0, 0])
      ∧ (after (.subscribe ⟨1, []⟩ 7 [0]) logged).capture.log = [] := by decide

theorem test_readCaptures :
    answer 1 (after (.readCaptures ⟨1, []⟩ 7 [4]) logged) =
      some (.ok, [1, 0, 1, 0, 2, 0, 0, 0, 0, 0, 0, 0, 1, 0, 0]) := by decide

theorem test_badKind : answer 0 (after (.badKind ⟨0, []⟩ 7 0x99 []) open3) = some (.badKind, []) := by
  decide

theorem test_badKind_named : exec (.badKind ⟨0, []⟩ 7 0x10 []) open3 = .refused .notThisCommand := rfl

theorem test_poll :
    ((after (.poll ⟨0, []⟩ [0, 0, 0, 0, 0]) State.reset).ports.get 0).miso =
      [0xA0, 0x6F, 0, 0, 0x2D, 0] := by decide +kernel

theorem test_repeat :
    ((after (.repeatFrame ⟨0, []⟩ [0]) State.reset).ports.get 0).miso = [0xA0, 0x6F] := by decide

/-- R166, R190: the STOP is answered after the second byte of the frame has begun, and the status byte
changes from WORKING to ANSWERED at the third. -/
theorem test_status_byte_within_a_frame :
    ((after (.attach ⟨0, [1, 1]⟩ 7 []) (after .referenceMicrosecond stopping)).ports.get 0).miso =
      [0xA9, 0xA9, 0xAA, 0xAA, 0xAA] := by decide

/-- A REQUEST that a port reset overlaps is not taken; its first byte began before the reset (R166, R175). -/
theorem test_status_byte_in_a_port_reset :
    let t := after (.attach ⟨0, [1]⟩ 7 []) (after (.portReset 0) held)
    (t.ports.get 0).miso = [0xA8, 0xA0, 0xA0, 0xA0, 0xA0] ∧ (t.ports.get 0).slot = .empty
      ∧ (t.ports.get 0).frameFault = .none := by decide

/-- A POLL whose type byte began before the answer delivers it all the same (R171). -/
theorem test_status_byte_of_a_poll :
    (((after (.poll ⟨0, [1]⟩ [0, 0]) (after .referenceMicrosecond stopping)).ports.get 0).miso,
      ((after (.poll ⟨0, []⟩ [0]) (after (.poll ⟨0, []⟩ []) stopping)).ports.get 0).miso) =
      ([0xA9, 0x6E, 9], [0xA9, 0x6F]) := by decide

theorem test_faultyFrame :
    ((after (.faultyFrame ⟨0, []⟩ [0x51, 7]) State.reset).ports.get 0).frameFault = .truncated
      ∧ ((after (.faultyFrame ⟨0, []⟩ [0x00, 7, 7]) State.reset).ports.get 0).miso = [0xA0, 0, 0] := by
  decide

theorem test_portReset :
    ((after (.portReset 0) held).ports.get 0).inReset = true
      ∧ (after (.portReset 0) held).attached 0 = false := by decide

theorem test_portResetRelease :
    (after (.portResetRelease 0) (after (.portReset 0) State.reset)).ports = State.reset.ports := by
  decide

theorem test_fullReset :
    (after (.fullReset .pin) held).inFullReset = true
      ∧ (after (.fullReset .pin) held).attached 0 = false := by decide

theorem test_fullResetEnd :
    (after (.fullResetEnd true false 4) { held with inFullReset := true }).authority.rank =
        ⟨true, false⟩
      ∧ ((after (.fullResetEnd true false 4) { held with inFullReset := true }).capture.inputs.get
          2).level = .high := by decide

theorem test_referenceMicrosecond :
    (after .referenceMicrosecond running).timebase.now = 1001 := by decide

theorem test_referenceMicrosecond_completes_stop :
    answer 0 (after .referenceMicrosecond stopping) = some (.ok, [0xE9, 3, 0, 0, 0, 0])
      ∧ (after .referenceMicrosecond stopping).timebase.state = .stopped := by decide

theorem test_referenceMillisecond :
    (after .referenceMillisecond held).authority.tenure = some ⟨0, 99⟩ := by decide

theorem test_slewDone :
    queued 0
        (after .slewDone
          { running with timebase := { running.timebase with slew := some ⟨5, 1, 999, 0⟩ } }) =
      [.slewEnded .done 0] := by decide

theorem test_leaseExpiry :
    (after .leaseExpiry
        { demanded with
          authority := { demanded.authority with demand := none }
          timebase := { demanded.timebase with msDue := true } }).holder = some 0 := by decide

theorem test_graceExpiry :
    queued 2
        (after .graceExpiry
          { demanded with timebase := { demanded.timebase with msDue := true } }) =
      [.authorityLost (some 0) .preempted] := by decide

theorem test_captureEdge :
    (after (.captureEdge 2 .rising) (watching held)).capture.log = [record0]
      ∧ queued 1 (after (.captureEdge 2 .rising) (watching held)) = [.captureAvailable 2 1 1] := by
  decide

theorem test_captureEdge_hands_over :
    (after (.captureEdge 2 .rising) (watching (withEntry waiter))).schedule.dueAt 0 = 7 := by decide

theorem test_expiry :
    ((after .expiry (sweeping pulser)).lines.get 3).pulse = some ⟨15, 0, 0⟩
      ∧ queued 0 (after .expiry (sweeping pulser)) =
          [.fired ⟨0, 0⟩ none 5 5 0 false 0 true false] := by decide

theorem test_expiry_repeats :
    (after .expiry (sweeping { pulser with period := 100 })).schedule.dueAt 0 = 105 := by decide

theorem test_pulseEnd :
    (after (.pulseEnd 3)
        (running.mapLine 3 fun l => { l with pulse := some ⟨1000, 0, 0⟩ })).lines = running.lines := by
  decide

theorem test_passComplete :
    answer 0 (after .passComplete passing) =
      some (.ok, [0, 0, 0, 0, 0, 0, 0, 0, 0, 0, 0, 0, 0, 0, 0]) := by decide

/-! ### A state and operands that meet the hypotheses of each statement, clause by clause -/

/-- The lists of a state, said so that they can be decided. -/
theorem lists_of (s : State)
    (h : s.schedule.dueList.Nodup
      ∧ (∀ i : SlotIx, i ∈ s.schedule.dueList ↔
          (s.schedule.entryAt i).map Entry.state = some .scheduled)
      ∧ (∀ n : InputIx, (s.schedule.waiting.get n).Nodup)
      ∧ (∀ (n : InputIx) (i : SlotIx), i ∈ s.schedule.waiting.get n ↔
          (s.schedule.entryAt i).map (fun e => (e.state, e.input)) = some (.waiting, some n))
      ∧ (∀ i : SlotIx, ∀ e ∈ s.schedule.entryAt i, e.state = .waiting → e.input.isSome = true)
      ∧ (s.schedule.pass = none →
          s.schedule.dueList.Pairwise fun i j => s.schedule.dueAt i ≤ s.schedule.dueAt j)
      ∧ (∀ m ∈ s.schedule.sweep, s.schedule.pass = none ∧ ∀ i ∈ m, i ∈ s.schedule.dueList)
      ∧ ∀ a ∈ s.schedule.pass, a.cancelled ≤ 64 ∧ a.age ≤ 100) : ListsWf s :=
  ⟨h.1, h.2.1, h.2.2.1, h.2.2.2.1, h.2.2.2.2.1, h.2.2.2.2.2.1, h.2.2.2.2.2.2.1, h.2.2.2.2.2.2.2⟩

theorem lists_held : ListsWf held := lists_of _ (by decide +kernel)

theorem lists_entry : ListsWf (withEntry pulser) := lists_of _ (by decide +kernel)

theorem lists_heldEntry : ListsWf (withEntry { pulser with state := .held }) :=
  lists_of _ (by decide +kernel)

theorem lists_waiter : ListsWf (watching (withEntry waiter)) := lists_of _ (by decide +kernel)

theorem lists_sweeping : ListsWf (sweeping pulser) := lists_of _ (by decide +kernel)

theorem lists_periodic : ListsWf (sweeping { pulser with period := 100 }) :=
  lists_of _ (by decide +kernel)

theorem lists_passing : ListsWf passing := lists_of _ (by decide +kernel)

/-- The entries of the state with one entry. -/
theorem entries_entry : EntriesWf (withEntry pulser) where
  entries := by
    have h : ∀ i : SlotIx, ∀ e ∈ (withEntry pulser).schedule.entryAt i,
        (∀ d ∈ e.due, d ≤ maxNow) ∧ (e.state = .waiting ↔ e.due = none)
        ∧ (e.fired ≤ 65535 ∧ e.missed ≤ 65535) ∧ (e.actions.length ≤ 4 ∧ e.lines.Nodup)
        ∧ e.cancelPending = false ∧ e.orphaned = false ∧ e.actions = [⟨3, .pulse, some 10⟩] := by
      decide +kernel
    intro i e he
    obtain ⟨h1, h2, h3, h4, h5, h6, h7⟩ := h i e he
    refine ⟨h1, h2, h3, h4, fun a ha => ?_, fun c => ?_, fun c => ?_⟩
    · rw [h7, List.mem_singleton] at ha
      subst ha
      exact ⟨10, rfl, by decide⟩
    · rw [h5] at c
      cases c
    · rw [h6] at c
      cases c
  usage := by decide +kernel
  quota := by decide
  refs := by decide +kernel
  shared := by decide
  exclusive := by decide

/-- Port 0 attached and holding; ports 1 and 2 attached; every slot EMPTY. -/
theorem ready_held (p : Port) : Ready held p := by
  unfold Ready
  revert p
  decide

theorem ready_open3 (p : Port) : Ready open3 p := by
  unfold Ready
  revert p
  decide

theorem admitted_held (k : Kind) : Admitted held 0 k := ⟨by decide, fun _ => by decide⟩

theorem met_StepOnAnEmptyQueue :
    ({ State.reset with inFullReset := true } : State).pending = []
    ∧ (let s := { running with timebase := { running.timebase with msDue := true } }
       s.pending = [] ∧ s.inFullReset = false ∧ s.timebase.msDue = true)
    ∧ (let s := running.mapLine 3 fun l => { l with pulse := some ⟨1000, 0, 0⟩ }
       s.timebase.msDue = false ∧ (s.lines.get 3).pulseDue s.timebase.now = true
        ∧ ∀ k : LineIx, k < 3 → (s.lines.get k).pulseDue s.timebase.now = false)
    ∧ (let s := sweeping pulser
       (∀ l : LineIx, (s.lines.get l).pulseDue s.timebase.now = false)
        ∧ s.schedule.sweep.isSome = true)
    ∧ (let s :=
        passing.mapSchedule fun c => { c with pass := c.pass.map fun a => { a with age := 100 } }
       s.schedule.sweep.isSome = false ∧ Overdue s ∧ s.pending = [])
    ∧ (let s := running.mapTime fun t => { t with refclk := 9 }
       ¬ Overdue s ∧ 9 ≤ s.timebase.refclk)
    ∧ (let s := running.mapTime fun t => { t with refclk := 8 }
       ¬ Overdue s ∧ s.timebase.refclk < 9) := by decide +kernel

theorem met_EveryWellFormedCommandAnswersNext :
    (Instr.attach ⟨0, []⟩ 7 []).wellFormed = true ∧ Kind.ofByte 0x10 ≠ none
      ∧ judgeFrame [0x52] = .good := by decide

theorem met_FramesAndCommandsCorrespond :
    (Instr.attach ⟨0, []⟩ 7 []).wellFormed = true
      ∧ encodeFrame (.attach ⟨0, []⟩ 7 []) = some (⟨0, []⟩, [0x51, 0x07, 0x10, 0x00, 0xD6])
      ∧ decodeFrame ⟨2, []⟩ [0x00] = some (.faultyFrame ⟨2, []⟩ [0x00]) := by decide +kernel

theorem met_FramesThatAreNotTaken :
    Kind.ofByte 0x99 = none
      ∧ (stopping.inFullReset = false ∧ (stopping.ports.get 0).inReset = false
        ∧ (stopping.ports.get 0).slot.isWorking = true ∧ (List.replicate 96 (0 : Byte)).length ≤ 96)
      ∧ (after (.fullReset .pin) held).inFullReset = true
      ∧ ((after (.portReset 1) held).ports.get 1).inReset = true
      ∧ judgeFrame [0x51] = .faulty .truncated ∧ judgeFrame [0x54] = .faulty .unknownType := by
  decide +kernel

theorem met_FaultyFrameSetsTheFrameFault :
    open3.inFullReset = false ∧ (open3.ports.get 0).inReset = false
      ∧ ((0x54 : Byte) ≠ 0x51 ∧ (0x54 : Byte) ≠ 0x52 ∧ (0x54 : Byte) ≠ 0x53)
      ∧ ([0x51, 0, 0, 0] : List Byte).length < 5
      ∧ 96 < (([0x51, 0, 0, 97, 0] : List Byte).getD 3 0).toNat
      ∧ ([0x51, 0, 0, 0, 0, 0] : List Byte).length ≠ 0 + 5
      ∧ crc8 [0x51, 0x07, 0x10, 0x00] ≠ 0xD7
      ∧ 96 < (List.replicate 97 (0 : Byte)).length ∧ Kind.ofByte 0x99 = none := by decide +kernel

theorem met_PollDeliversOrIdles :
    (let s := after (.attach ⟨0, []⟩ 7 []) State.reset
     s.inFullReset = false ∧ (s.ports.get 0).inReset = false ∧ (answer 0 s).isSome = true)
    ∧ (answer 0 State.reset = none ∧ (State.reset.ports.get 0).slot = .empty)
    ∧ (stopping.ports.get 0).slot.isWorking = true := by decide

theorem met_RepeatReturnsTheLastResponse :
    (let s := after (.attach ⟨0, []⟩ 7 []) State.reset
     (answer 0 s).isSome = true ∧ (let t := after (.poll ⟨0, []⟩ []) s
      (t.ports.get 0).slot = .empty ∧ (t.ports.get 0).lastResponse.isSome = true))
    ∧ ((State.reset.ports.get 0).slot = .empty ∧ (State.reset.ports.get 0).lastResponse = none)
    ∧ (stopping.ports.get 0).slot.isWorking = true := by decide +kernel

theorem met_PortChecksRefuse :
    Ready State.reset 1 ∧ (∀ j ∈ allKinds, j.code ≠ 0x99) ∧ 1 ∉ [0]
      ∧ 23 ∉ (List.range 5).map (fun c => 22 + 5 * c)
      ∧ (0 ∈ [0] ∧ State.reset.attached 1 = false
        ∧ Kind.start ∉ [Kind.attach, Kind.queryTime, Kind.queryAuthority]) := by
  unfold Ready
  decide

theorem met_AuthorityAndRetryChecks :
    (Ready held 1 ∧ held.attached 1 = true ∧ Kind.takesLength .start 0 = true
      ∧ Kind.start ∈ privilegedKinds ∧ held.holder ≠ some 1)
    ∧ (Ready passing 1 ∧ passing.attached 1 = true ∧ Kind.takesLength .entryList 1 = true
      ∧ Admitted passing 1 .entryList ∧ Kind.entryList ∈ retryKinds
      ∧ passing.schedule.pass.isSome = true) := by
  unfold Ready Admitted
  decide

/-- A field just outside its range, for each kind that has one. -/
theorem met_BadFieldsAreRefused :
    Ready held 0 ∧ (∀ k, Admitted held 0 k) ∧ held.schedule.pass = none
      ∧ badField .setAttention [2] ∧ badField .step [2, 0, 0, 0, 0, 0, 0, 0]
      ∧ badField .step [1, 2, 0, 0, 0, 0, 0, 0] ∧ badField .slew [0xE9, 3, 1, 0]
      ∧ badField .slew [0x17, 0xFC, 1, 0] ∧ badField .slew [1, 0, 0, 0]
      ∧ badField .entryCancel [64, 0] ∧ badField .entryList [64] ∧ badField .setQuota [3, 0]
      ∧ badField .setQuota [2, 65] ∧ badField .purgePort [3] ∧ badField .lineQuery [16]
      ∧ badField .setLinePolicy [15, 8, 0, 0] ∧ badField .forceLine [15, 3]
      ∧ badField .claim [0, 0, 0] ∧ badField .claim [1, 0, 2] ∧ badField .renew [0, 0]
      ∧ badField .setGrace [0] ∧ badField .setCapture [4, 0, 0, 0]
      ∧ badField .setCapture [3, 4, 0, 0] ∧ badField .subscribe [16]
      ∧ badField .readCaptures [5] ∧ badField .fetchNotices [0] := by
  refine ⟨ready_held 0, admitted_held, by decide, ?_⟩
  simp only [badField]
  decide

/-- The same in a pass, from a port that waits for nothing; a STEP that finds a pass. -/
theorem met_BadFieldsAreRefused_inPass :
    (Ready passing 1 ∧ Admitted passing 1 .lineQuery ∧ passing.schedule.pass ≠ none
      ∧ Kind.lineQuery ∉ retryKinds ∧ Kind.takesLength .lineQuery 1 = true
      ∧ badField .lineQuery [16])
    ∧ (let s := passing.mapPort 0 fun i => { i with slot := .empty }
       Ready s 0 ∧ Admitted s 0 .step ∧ Kind.step ∉ retryKinds
        ∧ badField .step [2, 0, 0, 0, 0, 0, 0, 0]) := by
  simp only [badField]
  unfold Ready Admitted
  decide

/-- An ENTRY_ADD payload with no action and no notice; one whose action names line 16; one that names a
line twice; a PULSE of width 0. -/
theorem met_BadFieldsAreRefused_entryAdd :
    badField .entryAdd (List.replicate 22 0)
      ∧ badField .entryAdd (List.replicate 21 0 ++ [1, 16, 1, 0, 0, 0])
      ∧ badField .entryAdd (List.replicate 21 0 ++ [2, 3, 1, 0, 0, 0, 3, 1, 0, 0, 0])
      ∧ badField .entryAdd (List.replicate 21 0 ++ [1, 3, 0, 0, 0, 0]) := by
  simp only [badField, badAdd]
  refine ⟨?_, ?_, ?_, ?_⟩ <;> decide +kernel

theorem met_AnswersGoToTheirTicket :
    (stopping.ports.get 0).slot = .working { tag := 9, kind := 0x22, ticket := 0 }
      ∧ (State.reset.ports.get 0).slot = .empty ∧ (0 : BitVec 16) ≠ 1 := by decide

theorem met_AttachOpensASession :
    (Ready State.reset 0 ∧ State.reset.attached 0 = false)
      ∧ (Ready open3 0 ∧ open3.attached 0 = true) := by
  unfold Ready
  decide

theorem met_DetachClosesTheSession :
    Ready held 0 ∧ held.attached 0 = true ∧ held.holder = some 0 ∧ Ready demanded 0
      ∧ demanded.authority.waits 0 = true ∧ demanded.attached 0 = true := by
  unfold Ready
  decide

theorem met_PortResetDetachesAndClears :
    (held.inFullReset = false ∧ held.attached 0 = true)
      ∧ (State.reset.inFullReset = false ∧ State.reset.attached 0 = false)
      ∧ (after (.fullReset .pin) held).inFullReset = true := by decide

theorem met_FullResetReturnsEveryBlock : (after (.fullReset .pin) held).inFullReset = true := by
  decide

theorem met_FullResetEndSamplesThePins :
    (after (.fullReset .pin) held).inFullReset = true ∧ held.inFullReset = false := by decide

theorem met_PostStoresOrDiscards :
    State.reset.attached 0 = false
      ∧ (let s := open3.mapQueue 0 fun q =>
          { q with queue := List.replicate 16 ⟨0, 0, 0, .timebaseState .started⟩ }
         s.attached 0 = true ∧ 16 ≤ (s.notices.get 0).queue.length)
      ∧ (let s := open3.mapQueue 0 fun q =>
          { q with queue := List.replicate 15 ⟨0, 0, 0, .timebaseState .started⟩ }
         s.attached 0 = true ∧ (s.notices.get 0).queue.length < 16) := by decide

theorem met_AttentionLineAndStatusByte : Ready open3 0 ∧ open3.attached 0 = true :=
  ⟨ready_open3 0, by decide⟩

theorem met_FetchNoticesReturnsTheOldest :
    Ready noticed 0 ∧ noticed.attached 0 = true ∧ 1 ≤ 4 ∧ 4 ≤ 4 := by
  unfold Ready
  decide

theorem met_AckNoticesRemovesThroughSeq :
    Ready noticed 0 ∧ noticed.attached 0 = true
      ∧ (∀ x ∈ (noticed.notices.get 0).queue, x.seq ≠ 1)
      ∧ ((noticed.notices.get 0).queue = [] ++ ⟨0, 0, 0, .timebaseState .started⟩ :: []
        ∧ (noticed.notices.get 0).overflow = 0)
      ∧ (let s := noticed.mapQueue 0 fun q => { q with overflow := 0x0800 }
         Ready s 0 ∧ (s.notices.get 0).overflow ≠ 0) := by
  unfold Ready
  decide

theorem met_QueriesOfTimeAndAuthority : Ready open3 2 ∧ Ready demanded 1 := by
  unfold Ready
  decide

theorem met_StartTaken :
    (Ready held 0 ∧ Admitted held 0 .start ∧ held.timebase.state = .stopped
      ∧ held.timebase.now < maxNow)
    ∧ (let s := held.mapTime fun t => { t with now := maxNow }
       Ready s 0 ∧ Admitted s 0 .start ∧ s.timebase.state = .stopped ∧ s.timebase.now = maxNow)
    ∧ (Ready running 0 ∧ Admitted running 0 .start ∧ running.timebase.state = .running)
    ∧ (let s :=
        running.mapTime fun t => { t with state := .stopping, stopWaiters := [⟨1, 0⟩, ⟨0, 5⟩] }
       Ready s 0 ∧ Admitted s 0 .start ∧ s.timebase.state = .stopping
        ∧ ∀ w ∈ s.timebase.stopWaiters, w.port = 0 → w.ticket ≠ (s.ports.get 0).nextTicket) := by
  unfold Ready Admitted
  decide

theorem met_StopTaken :
    (Ready held 0 ∧ Admitted held 0 .stop ∧ held.timebase.state = .stopped)
      ∧ (Ready running 0 ∧ Admitted running 0 .stop ∧ running.timebase.state ≠ .stopped) := by
  unfold Ready Admitted
  decide

/-- BUSY with a pass; a new Now of -1 and of 2^48; a new Now of 0 and of 2^48-1. -/
theorem met_StepTaken :
    (let s := passing.mapPort 0 fun i => { i with slot := .empty }
     Ready s 0 ∧ Admitted s 0 .step ∧ s.schedule.pass.isSome = true)
    ∧ ((0 : Int) - natAt [1, 1, 1, 0, 0, 0, 0, 0] 2 6 < 0
      ∧ (maxNow : Int) < maxNow + natAt [1, 0, 1, 0, 0, 0, 0, 0] 2 6)
    ∧ ((1000 : Int) - natAt [1, 1, 0xE8, 3, 0, 0, 0, 0] 2 6 = 0
      ∧ natAt [0, 0, 0xFF, 0xFF, 0xFF, 0xFF, 0xFF, 0xFF] 2 6 = maxNow)
    ∧ ¬ badField .step [1, 1, 0xE8, 3, 0, 0, 0, 0] ∧ held.schedule.pass = none := by
  simp only [badField]
  unfold Ready Admitted
  decide +kernel

theorem met_StepTaken_lists :
    Ready (withEntry pulser) 0 ∧ Admitted (withEntry pulser) 0 .step ∧ ListsWf (withEntry pulser) := by
  refine ⟨?_, ?_, lists_entry⟩
  · unfold Ready
    decide
  · exact ⟨by decide, fun _ => by decide⟩

/-- A rate of 0, of 1000 and of -1000. -/
theorem met_SlewTaken :
    Ready held 0 ∧ Admitted held 0 .slew ∧ ¬ badField .slew [0, 0, 0, 0]
      ∧ ¬ badField .slew [0xE8, 3, 1, 0] ∧ ¬ badField .slew [0x18, 0xFC, 0xFF, 0xFF] := by
  refine ⟨ready_held 0, admitted_held .slew, ?_⟩
  simp only [badField]
  decide

theorem met_MicrosecondInStopped :
    (held.inFullReset = false ∧ held.timebase.state = .stopped ∧ ¬ Overdue held)
      ∧ Overdue (passing.mapSchedule fun c =>
          { c with pass := c.pass.map fun a => { a with age := 100 } })
      ∧ ¬ Overdue (passing.mapSchedule fun c =>
          { c with pass := c.pass.map fun a => { a with age := 99 } }) := by decide

theorem met_MicrosecondAdvancesNow :
    (running.inFullReset = false ∧ ¬ Overdue running ∧ running.timebase.state ≠ .stopped)
      ∧ (stopping.inFullReset = false ∧ ¬ Overdue stopping
        ∧ stopping.timebase.state ≠ .stopped) := by decide

theorem met_SlewDoneEndsTheSlew :
    running.inFullReset = false
      ∧ (let sl : Slew := ⟨5, 1, 999, 0⟩; sl.phase = 999 ∧ sl.remaining = 1)
      ∧ running.timebase.state ≠ .stopped ∧ running.timebase.slew = none
      ∧ (let sl : Slew := ⟨5, 1, 998, 0⟩; 1 ≤ sl.remaining ∧ sl.phase < 999)
      ∧ (let sl : Slew := ⟨5, 2, 999, 0⟩; 1 < sl.remaining) := by decide

/-- The fields of the entry that the tests add. -/
def pulserFields : AddFields :=
  { trigger := .absolute, time := 5, input := none, allowLate := false, period := 0, repeats := 0
    stepPolicy := .shift, orphanPolicy := .cancel, notify := true, label := none
    actions := [⟨3, .pulse, some 10⟩] }

/-- Its payload. -/
def pulserPayload : List Byte :=
  [0, 5, 0, 0, 0, 0, 0, 0, 0, 0, 0, 0, 0, 0, 0, 1, 1, 1, 0, 0, 0, 1, 3, 0, 10, 0, 0]

theorem met_EntryAddPayloadIsRead :
    pulserFields.time ≤ maxNow ∧ (pulserFields.input.isSome = true ↔ pulserFields.trigger = .onCapture)
      ∧ pulserFields.period ≤ 4294967295 ∧ pulserFields.repeats ≤ 65535
      ∧ pulserFields.actions.length ≤ 4 ∧ (pulserFields.actions.map LineAction.line).Nodup
      ∧ (∀ a ∈ pulserFields.actions, ∃ w ∈ a.width, 1 ≤ w ∧ w ≤ 1048575)
      ∧ pulserFields.notify = true ∧ decodeAdd pulserPayload = some pulserFields := by
  refine ⟨by decide, by decide, by decide, by decide, by decide, by decide, fun a ha => ?_, rfl,
    by decide +kernel⟩
  have : a = ⟨3, .pulse, some 10⟩ := List.mem_singleton.mp ha
  subst this
  exact ⟨10, rfl, by decide⟩

theorem met_EntryAddCreatesTheEntry :
    Ready held 0 ∧ Admitted held 0 .entryAdd ∧ held.schedule.pass = none ∧ ListsWf held
      ∧ Kind.takesLength .entryAdd pulserPayload.length = true
      ∧ decodeAdd pulserPayload = some pulserFields ∧ held.addRefusal 0 pulserFields = none
      ∧ held.schedule.entryAt 0 = none ∧ ∀ j : SlotIx, ¬ j < 0 :=
  ⟨ready_held 0, admitted_held .entryAdd, by decide, lists_held, by decide, by decide +kernel,
    by decide +kernel, by decide, by decide⟩

/-- The first check that fails: BAD_WIDTH at a width equal to the period, LINE_DENIED, LINE_IN_USE,
QUOTA_EXCEEDED, TABLE_FULL, PAST_DUE at a due equal to Now, TIME_RANGE at 2^48. -/
theorem met_EntryAddChecksInOrder :
    held.addRefusal 0 { pulserFields with period := 10 } = some .badWidth
      ∧ (held.mapLine 3 fun l => { l with writerMask := 6 }).addRefusal 0 pulserFields =
          some .lineDenied
      ∧ (held.mapLine 3 fun l => { l with mode := .exclusive, exclHolder := some 1 }).addRefusal 0
          pulserFields = some .lineInUse
      ∧ (held.mapSchedule fun c => { c with usage := c.usage.set 0 32 }).addRefusal 0 pulserFields =
          some .quotaExceeded
      ∧ (held.mapSchedule fun c => { c with slots := Table.fill 64 ⟨0, some pulser⟩ }).addRefusal 0
          pulserFields = some .tableFull
      ∧ (held.mapTime fun t => { t with now := 5 }).addRefusal 0 pulserFields = some .pastDue
      ∧ (held.mapTime fun t => { t with now := maxNow }).addRefusal 0
          { pulserFields with trigger := .offset, time := 1 } = some .timeRange := by decide +kernel

theorem met_HandlesAreChecked :
    (let s := withEntry pulser
     Ready s 0 ∧ Ready s 1 ∧ s.attached 0 = true ∧ s.attached 1 = true ∧ s.schedule.pass = none
      ∧ s.schedule.entryAt 1 = none ∧ (s.schedule.slots.get 0).tag ≠ 1
      ∧ s.schedule.entryAt 0 = some pulser ∧ (s.schedule.slots.get 0).tag = 0
      ∧ pulser.owner ≠ 1 ∧ s.holder ≠ some 1 ∧ pulser.state ≠ .held)
    ∧ ({ pulser with state := .held } : Entry).state ≠ .scheduled := by
  unfold Ready
  decide

theorem met_EntryCancelFreesTheEntry :
    let s := withEntry pulser
    Ready s 0 ∧ s.attached 0 = true ∧ s.schedule.pass = none ∧ s.schedule.entryAt 0 = some pulser
      ∧ pulser.owner = 0 ∧ pulser.lines.Nodup := by
  unfold Ready
  decide

theorem met_EntryHoldAndResume :
    (pulser.state = .scheduled ∧ pulser.owner = 0 ∧ ListsWf (withEntry pulser))
      ∧ (Ready (withEntry { pulser with state := .held }) 0
        ∧ ListsWf (withEntry { pulser with state := .held })) := by
  refine ⟨⟨rfl, rfl, lists_entry⟩, ?_, lists_heldEntry⟩
  unfold Ready
  decide

theorem met_ScheduleQueriesAnswer :
    let s := withEntry pulser
    Ready s 0 ∧ s.attached 0 = true ∧ s.schedule.entryAt 0 = some pulser ∧ pulser.owner = 0
      ∧ s.schedule.pass = none := by
  unfold Ready
  decide

theorem met_SetQuotaSetsOneQuota :
    let s := withEntry pulser
    Ready s 0 ∧ Admitted s 0 .setQuota ∧ s.schedule.usage.get 0 ≤ 1 ∧ 0 < s.schedule.usage.get 0 := by
  unfold Ready Admitted
  decide

theorem met_PurgePortFreesThePort :
    let s := withEntry pulser
    Ready s 0 ∧ Admitted s 0 .purgePort ∧ s.schedule.pass = none ∧ EntriesWf s := by
  refine ⟨?_, ?_, by decide, entries_entry⟩
  · unfold Ready
    decide
  · exact ⟨by decide, fun _ => by decide⟩

theorem met_ExpiryEndsOrRepeatsTheEntry :
    (passing.schedule.pass ≠ none ∧ held.schedule.sweep = none ∧ held.schedule.dueList = []
      ∧ (withEntry pulser).schedule.dueList.head? = some 0
      ∧ held.timebase.now < (withEntry pulser).schedule.dueAt 0)
    ∧ (let s := sweeping pulser
       s.inFullReset = false ∧ s.schedule.pass = none ∧ s.schedule.dueList = [0]
        ∧ s.schedule.sweep = some [0] ∧ s.schedule.entryAt 0 = some pulser ∧ pulser.due = some 5
        ∧ 5 ≤ s.timebase.now ∧ pulser.lines.Nodup ∧ pulser.period = 0)
    ∧ (sweeping { pulser with period := 100 }).schedule.dueList = [0] := by decide

theorem met_ExpiryEndsOrRepeatsTheEntry_lists :
    ListsWf (sweeping pulser) ∧ ListsWf (sweeping { pulser with period := 100 }) :=
  ⟨lists_sweeping, lists_periodic⟩

theorem met_ExpiryActsAndTells :
    let s := sweeping pulser
    s.inFullReset = false ∧ s.schedule.pass = none ∧ s.schedule.dueList = 0 :: []
      ∧ s.schedule.sweep = some [0] ∧ s.schedule.entryAt 0 = some pulser ∧ pulser.due = some 5
      ∧ 5 ≤ s.timebase.now ∧ pulser.lines.Nodup ∧ pulser.cancelPending = false
      ∧ pulser.actions = [⟨3, .pulse, some 10⟩] := by decide

theorem met_PassCompletes :
    passing.inFullReset = false ∧ passing.schedule.pass.isSome = true
      ∧ passing.schedule.sweep = none
      ∧ (held.inFullReset = false ∧ held.schedule.pass = none) := by decide

/-- A line for each clause: forced, asserted, in a pulse, at rest, and one that only its refs tell apart. -/
theorem met_OutputsAreComposed :
    let forced : Line := { Line.reset with force := some ⟨.deasserted, 2⟩, base := .asserted }
    let pulsed : Line := { Line.reset with pulse := some ⟨5, 0, 0⟩ }
    forced.force = some ⟨.deasserted, 2⟩ ∧ pulsed.force = none ∧ pulsed.pulse ≠ none
      ∧ (⟨3, .release, none⟩ : LineAction).kind = .release
      ∧ ({ Line.reset with base := .asserted } : Line).base = .asserted
      ∧ Line.reset.force = none ∧ Line.reset.base = .deasserted ∧ Line.reset.pulse = none
      ∧ (Line.reset.addRef 0).force = Line.reset.force
      ∧ (Line.reset.addRef 0).base = Line.reset.base
      ∧ ((Line.reset.addRef 0).pulse = none ↔ Line.reset.pulse = none) := by decide

/-- One action of each kind; a fresh pulse and a retrigger; a due pulse end, and none. -/
theorem met_ActionsPulseEndsAndPins :
    ((⟨3, .assert, none⟩ : LineAction).kind = .assert ∧ (⟨3, .release, none⟩ : LineAction).kind = .release
      ∧ (⟨3, .invert, none⟩ : LineAction).kind = .invert
      ∧ ((⟨3, .pulse, some 10⟩ : LineAction).kind = .pulse ∧ Line.reset.pulse = none)
      ∧ ({ Line.reset with pulse := some ⟨5, 0, 0⟩ } : Line).pulse = some ⟨5, 0, 0⟩)
    ∧ (let s := running.mapLine 3 fun l => { l with pulse := some ⟨1000, 0, 0⟩ }
       s.inFullReset = false ∧ (s.lines.get 3).pulse = some ⟨1000, 0, 0⟩ ∧ 1000 ≤ s.timebase.now)
    ∧ (running.timebase.now < 1001 ∧ (running.lines.get 3).pulse = none) := by decide

theorem met_LineRequestsTaken :
    Ready held 0 ∧ held.attached 0 = true ∧ held.holder = some 0
      ∧ ¬ (2 ≤ allPorts.countP fun q => decide (0 < (held.lines.get 3).refs.get q))
      ∧ (let x := ((Line.reset.addRef 0).addRef 1)
         x.mode = .shared ∧ 2 ≤ allPorts.countP fun q => decide (0 < x.refs.get q)) := by
  unfold Ready
  decide

theorem met_ClaimTaken :
    (Ready open3 1 ∧ open3.attached 1 = true ∧ open3.holder = none ∧ open3.authority.waiters = [])
      ∧ (Ready held 0 ∧ held.holder = some 0)
      ∧ (Ready demanded 0 ∧ demanded.holder ≠ some 0 ∧ ∃ w ∈ demanded.authority.waiters, w.port = 0)
      ∧ (Ready held 1 ∧ held.holder = some 0 ∧ (0 : Port) ≠ 1 ∧ held.authority.waiters = []) := by
  unfold Ready
  decide

theorem met_ReleaseTaken :
    (Ready demanded 2 ∧ demanded.attached 2 = true ∧ demanded.holder = some 2)
      ∧ (Ready demanded 0 ∧ demanded.holder ≠ some 0
        ∧ ∃ w ∈ demanded.authority.waiters, w.port = 0)
      ∧ (Ready demanded 1 ∧ demanded.holder ≠ some 1
        ∧ ∀ w ∈ demanded.authority.waiters, w.port ≠ 1) := by
  unfold Ready
  decide

theorem met_RenewAndSetGrace :
    (Ready held 1 ∧ held.attached 1 = true ∧ held.holder ≠ some 1)
      ∧ (Ready demanded 2 ∧ demanded.holder = some 2 ∧ demanded.authority.demand ≠ none)
      ∧ (Ready held 0 ∧ held.holder = some 0 ∧ held.authority.demand = none)
      ∧ 1 ≤ 65535 ∧ 1 ≤ 255 := by
  unfold Ready
  decide

theorem met_MillisecondCounts :
    (open3.inFullReset = false ∧ open3.authority.tenure = none)
      ∧ (held.authority.tenure = some ⟨0, 100⟩ ∧ held.authority.demand = none ∧ 1 < 100)
      ∧ (let a := { demanded.authority with tenure := some ⟨2, 2⟩, demand := some ⟨0, 2⟩ }
         a.tenure = some ⟨2, 2⟩ ∧ a.demand = some ⟨0, 2⟩ ∧ 1 < 2)
      ∧ held.timebase.msDue = false := by decide

theorem met_HolderIsRevoked :
    demanded.inFullReset = false ∧ demanded.authority.tenure = some ⟨2, 1⟩
      ∧ (⟨2, 1⟩ : Tenure).leaseRemaining ≤ 1
      ∧ (demanded.authority.demand = some ⟨0, 1⟩ ∧ (⟨0, 1⟩ : Demand).graceRemaining ≤ 1) := by decide

theorem met_CaptureEdgeTaken :
    (let s := watching (withEntry waiter)
     let x := s.capture.inputs.get 2
     s.inFullReset = false ∧ x.level = .low ∧ x.edge = .rising ∧ x.sinceLast = none
      ∧ s.schedule.waiting.get 2 = [0])
    ∧ (held.capture.inputs.get 2).edge = .off := by decide

/-- A hand-over whose due is 2^48-1 and one whose due is 2^48. -/
theorem met_CaptureEdgeTaken_range :
    ((maxNow - 7) + waiter.captureOffset.getD 0 ≤ maxNow
      ∧ maxNow < (maxNow - 6) + waiter.captureOffset.getD 0)
    ∧ (let s := (watching (withEntry waiter)).mapTime fun t => { t with now := maxNow - 6 }
       ((after (.captureEdge 2 .rising) s).schedule.usage.get 0,
        ((after (.captureEdge 2 .rising) s).lines.get 3).refs.get 0,
        freedRefs s (after (.captureEdge 2 .rising) s) 0 3) = (0, 0, 1)) := by decide +kernel

theorem met_CaptureEdgeTaken_lists : ListsWf (watching (withEntry waiter)) := lists_waiter

theorem met_SetCaptureAndSubscribe :
    Ready held 0 ∧ held.attached 0 = true ∧ held.holder = some 0 ∧ 65535 ≤ 65535 := by
  unfold Ready
  decide

/-- The capture log with one record. -/
theorem capture_logged : CaptureWf logged where
  room := by decide
  distinct := by decide
  readers := by decide +kernel
  detached := by decide
  inputs := by
    have h : ∀ i : InputIx, (logged.capture.inputs.get i).holdoff ≤ 65535
        ∧ ∀ n ∈ (logged.capture.inputs.get i).sinceLast, n ≤ 65535 := by decide
    exact h

theorem met_ReadCapturesConsumes :
    Ready logged 1 ∧ logged.attached 1 = true ∧ 1 ≤ 4 ∧ 4 ≤ 4 ∧ CaptureWf logged := by
  refine ⟨?_, by decide, by decide, by decide, capture_logged⟩
  unfold Ready
  decide

/-! ### The invariants hold in states that are not the reset state, and steps are taken from them -/

/-- The queue holds one command. -/
def asked (c : Instr) (s : State) : State := { s with pending := [c] }

theorem met_StepsKeepTheTimebase :
    TimebaseWf (asked .referenceMicrosecond stopping)
      ∧ ∃ t, step (asked .referenceMicrosecond stopping) = .next t :=
  ⟨⟨by decide, by decide, fun _ h => (by cases h), by decide, by decide⟩, _, rfl⟩

theorem met_StepsKeepTheNoticeQueues :
    NoticesWf (asked (.ackNotices ⟨0, []⟩ 7 [0, 0]) noticed)
      ∧ ∃ t, step (asked (.ackNotices ⟨0, []⟩ 7 [0, 0]) noticed) = .next t := by
  refine ⟨⟨fun p => ⟨?_, ?_, ?_, ?_⟩, by decide⟩, _, rfl⟩
  · revert p
    decide
  · revert p
    decide
  · revert p
    decide
  · intro j n h
    match p with
    | 0 =>
      cases j with
      | zero => injection h with h; subst h; rfl
      | succ j => cases h
    | 1 => cases h
    | 2 => cases h

theorem met_StepsKeepTheAuthority :
    AuthorityWf (asked .referenceMillisecond demanded)
      ∧ ∃ t, step (asked .referenceMillisecond demanded) = .next t := by
  refine ⟨⟨?_, by decide, by decide, by decide, by decide, ?_, by decide, by decide⟩, _, rfl⟩
  · intro x h
    injection h with h
    subst h
    decide
  · intro x h d hd
    injection h with h
    injection hd with hd
    subst h hd
    decide

theorem met_StepsKeepTheCaptureLog :
    CaptureWf (asked (.readCaptures ⟨1, []⟩ 7 [1]) logged)
      ∧ ∃ t, step (asked (.readCaptures ⟨1, []⟩ 7 [1]) logged) = .next t :=
  ⟨⟨capture_logged.room, capture_logged.distinct, capture_logged.readers, capture_logged.detached,
    capture_logged.inputs⟩, _, rfl⟩

theorem met_StepsKeepForcesAndWorkingSlots :
    (let s := asked (.release ⟨0, []⟩ 7 []) (held.mapLine 3 fun l => { l with force := some ⟨.asserted, 0⟩ })
     LinesWf s ∧ ∃ t, step s = .next t)
    ∧ (let s := asked .referenceMicrosecond stopping
       WorkingWf s ∧ ∃ t, step s = .next t) := by
  refine ⟨⟨⟨?_, by decide, ?_⟩, _, rfl⟩, ?_, _, rfl⟩
  · have h : ∀ l : LineIx, ∀ f ∈
        ((held.mapLine 3 fun l => { l with force := some ⟨.asserted, 0⟩ }).lines.get l).force,
        held.holder = some f.port := by decide
    exact h
  · have h : ∀ l : LineIx,
        ((held.mapLine 3 fun l => { l with force := some ⟨.asserted, 0⟩ }).lines.get l).pulse = none := by
      decide
    intro l u hu
    have hu' := (h l).symm.trans hu
    cases hu'
  · intro p h hs
    match p with
    | 0 =>
      injection hs with hs
      subst hs
      exact Or.inl List.mem_cons_self
    | 1 => cases hs
    | 2 => cases hs

theorem met_StepsKeepTheLists :
    ListsWf (asked .expiry (sweeping pulser))
      ∧ (∃ t, step (asked .expiry (sweeping pulser)) = .next t)
      ∧ ListsWf (asked .passComplete passing)
      ∧ ∃ t, step (asked .passComplete passing) = .next t :=
  ⟨lists_of _ (by decide +kernel), ⟨_, rfl⟩, lists_of _ (by decide +kernel), _, rfl⟩

theorem met_StepsKeepTheEntries :
    ListsWf (asked (.entryCancel ⟨0, []⟩ 7 [0, 0]) (withEntry pulser))
      ∧ EntriesWf (asked (.entryCancel ⟨0, []⟩ 7 [0, 0]) (withEntry pulser))
      ∧ ∃ t, step (asked (.entryCancel ⟨0, []⟩ 7 [0, 0]) (withEntry pulser)) = .next t := by
  refine ⟨lists_of _ (by decide +kernel), ⟨?_, entries_entry.usage, entries_entry.quota,
    entries_entry.refs, entries_entry.shared, entries_entry.exclusive⟩, _, rfl⟩
  intro i e h
  obtain ⟨h1, h2, h3, h4, h5, h6, h7⟩ := entries_entry.entries i e h
  exact ⟨h1, h2, h3, h4, h5, h6, h7⟩

end Sys2Proof.Tests
end

/-! PROOFS. The invariant of the timebase: every step keeps it. -/
namespace Sys2Proof.Machine

/-! ### The invariant of the timebase (R1, R2, R4, R11 to R13) -/

/-- The invariant speaks of the timebase record alone. -/
theorem TimebaseWf.of_timebase_eq {s t : State} (h : TimebaseWf s) (e : t.timebase = s.timebase) :
    TimebaseWf t := by
  obtain ⟨hnow, hwaiters, hslew, hrefclk, hmicros⟩ := h
  constructor <;> rw [e] <;> assumption

/-- A timebase with the reset values is in its ranges (R21). -/
theorem TimebaseWf.of_reset {s : State} (e : s.timebase = .reset) : TimebaseWf s := by
  constructor <;> rw [e] <;> simp [Timebase.reset]

/-- No STOP waits in STOPPED and RUNNING (R4). -/
theorem TimebaseWf.noWaiters {s : State} (h : TimebaseWf s) (hs : s.timebase.state ≠ .stopping) :
    s.timebase.stopWaiters = [] := h.waiters.mpr hs

/-- A change of state that leaves no STOP waiting leads to STOPPED or RUNNING. -/
theorem TimebaseWf.of_settled {s t : State} (h : TimebaseWf s) (b : TimeState)
    (hb : b ≠ .stopping)
    (e : t.timebase = { s.timebase with state := b, stopWaiters := [] }) : TimebaseWf t := by
  obtain ⟨hnow, -, hslew, hrefclk, hmicros⟩ := h
  constructor <;> rw [e]
  · exact hnow
  · exact ⟨fun _ => hb, fun _ => rfl⟩
  · exact hslew
  · exact hrefclk
  · exact hmicros

/-- The end of a slew keeps the ranges (R15). -/
theorem TimebaseWf.endSlew {s : State} (h : TimebaseWf s) (reason : SlewReason) :
    TimebaseWf (s.endSlew reason) := by
  obtain ⟨hnow, hwaiters, -, hrefclk, hmicros⟩ := h
  constructor <;> rw [State.endSlew_timebase]
  · exact hnow
  · exact hwaiters
  · exact fun _ e => nomatch e
  · exact hrefclk
  · exact hmicros

/-! #### The requests of the timebase -/

/-- `n` little-endian bytes spell a number below 256 to the power `n` (R191). -/
theorem leNat_lt (bs : List Byte) : leNat bs < 256 ^ bs.length := by
  induction bs with
  | nil => exact Nat.one_pos
  | cons b bs ih =>
    rw [leNat, List.length_cons, Nat.pow_succ]
    have hb := b.isLt
    omega

/-- A number in `n` bytes of a payload lies below 256 to the power `n` (R191). -/
theorem natAt_lt (pl : List Byte) (off n : Nat) : natAt pl off n < 256 ^ n :=
  (leNat_lt _).trans_le
    (Nat.pow_le_pow_right (by decide) (List.length_take_le n (pl.drop off)))

/-- The Now that a STEP leads to lies in the range of Now (R16 check 4). -/
theorem StepTarget.newNow_le (target : StepTarget) (now n : Nat)
    (h : target.newNow now = some n) : n ≤ maxNow := by
  unfold StepTarget.newNow at h
  cases target with
  | absolute t =>
    simp only [Option.ite_none_right_eq_some, Option.some.injEq] at h
    omega
  | offset d =>
    simp only [Option.ite_none_right_eq_some, Option.some.injEq] at h
    omega

/-- The slew record that a SLEW of another rate than 0 begins lies in its ranges (R11). -/
theorem decodeSlew_wf (pl : List Byte) (f : SlewFields) (h : decodeSlew pl = some f)
    (hr : f.rate ≠ 0) :
    Slew.Wf { rate := f.rate, remaining := f.duration, phase := 0, accumulator := 0 } := by
  have hd := natAt_lt pl 2 2
  unfold decodeSlew at h
  simp only [Option.ite_none_left_eq_some, Option.some.injEq] at h
  obtain ⟨hrange, hzero, rfl⟩ := h
  unfold Slew.Wf
  dsimp only at hr ⊢
  omega

theorem State.startTaken_keeps_timebaseWf {s : State} (p : Port) (k : BitVec 16)
    (h : TimebaseWf s) : TimebaseWf (State.startTaken p k s) := by
  unfold State.startTaken
  split
  · next hs =>
    split
    · exact h.of_timebase_eq (State.refuse_timebase _ _ _ _)
    · refine h.of_settled .running (by decide) ?_
      have hw := h.noWaiters (by rw [hs]; decide)
      rw [State.postWhere_timebase, State.answer_timebase, State.mapTime_timebase, ← hw]
  · exact h.of_timebase_eq (State.answer_timebase _ _ _ _ _ _)
  · refine h.of_settled .running (by decide) ?_
    rw [State.answer_timebase, State.answerStops_timebase, State.mapTime_timebase]

theorem State.stopTaken_keeps_timebaseWf {s : State} (p : Port) (k : BitVec 16)
    (h : TimebaseWf s) : TimebaseWf (State.stopTaken p k s) := by
  have hstopping : TimebaseWf (s.mapTime fun t =>
      { t with
        state := .stopping
        stopWaiters := t.stopWaiters ++ [{ port := p, ticket := k }] }) :=
    ⟨h.now, by simp, h.slew, h.refclk, h.micros⟩
  unfold State.stopTaken
  split
  · exact h.of_timebase_eq (State.answer_timebase _ _ _ _ _ _)
  · exact hstopping
  · exact hstopping

theorem State.stepTaken_keeps_timebaseWf {s : State} (p : Port) (pl : List Byte) (k : BitVec 16)
    (h : TimebaseWf s) : TimebaseWf (State.stepTaken p pl k s) := by
  unfold State.stepTaken
  split
  · exact h.of_timebase_eq (State.refuse_timebase _ _ _ _)
  · next target _ =>
    split
    · exact h.of_timebase_eq (State.refuse_timebase _ _ _ _)
    · split
      · exact h.of_timebase_eq (State.refuse_timebase _ _ _ _)
      · next n hn =>
        constructor <;> rw [State.takeStep_timebase]
        · exact target.newNow_le _ n hn
        · exact h.waiters
        · exact fun _ e => nomatch e
        · exact h.refclk
        · exact h.micros

theorem State.slewTaken_keeps_timebaseWf {s : State} (p : Port) (pl : List Byte) (k : BitVec 16)
    (h : TimebaseWf s) : TimebaseWf (State.slewTaken p pl k s) := by
  unfold State.slewTaken
  split
  · exact h.of_timebase_eq (State.refuse_timebase _ _ _ _)
  · next f hf =>
    refine TimebaseWf.of_timebase_eq ?_ (State.answer_timebase _ _ _ _ _ _)
    split
    · exact h.endSlew .cancelled
    · next hr =>
      obtain ⟨hnow, hwaiters, -, hrefclk, hmicros⟩ := h.endSlew .superseded
      refine ⟨hnow, hwaiters, fun sl e => ?_, hrefclk, hmicros⟩
      cases e
      exact decodeSlew_wf pl f hf hr

/-! #### The reference clock -/

/-- A slew record that has counted one slew microsecond lies in its ranges, but for a remaining of 0, which
ends the slew (R12, R13). -/
theorem Slew.tick_wf (sl : Slew) (h : sl.Wf) (hr : sl.tick.remaining ≠ 0) : sl.tick.Wf := by
  have hacc := sl.tick_accumulator h
  obtain ⟨hrate, hlow, hhigh, hleft, hmost, hphase, -⟩ := h
  refine ⟨hrate, hlow, hhigh, Nat.pos_of_ne_zero hr, ?_, ?_, hacc⟩
  · unfold Slew.tick
    dsimp only
    split <;> omega
  · unfold Slew.tick
    dsimp only
    split <;> omega

theorem State.settleState_keeps_timebaseWf {s : State} (h : TimebaseWf s) :
    TimebaseWf s.settleState := by
  unfold State.settleState
  split
  · unfold State.timeEnd
    refine TimebaseWf.of_timebase_eq (TimebaseWf.endSlew ?_ .timeEnd)
      (State.postWhere_timebase _ _ _)
    exact h.of_settled .stopped (by decide) (State.answerStops_timebase _ _)
  · split
    · refine h.of_settled .stopped (by decide) ?_
      unfold State.stopCompletes
      rw [State.postWhere_timebase, State.answerStops_timebase, State.mapTime_timebase]
    · exact h

/-- The end of a slew that has reached remaining 0, after the count of a microsecond (R13). -/
theorem State.endSlewIfDone_keeps_timebaseWf {s t : State} (h : TimebaseWf s)
    (e : t.timebase =
      { s.timebase with now := s.timebase.advancedNow, slew := s.timebase.slew.map Slew.tick }) :
    TimebaseWf t.endSlewIfDone := by
  obtain ⟨-, hwaiters, hslew, hrefclk, hmicros⟩ := h
  have hnow := s.timebase.advancedNow_le
  have hrest (sl : Option Slew) (hsl : ∀ x, sl = some x → x.Wf) (u : State)
      (eu : u.timebase = { t.timebase with slew := sl }) : TimebaseWf u := by
    rw [e] at eu
    constructor <;> rw [eu] <;> assumption
  unfold State.endSlewIfDone
  split
  · next sl hsl =>
    split
    · exact hrest none (fun _ c => nomatch c) _ (State.endSlew_timebase _ _)
    · next hr =>
      refine hrest (some sl) (fun x c => ?_) t (by rw [← hsl])
      rw [e] at hsl
      obtain ⟨x0, hx0, rfl⟩ := Option.map_eq_some_iff.mp hsl
      cases c
      exact x0.tick_wf (hslew x0 hx0) hr
  · next hsl => exact hrest none (fun _ c => nomatch c) t (by rw [← hsl])

theorem State.advance_keeps_timebaseWf {s : State} (h : TimebaseWf s) : TimebaseWf s.advance := by
  have hsettled : TimebaseWf
      (s.mapTime fun t =>
        { t with now := t.advancedNow, slew := t.slew.map Slew.tick }).endSlewIfDone.settleState :=
    State.settleState_keeps_timebaseWf (State.endSlewIfDone_keeps_timebaseWf h rfl)
  unfold State.advance
  dsimp only
  split
  · exact hsettled.of_timebase_eq (State.tellAdvance_timebase _)
  · exact hsettled

theorem State.countMicrosecond_keeps_timebaseWf {s : State} (h : TimebaseWf s) :
    TimebaseWf s.countMicrosecond := by
  refine ⟨h.now, h.waiters, h.slew, Nat.zero_le 9, ?_⟩
  change (if s.timebase.micros + 1 < 1000 then s.timebase.micros + 1 else 0) < 1000
  split <;> omega

theorem State.microsecond_keeps_timebaseWf {s : State} (h : TimebaseWf s) :
    TimebaseWf s.microsecond := by
  have hcounted : TimebaseWf
      (if s.passOverdue then s.completePass.noted else s).countMicrosecond := by
    refine State.countMicrosecond_keeps_timebaseWf ?_
    split
    · exact h.of_timebase_eq (State.completePass_timebase s)
    · exact h
  unfold State.microsecond
  generalize (if s.passOverdue then s.completePass.noted else s).countMicrosecond = u at hcounted ⊢
  dsimp only
  split
  · exact hcounted
  · exact State.advance_keeps_timebaseWf hcounted

theorem State.millisecond_keeps_timebaseWf {s : State} (h : TimebaseWf s) :
    TimebaseWf s.millisecond := by
  obtain ⟨hnow, hwaiters, hslew, hrefclk, hmicros⟩ := h
  unfold State.millisecond
  constructor <;> rw [State.countMillisecond_timebase] <;> assumption

/-! #### Every command -/

/-- A request keeps the invariant when its block does. -/
theorem State.request_keeps_timebaseWf {s : State} (h : TimebaseWf s) (k : Kind) (p : Port)
    (lags : List Nat) (tag : Byte) (pl : List Byte) (block : BitVec 16 → State → State)
    (hblock : ∀ ticket t, TimebaseWf t → TimebaseWf (block ticket t)) :
    TimebaseWf (s.request k p lags tag pl block) :=
  s.request_keeps TimebaseWf k p lags tag pl block h
    (fun _ _ _ ht => ht.of_timebase_eq rfl) (fun _ _ ht => ht.of_timebase_eq rfl) hblock

/-- A request whose block leaves the timebase as it is keeps the invariant. -/
theorem State.request_elsewhere_keeps_timebaseWf {s : State} (h : TimebaseWf s) (k : Kind)
    (p : Port) (lags : List Nat) (tag : Byte) (pl : List Byte) (block : BitVec 16 → State → State)
    (hblock : ∀ ticket t, (block ticket t).timebase = t.timebase) :
    TimebaseWf (s.request k p lags tag pl block) :=
  State.request_keeps_timebaseWf h k p lags tag pl block fun ticket t ht =>
    ht.of_timebase_eq (hblock ticket t)

/-- A privileged request keeps the invariant when its block does. -/
theorem State.privileged_keeps_timebaseWf {s : State} (h : TimebaseWf s) (p : Port)
    (k : BitVec 16) (block : State → State) (hblock : TimebaseWf (block s)) :
    TimebaseWf (s.privileged p k block) := by
  unfold State.privileged
  split
  · exact hblock
  · exact h.of_timebase_eq (State.refuse_timebase _ _ _ _)

/-- The authority check leaves the timebase as it is when its block does. -/
theorem State.privileged_timebase (s : State) (p : Port) (k : BitVec 16) (block : State → State)
    (hblock : (block s).timebase = s.timebase) :
    (s.privileged p k block).timebase = s.timebase := by
  unfold State.privileged
  split
  · exact hblock
  · exact State.refuse_timebase _ _ _ _

/-- An event keeps the invariant when its effect does. -/
theorem State.event_keeps_timebaseWf {s : State} (h : TimebaseWf s) (f : State → State)
    (hf : ∀ t, TimebaseWf t → TimebaseWf (f t)) : TimebaseWf (s.event f) := by
  unfold State.event
  split
  · exact h
  · exact hf _ (h.of_timebase_eq s.noted_timebase)

/-- The reception of a frame leaves the timebase as it is when what becomes of the request does. -/
theorem State.receive_timebase (s : State) (p : Port) (lags : List Nat) (tag kind : Byte)
    (pl : List Byte) (handle : BitVec 16 → State → State)
    (hh : ∀ k t, (handle k t).timebase = t.timebase) :
    (s.receive p lags tag kind pl handle).timebase = s.timebase := by
  unfold State.receive
  split
  · rfl
  · split
    · rfl
    · split
      · rfl
      all_goals exact hh _ _

theorem State.pollTaken_timebase (s : State) (p : Port) (lags : List Nat) (n : Nat) :
    (s.pollTaken p lags n).timebase = s.timebase := by
  unfold State.pollTaken
  split <;> rfl

theorem State.repeatTaken_timebase (s : State) (p : Port) (lags : List Nat) (n : Nat) :
    (s.repeatTaken p lags n).timebase = s.timebase := by
  unfold State.repeatTaken
  split
  · rfl
  · rfl
  · split <;> rfl

theorem execFaultyFrame_timebase (s t : State) (a : Arrival) (bytes : List Byte)
    (e : execFaultyFrame a bytes s = .next t) : t.timebase = s.timebase := by
  unfold execFaultyFrame at e
  split at e
  · cases e
    rfl
  · cases e
  · cases e
    split <;> rfl

theorem execBadKind_timebase (s t : State) (a : Arrival) (tag kind : Byte) (pl : List Byte)
    (e : execBadKind a tag kind pl s = .next t) : t.timebase = s.timebase := by
  unfold execBadKind at e
  split at e
  · cases e
  · cases e
    exact s.receive_timebase _ _ _ _ _ _ fun k u => u.refuse_timebase _ _ _

theorem State.endReset_keeps_timebaseWf {s : State} (h : TimebaseWf s) (rank1 rank0 : Bool)
    (levels : InputSet) : TimebaseWf (s.endReset rank1 rank0 levels) := by
  unfold State.endReset
  split
  · exact ⟨h.now, h.waiters, h.slew, Nat.zero_le 9, Nat.zero_lt_succ 999⟩
  · exact h

theorem exec_keeps_timebaseWf (s t : State) (c : Instr) (h : TimebaseWf s)
    (e : exec c s = .next t) : TimebaseWf t := by
  cases c with
  | start a tag pl =>
    cases e
    exact State.request_keeps_timebaseWf h _ _ _ _ _ _ fun k u hu =>
      State.privileged_keeps_timebaseWf hu _ _ _ (State.startTaken_keeps_timebaseWf a.port k hu)
  | stop a tag pl =>
    cases e
    exact State.request_keeps_timebaseWf h _ _ _ _ _ _ fun k u hu =>
      State.privileged_keeps_timebaseWf hu _ _ _ (State.stopTaken_keeps_timebaseWf a.port k hu)
  | step a tag pl =>
    cases e
    exact State.request_keeps_timebaseWf h _ _ _ _ _ _ fun k u hu =>
      State.privileged_keeps_timebaseWf hu _ _ _ (State.stepTaken_keeps_timebaseWf a.port pl k hu)
  | slew a tag pl =>
    cases e
    exact State.request_keeps_timebaseWf h _ _ _ _ _ _ fun k u hu =>
      State.privileged_keeps_timebaseWf hu _ _ _ (State.slewTaken_keeps_timebaseWf a.port pl k hu)
  | setQuota a tag pl =>
    cases e
    exact State.request_elsewhere_keeps_timebaseWf h _ _ _ _ _ _ fun k u =>
      u.privileged_timebase _ _ _ (u.quotaTaken_keeps a.port pl k).1
  | purgePort a tag pl =>
    cases e
    exact State.request_elsewhere_keeps_timebaseWf h _ _ _ _ _ _ fun k u =>
      u.privileged_timebase _ _ _ (u.purgeTaken_keeps a.port pl k).1
  | setLinePolicy a tag pl =>
    cases e
    exact State.request_elsewhere_keeps_timebaseWf h _ _ _ _ _ _ fun k u =>
      u.privileged_timebase _ _ _ (u.policyTaken_keeps a.port pl k).1
  | forceLine a tag pl =>
    cases e
    exact State.request_elsewhere_keeps_timebaseWf h _ _ _ _ _ _ fun k u =>
      u.privileged_timebase _ _ _ (u.forceTaken_keeps a.port pl k).1
  | setGrace a tag pl =>
    cases e
    exact State.request_elsewhere_keeps_timebaseWf h _ _ _ _ _ _ fun k u =>
      u.privileged_timebase _ _ _ (u.graceTaken_keeps a.port pl k).1
  | setCapture a tag pl =>
    cases e
    exact State.request_elsewhere_keeps_timebaseWf h _ _ _ _ _ _ fun k u =>
      u.privileged_timebase _ _ _ (u.setCaptureTaken_keeps a.port pl k).1
  | attach a tag pl =>
    cases e
    exact State.request_elsewhere_keeps_timebaseWf h _ _ _ _ _ _ fun k u =>
      (u.attachTaken_keeps a.port k).1
  | detach a tag pl =>
    cases e
    exact State.request_elsewhere_keeps_timebaseWf h _ _ _ _ _ _ fun k u =>
      (u.detachTaken_keeps a.port k).1
  | setAttention a tag pl =>
    cases e
    exact State.request_elsewhere_keeps_timebaseWf h _ _ _ _ _ _ fun k u =>
      (u.attentionTaken_keeps a.port pl k).1
  | queryTime a tag pl =>
    cases e
    exact State.request_elsewhere_keeps_timebaseWf h _ _ _ _ _ _ fun k u =>
      (u.queryTimeTaken_keeps a.port k).1
  | entryAdd a tag pl =>
    cases e
    exact State.request_elsewhere_keeps_timebaseWf h _ _ _ _ _ _ fun k u =>
      (u.addTaken_keeps a.port pl k).1
  | entryCancel a tag pl =>
    cases e
    exact State.request_elsewhere_keeps_timebaseWf h _ _ _ _ _ _ fun k u =>
      (u.cancelTaken_keeps a.port pl k).1
  | entryHold a tag pl =>
    cases e
    exact State.request_elsewhere_keeps_timebaseWf h _ _ _ _ _ _ fun k u =>
      (u.holdTaken_keeps a.port pl k).1
  | entryResume a tag pl =>
    cases e
    exact State.request_elsewhere_keeps_timebaseWf h _ _ _ _ _ _ fun k u =>
      (u.resumeTaken_keeps a.port pl k).1
  | entryQuery a tag pl =>
    cases e
    exact State.request_elsewhere_keeps_timebaseWf h _ _ _ _ _ _ fun k u =>
      (u.entryQueryTaken_keeps a.port pl k).1
  | nextQuery a tag pl =>
    cases e
    exact State.request_elsewhere_keeps_timebaseWf h _ _ _ _ _ _ fun k u =>
      (u.nextQueryTaken_keeps a.port k).1
  | entryList a tag pl =>
    cases e
    exact State.request_elsewhere_keeps_timebaseWf h _ _ _ _ _ _ fun k u =>
      (u.entryListTaken_keeps a.port pl k).1
  | lineQuery a tag pl =>
    cases e
    exact State.request_elsewhere_keeps_timebaseWf h _ _ _ _ _ _ fun k u =>
      (u.lineQueryTaken_keeps a.port pl k).1
  | claim a tag pl =>
    cases e
    exact State.request_elsewhere_keeps_timebaseWf h _ _ _ _ _ _ fun k u =>
      (u.claimTaken_keeps a.port pl k).1
  | release a tag pl =>
    cases e
    exact State.request_elsewhere_keeps_timebaseWf h _ _ _ _ _ _ fun k u =>
      (u.releaseTaken_keeps a.port k).1
  | renew a tag pl =>
    cases e
    exact State.request_elsewhere_keeps_timebaseWf h _ _ _ _ _ _ fun k u =>
      (u.renewTaken_keeps a.port pl k).1
  | queryAuthority a tag pl =>
    cases e
    exact State.request_elsewhere_keeps_timebaseWf h _ _ _ _ _ _ fun k u =>
      (u.queryAuthorityTaken_keeps a.port k).1
  | subscribe a tag pl =>
    cases e
    exact State.request_elsewhere_keeps_timebaseWf h _ _ _ _ _ _ fun k u =>
      (u.subscribeTaken_keeps a.port pl k).1
  | readCaptures a tag pl =>
    cases e
    exact State.request_elsewhere_keeps_timebaseWf h _ _ _ _ _ _ fun k u =>
      (u.readTaken_keeps a.port pl k).1
  | fetchNotices a tag pl =>
    cases e
    exact State.request_elsewhere_keeps_timebaseWf h _ _ _ _ _ _ fun k u =>
      (u.fetchTaken_keeps a.port pl k).1
  | ackNotices a tag pl =>
    cases e
    exact State.request_elsewhere_keeps_timebaseWf h _ _ _ _ _ _ fun k u =>
      (u.ackTaken_keeps a.port pl k).1
  | badKind a tag kind pl => exact h.of_timebase_eq (execBadKind_timebase s t a tag kind pl e)
  | poll a clocked =>
    cases e
    refine h.of_timebase_eq ?_
    split
    · rfl
    · exact s.pollTaken_timebase _ _ _
  | repeatFrame a clocked =>
    cases e
    refine h.of_timebase_eq ?_
    split
    · rfl
    · exact s.repeatTaken_timebase _ _ _
  | faultyFrame a bytes => exact h.of_timebase_eq (execFaultyFrame_timebase s t a bytes e)
  | portReset p =>
    cases e
    exact h.of_timebase_eq (s.resetPort_timebase p)
  | portResetRelease p =>
    cases e
    exact h.of_timebase_eq rfl
  | fullReset cause =>
    cases e
    exact TimebaseWf.of_reset rfl
  | fullResetEnd rank1 rank0 levels =>
    cases e
    exact State.endReset_keeps_timebaseWf h rank1 rank0 levels
  | referenceMicrosecond =>
    cases e
    exact State.event_keeps_timebaseWf h _ fun _ => State.microsecond_keeps_timebaseWf
  | referenceMillisecond =>
    cases e
    exact State.event_keeps_timebaseWf h _ fun _ => State.millisecond_keeps_timebaseWf
  | slewDone =>
    cases e
    refine State.event_keeps_timebaseWf h _ fun u hu => ?_
    split
    · exact State.microsecond_keeps_timebaseWf hu
    · exact hu
  | leaseExpiry =>
    cases e
    refine State.event_keeps_timebaseWf h _ fun u hu => ?_
    split
    · exact State.millisecond_keeps_timebaseWf hu
    · exact hu
  | graceExpiry =>
    cases e
    refine State.event_keeps_timebaseWf h _ fun u hu => ?_
    split
    · exact State.millisecond_keeps_timebaseWf hu
    · exact hu
  | captureEdge n edge =>
    cases e
    exact State.event_keeps_timebaseWf h _ fun u hu =>
      hu.of_timebase_eq (u.takeEdge_timebase n edge)
  | expiry =>
    cases e
    exact State.event_keeps_timebaseWf h _ fun u hu => hu.of_timebase_eq u.takeExpiry_timebase
  | pulseEnd l =>
    cases e
    refine State.event_keeps_timebaseWf h _ fun u hu => hu.of_timebase_eq ?_
    split <;> rfl
  | passComplete =>
    cases e
    exact State.event_keeps_timebaseWf h _ fun u hu => hu.of_timebase_eq u.completePass_timebase

/-- One REFCLK period that completes no reference microsecond keeps the invariant (R1). -/
theorem State.refclkPeriod_keeps_timebaseWf {s : State} (h : TimebaseWf s)
    (ho : s.ownEvent = none) : TimebaseWf s.refclkPeriod := by
  unfold State.refclkPeriod
  split
  · exact h
  · next hr =>
    refine ⟨h.now, h.waiters, h.slew, ?_, h.micros⟩
    have hlow : ¬ 9 ≤ s.timebase.refclk := fun c => by
      unfold State.ownEvent at ho
      rw [if_neg hr, if_pos c] at ho
      split at ho
      · cases ho
      · split at ho
        · cases ho
        · split at ho
          · cases ho
          · split at ho <;> cases ho
    change s.timebase.refclk + 1 ≤ 9
    omega

/-- Settles O54: every command keeps the ranges of the timebase, and so do the events that the part takes
on an empty queue. -/
theorem stepsKeepTheTimebase : Obligations.StepsKeepTheTimebase := by
  unfold Obligations.StepsKeepTheTimebase
  intro s t h e
  unfold step at e
  split at e
  · refine exec_keeps_timebaseWf _ t _ ?_ e
    exact h.of_timebase_eq rfl
  · split at e
    · exact exec_keeps_timebaseWf s t _ h e
    · next ho =>
      cases e
      exact State.refclkPeriod_keeps_timebaseWf h ho

end Sys2Proof.Machine

/-! PROOFS. What the part takes on an empty queue, and the full reset: its beginning, its end, and the part right after it. -/

namespace Sys2Proof.Machine

variable (s : State)

/-! ### The event that the part takes on its own (R1, R51, R69, R83) -/

/-- A pass is overdue when it has lasted its 100 reference microseconds (R69). -/
theorem State.passOverdue_iff : s.passOverdue = true ↔ Overdue s := by
  unfold State.passOverdue Overdue
  cases s.schedule.pass with
  | none => simp
  | some a => exact decide_eq_true_iff

/-- The lowest line whose pulse end is due is the first that a search of the lines finds (R83). -/
theorem find_lowest_pulseDue (l : LineIx)
    (hl : (s.lines.get l).pulseDue s.timebase.now = true)
    (hlow : ∀ k : LineIx, k < l → (s.lines.get k).pulseDue s.timebase.now = false) :
    (indices 16).find? (fun k => (s.lines.get k).pulseDue s.timebase.now) = some l := by
  rw [indices, List.find?_eq_some_iff_getElem]
  refine ⟨hl, l.val, by rw [List.length_finRange]; exact l.isLt, ?_, fun j hj => ?_⟩
  · simp only [List.getElem_finRange, Fin.cast_mk, Fin.eta]
  · rw [hlow _ (by simpa only [List.getElem_finRange, Fin.lt_def, Fin.val_cast] using hj)]
    rfl

/-- Where no pulse end is due, a search of the lines finds none. -/
theorem find_no_pulseDue
    (hn : ∀ l : LineIx, (s.lines.get l).pulseDue s.timebase.now = false) :
    (indices 16).find? (fun k => (s.lines.get k).pulseDue s.timebase.now) = none :=
  List.find?_eq_none.mpr fun l _ => by rw [hn l]; exact Bool.false_ne_true

/-- On an empty queue a step is the part's own event. -/
theorem step_of_ownEvent (c : Instr) (hq : s.pending = []) (ho : s.ownEvent = some c) :
    step s = exec c s := by
  unfold step
  rw [hq, ho]

/-- On an empty queue with no event of the part's own, one REFCLK period passes. -/
theorem step_of_no_ownEvent (hq : s.pending = []) (ho : s.ownEvent = none) :
    step s = .next s.refclkPeriod := by
  unfold step
  rw [hq, ho]

/-- Settles O2: the cases are the branches of `State.ownEvent`, in its order. -/
theorem stepOnAnEmptyQueue : Obligations.StepOnAnEmptyQueue := by
  unfold Obligations.StepOnAnEmptyQueue
  intro s hq
  refine ⟨fun hr => ?_, fun hr => ⟨fun hms => ?_, fun hms => ⟨fun l hl hlow => ?_, fun hn =>
    ⟨fun hsw => ?_, fun hsw => ⟨fun hov => ?_, fun hov => ⟨fun h9 => ?_, fun h9 => ?_⟩⟩⟩⟩⟩⟩
  · rw [step_of_no_ownEvent s hq (if_pos hr), State.refclkPeriod, if_pos hr]
  · exact step_of_ownEvent s _ hq (by simp [State.ownEvent, hr, hms])
  · exact step_of_ownEvent s _ hq
      (by simp [State.ownEvent, hr, hms, find_lowest_pulseDue s l hl hlow])
  · exact step_of_ownEvent s _ hq (by simp [State.ownEvent, hr, hms, find_no_pulseDue s hn, hsw])
  · have hov' := (State.passOverdue_iff s).mpr hov
    exact step_of_ownEvent s _ hq
      (by simp [State.ownEvent, hr, hms, find_no_pulseDue s hn, hsw, hov'])
  · have hov' := mt (State.passOverdue_iff s).mp hov
    exact step_of_ownEvent s _ hq
      (by simp [State.ownEvent, hr, hms, find_no_pulseDue s hn, hsw, hov', h9])
  · have hov' := mt (State.passOverdue_iff s).mp hov
    rw [step_of_no_ownEvent s hq
      (by simp [State.ownEvent, hr, hms, find_no_pulseDue s hn, hsw, hov', h9]),
      State.refclkPeriod, if_neg (ne_true_of_eq_false hr)]
    rfl

/-! ### The full reset (R188) -/

/-- A reset line drives its pin LOW (R78, R98). -/
theorem Line.pin_reset : Line.reset.pin = .low := rfl

/-- The port of a reset part shows the status byte A0h (R190). -/
theorem State.statusByte_of_reset (q : Port) (inReset : Bool)
    (hq : s.ports.get q = .reset inReset) : s.statusByte q = 0xA0 := by
  have ha : s.attached q = false := by rw [State.attached, hq]; rfl
  have hslot : (s.ports.get q).slot = .empty := by rw [hq]; rfl
  rw [State.statusByte, State.attn, ha, hslot]
  simp [RequestSlot.code]

/-- Settles O17: the end of a full reset samples what R188 names, at every place of the state. -/
theorem fullResetEndSamplesThePins : Obligations.FullResetEndSamplesThePins := by
  unfold Obligations.FullResetEndSamplesThePins
  intro rank1 rank0 levels s
  refine ⟨fun hr => ⟨_, rfl, ?_, fun q => ?_, fun n => ?_⟩, fun hr => ?_⟩
  · rw [State.endReset, if_pos hr]
  · rw [State.endReset, if_pos hr, Table.get_fill]
  · rw [State.endReset, if_pos hr, Table.get_ofFn, hasBit]
  · change Host.Outcome.next (s.endReset rank1 rank0 levels) = _
    rw [State.endReset, hr]
    rfl

/-- No event of the part is taken while a full reset lasts (R126, R188). -/
theorem exec_event_inReset (hr : s.inFullReset = true) (l : LineIx) (n : InputIx) (edge : Edge) :
    ∀ c ∈ [Instr.referenceMicrosecond, .referenceMillisecond, .slewDone, .leaseExpiry,
      .graceExpiry, .captureEdge n edge, .expiry, .pulseEnd l, .passComplete],
      exec c s = .next s := by
  have hevent (f : State → State) : Host.Outcome.next (s.event f) = (.next s : Result) :=
    congrArg _ (s.event_inReset f hr)
  simp only [List.forall_mem_cons, List.not_mem_nil, false_imp_iff, implies_true, and_true]
  exact ⟨hevent _, hevent _, hevent _, hevent _, hevent _, hevent _, hevent _, hevent _, hevent _⟩

/-- Settles O16: `State.beginReset` read at every block. -/
theorem fullResetReturnsEveryBlock : Obligations.FullResetReturnsEveryBlock := by
  unfold Obligations.FullResetReturnsEveryBlock
  intro cause s
  refine ⟨fun hr l n edge => exec_event_inReset s hr l n edge, s.beginReset cause, rfl, rfl, rfl,
    rfl, fun i => Table.get_fill _ i, rfl, fun n => Table.get_fill _ n, rfl, rfl,
    fun q => ⟨Table.get_fill _ q, Table.get_fill _ q⟩, fun l => ?_, rfl, fun n => ?_, rfl, rfl,
    fun q => ?_, rfl, rfl⟩
  · have hl : (s.beginReset cause).lines.get l = .reset := Table.get_fill _ l
    rw [hl]
    exact ⟨rfl, rfl, rfl, rfl, rfl, rfl, fun q => Table.get_fill _ q, rfl, rfl, Line.pin_reset⟩
  · have hn : (s.beginReset cause).capture.inputs.get n =
        .reset (s.capture.inputs.get n).level := by
      simp only [State.beginReset, Capture.reset, Table.get_map]
    rw [hn]
    exact ⟨rfl, rfl, rfl⟩
  · have hport : (s.beginReset cause).ports.get q = .reset (s.ports.get q).inReset :=
      Table.get_map _ _ q
    have ha : (s.beginReset cause).attached q = false := by rw [State.attached, hport]; rfl
    exact ⟨Table.get_fill _ q, Table.get_fill _ q, by rw [State.attn, ha]; rfl, hport,
      State.statusByte_of_reset _ q _ hport⟩

/-! ### The part right after reset -/

theorem reset_notices (p : Port) : State.reset.notices.get p = .reset := Table.get_fill _ p

theorem reset_line (l : LineIx) : State.reset.lines.get l = .reset := Table.get_fill _ l

theorem reset_port (p : Port) : State.reset.ports.get p = .reset false := Table.get_fill _ p

theorem reset_entryAt (i : SlotIx) : State.reset.schedule.entryAt i = none :=
  congrArg Slot.entry (Table.get_fill (n := 64) _ i)

/-- The part right after reset holds no entry. -/
theorem reset_count (test : Entry → Bool) : State.reset.schedule.count test = 0 := by
  rw [Schedule.count, List.length_eq_zero_iff, List.eq_nil_iff_forall_not_mem]
  intro i hi
  obtain ⟨e, he, -⟩ := (Schedule.mem_slotsWhere _ test i).mp hi
  rw [reset_entryAt] at he
  cases he

/-- A reset queue is well formed (R160). -/
theorem queueWf_reset : QueueWf .reset where
  room := Nat.zero_le 16
  overflowing h := absurd rfl h
  noOverflowKind := rfl
  consecutive _ _ h := nomatch h

theorem noticesWf_reset : NoticesWf State.reset where
  queues p := by
    rw [reset_notices]
    exact queueWf_reset
  detached p _ := by
    rw [reset_notices]
    exact ⟨rfl, rfl, rfl⟩

theorem authorityWf_reset : AuthorityWf State.reset where
  holder _ h := nomatch h
  waiters _ h := nomatch h
  distinct := List.nodup_nil
  urgentFirst := List.Pairwise.nil
  vacant _ := ⟨rfl, rfl⟩
  demand _ h := nomatch h
  grace := ⟨by decide, by decide⟩
  inReset h := nomatch h

theorem captureWf_reset : CaptureWf State.reset where
  room := Nat.zero_le 32
  distinct := List.nodup_nil
  readers _ h := nomatch h
  detached p _ := Table.get_fill _ p
  inputs i := by
    have hi : State.reset.capture.inputs.get i = .reset .low := by
      simp only [State.reset, Capture.reset, Table.get_map, Table.get_fill]
    rw [hi]
    exact ⟨Nat.zero_le _, fun _ h => nomatch h⟩

theorem linesWf_reset : LinesWf State.reset where
  forces l f h := by
    rw [reset_line] at h
    cases h
  retriggers l := by
    rw [reset_line]
    exact Nat.zero_le _
  pulses l u h := by
    rw [reset_line] at h
    cases h

theorem workingWf_reset : WorkingWf State.reset := fun p h e => by
  rw [reset_port] at e
  cases e

theorem entriesWf_reset : EntriesWf State.reset where
  entries i e h := by
    rw [reset_entryAt] at h
    cases h
  usage p := by
    rw [reset_count]
    exact Table.get_fill _ p
  quota p := by
    have hu : State.reset.schedule.usage.get p = 0 := Table.get_fill _ p
    have hq : State.reset.schedule.quota.get p = 32 := Table.get_fill _ p
    omega
  refs l p := by
    rw [reset_count, reset_line]
    exact Table.get_fill _ p
  shared l _ := by
    rw [reset_line]
    rfl
  exclusive l p h := by
    rw [reset_line] at h
    cases h

theorem listsWf_reset : ListsWf State.reset where
  dueOnce := List.nodup_nil
  due i := by
    rw [reset_entryAt]
    exact iff_of_false List.not_mem_nil (by simp)
  waitingOnce n := by
    have hn : State.reset.schedule.waiting.get n = [] := Table.get_fill _ n
    rw [hn]
    exact List.nodup_nil
  waiting n i := by
    have hn : State.reset.schedule.waiting.get n = [] := Table.get_fill _ n
    rw [hn, reset_entryAt]
    exact iff_of_false List.not_mem_nil (by simp)
  inputs i e h := by
    rw [reset_entryAt] at h
    cases h
  ordered _ := List.Pairwise.nil
  sweep _ h := nomatch h
  pass _ h := nomatch h

/-- Settles O53: each invariant is read off the reset values. -/
theorem invariantsHoldAtReset : Obligations.InvariantsHoldAtReset := by
  unfold Obligations.InvariantsHoldAtReset
  refine ⟨TimebaseWf.of_reset rfl, noticesWf_reset, authorityWf_reset, captureWf_reset,
    linesWf_reset, workingWf_reset, entriesWf_reset, listsWf_reset, fun l => ?_, fun p =>
    State.statusByte_of_reset _ p false (reset_port p)⟩
  rw [reset_line]
  exact Line.pin_reset

end Sys2Proof.Machine

/-! PROOFS. The block that a request reaches, and the fields that BAD_FIELD refuses. -/

namespace Sys2Proof.Machine

/-! ### The block of a request (R104, R172) -/

/-- What becomes of a request of a kind that has passed the checks of the port and of R104. -/
def Kind.taken (k : Kind) (p : Port) (pl : List Byte) : BitVec 16 → State → State :=
  match k with
  | .attach => State.attachTaken p
  | .detach => State.detachTaken p
  | .setAttention => State.attentionTaken p pl
  | .queryTime => State.queryTimeTaken p
  | .start => State.startTaken p
  | .stop => State.stopTaken p
  | .step => State.stepTaken p pl
  | .slew => State.slewTaken p pl
  | .entryAdd => State.addTaken p pl
  | .entryCancel => State.cancelTaken p pl
  | .entryHold => State.holdTaken p pl
  | .entryResume => State.resumeTaken p pl
  | .entryQuery => State.entryQueryTaken p pl
  | .nextQuery => State.nextQueryTaken p
  | .entryList => State.entryListTaken p pl
  | .setQuota => State.quotaTaken p pl
  | .purgePort => State.purgeTaken p pl
  | .lineQuery => State.lineQueryTaken p pl
  | .setLinePolicy => State.policyTaken p pl
  | .forceLine => State.forceTaken p pl
  | .claim => State.claimTaken p pl
  | .release => State.releaseTaken p
  | .renew => State.renewTaken p pl
  | .queryAuthority => State.queryAuthorityTaken p
  | .setGrace => State.graceTaken p pl
  | .setCapture => State.setCaptureTaken p pl
  | .subscribe => State.subscribeTaken p pl
  | .readCaptures => State.readTaken p pl
  | .fetchNotices => State.fetchTaken p pl
  | .ackNotices => State.ackTaken p pl

/-- The block of a kind, behind the authority check where the kind is privileged (R104). -/
def Kind.block (k : Kind) (p : Port) (pl : List Byte) (ticket : BitVec 16) (t : State) : State :=
  if k ∈ privilegedKinds then t.privileged p ticket (k.taken p pl ticket)
  else k.taken p pl ticket t

/-- Every request is received, checked by its port and handed to the block of its kind. -/
theorem exec_requestCommand (k : Kind) (a : Arrival) (tag : Byte) (pl : List Byte) (s : State) :
    exec (requestCommand k a tag pl) s =
      .next (s.request k a.port a.lags tag pl (k.block a.port pl)) := by
  cases k <;> rfl

/-- A request that its port may send is taken by the block of its kind. -/
theorem exec_admitted (s : State) (p : Port) (lags : List Nat) (tag : Byte) (k : Kind)
    (pl : List Byte) (hready : Ready s p) (hadm : Admitted s p k)
    (hlen : k.takesLength pl.length = true) :
    exec (requestCommand k ⟨p, lags⟩ tag pl) s =
      .next (k.taken p pl (s.ports.get p).nextTicket (s.takeRequest p lags tag k.code pl)) := by
  obtain ⟨hatt, hholder⟩ := hadm
  rw [exec_requestCommand, State.request_block s k p lags tag pl _ hready hlen (Or.inl hatt)]
  unfold Kind.block
  split
  · next hk =>
    rw [State.privileged_holder _ _ _ _ ((s.holder_takeRequest p lags tag _ pl).trans (hholder hk))]
  · rfl

/-! ### Bytes that name no value (R191, R192) -/

/-- A byte above a bound is no value within it. -/
theorem ne_of_toNat_lt {b c : Byte} (h : c.toNat < b.toNat) : b ≠ c := fun e =>
  absurd (e ▸ h) (Nat.lt_irrefl _)

theorem finOfByte_none (n : Nat) (b : Byte) (h : n ≤ b.toNat) : finOfByte n b = none :=
  dif_neg (Nat.not_lt.mpr h)

theorem finOfByte_some {n : Nat} {b : Byte} {i : Fin n} (h : finOfByte n b = some i) :
    i.val = b.toNat := by
  unfold finOfByte at h
  split at h
  · cases h
    rfl
  · cases h

theorem setOfByte_none (n : Nat) (b : Byte) (h : 2 ^ n ≤ b.toNat) : setOfByte n b = none :=
  if_neg (Nat.not_lt.mpr h)

theorem boolOfByte_none (b : Byte) (h : 1 < b.toNat) : boolOfByte b = none := by
  have h0 : b ≠ 0 := ne_of_toNat_lt (Nat.lt_trans Nat.zero_lt_one h)
  have h1 : b ≠ 1 := ne_of_toNat_lt h
  rw [boolOfByte, if_neg h0, if_neg h1]

theorem Trigger.ofByte_none (b : Byte) (h : 2 < b.toNat) : Trigger.ofByte b = none := by
  have h0 : b ≠ 0 := ne_of_toNat_lt (Nat.lt_trans (by decide) h)
  have h1 : b ≠ 1 := ne_of_toNat_lt (Nat.lt_trans (by decide) h)
  have h2 : b ≠ 2 := ne_of_toNat_lt h
  rw [Trigger.ofByte, if_neg h0, if_neg h1, if_neg h2]

theorem StepPolicy.ofByte_none (b : Byte) (h : 2 < b.toNat) : StepPolicy.ofByte b = none := by
  have h0 : b ≠ 0 := ne_of_toNat_lt (Nat.lt_trans (by decide) h)
  have h1 : b ≠ 1 := ne_of_toNat_lt (Nat.lt_trans (by decide) h)
  have h2 : b ≠ 2 := ne_of_toNat_lt h
  rw [StepPolicy.ofByte, if_neg h0, if_neg h1, if_neg h2]

theorem OrphanPolicy.ofByte_none (b : Byte) (h : 1 < b.toNat) : OrphanPolicy.ofByte b = none := by
  have h0 : b ≠ 0 := ne_of_toNat_lt (Nat.lt_trans (by decide) h)
  have h1 : b ≠ 1 := ne_of_toNat_lt h
  rw [OrphanPolicy.ofByte, if_neg h0, if_neg h1]

theorem ActionKind.ofByte_none (b : Byte) (h : 3 < b.toNat) : ActionKind.ofByte b = none := by
  have h0 : b ≠ 0 := ne_of_toNat_lt (Nat.lt_trans (by decide) h)
  have h1 : b ≠ 1 := ne_of_toNat_lt (Nat.lt_trans (by decide) h)
  have h2 : b ≠ 2 := ne_of_toNat_lt (Nat.lt_trans (by decide) h)
  have h3 : b ≠ 3 := ne_of_toNat_lt h
  rw [ActionKind.ofByte, if_neg h0, if_neg h1, if_neg h2, if_neg h3]

theorem EdgeSetting.ofByte_none (b : Byte) (h : 3 < b.toNat) : EdgeSetting.ofByte b = none := by
  have h0 : b ≠ 0 := ne_of_toNat_lt (Nat.lt_trans (by decide) h)
  have h1 : b ≠ 1 := ne_of_toNat_lt (Nat.lt_trans (by decide) h)
  have h2 : b ≠ 2 := ne_of_toNat_lt (Nat.lt_trans (by decide) h)
  have h3 : b ≠ 3 := ne_of_toNat_lt h
  rw [EdgeSetting.ofByte, if_neg h0, if_neg h1, if_neg h2, if_neg h3]

theorem LineMode.ofByte_none (b : Byte) (h : 1 < b.toNat) : LineMode.ofByte b = none := by
  have h0 : b ≠ 0 := ne_of_toNat_lt (Nat.lt_trans (by decide) h)
  have h1 : b ≠ 1 := ne_of_toNat_lt h
  rw [LineMode.ofByte, if_neg h0, if_neg h1]

theorem Polarity.ofByte_none (b : Byte) (h : 1 < b.toNat) : Polarity.ofByte b = none := by
  have h0 : b ≠ 0 := ne_of_toNat_lt (Nat.lt_trans (by decide) h)
  have h1 : b ≠ 1 := ne_of_toNat_lt h
  rw [Polarity.ofByte, if_neg h0, if_neg h1]

theorem forceOfByte_none (b : Byte) (h : 2 < b.toNat) : forceOfByte b = none := by
  have h0 : b ≠ 0 := ne_of_toNat_lt (Nat.lt_trans (by decide) h)
  have h1 : b ≠ 1 := ne_of_toNat_lt (Nat.lt_trans (by decide) h)
  have h2 : b ≠ 2 := ne_of_toNat_lt h
  rw [forceOfByte, if_neg h0, if_neg h1, if_neg h2]

/-- A byte of a known value is that byte. -/
theorem eq_of_toNat_byte {b : Byte} {n : Nat} (h : b.toNat = n) : b = BitVec.ofNat 8 n := by
  rw [← h, BitVec.ofNat_toNat, BitVec.setWidth_eq]

/-! ### The fields of an ENTRY_ADD (R35, R193) -/

/-- A sequence of reads that all succeed gives the results one by one. -/
theorem mapM_some {α β : Type} (f : α → Option β) (as : List α) (bs : List β)
    (h : as.mapM f = some bs) : List.Forall₂ (fun a b => f a = some b) as bs := by
  induction as generalizing bs with
  | nil =>
    rw [List.mapM_nil] at h
    cases h
    exact List.Forall₂.nil
  | cons a as ih =>
    rw [List.mapM_cons, Option.bind_eq_bind, Option.bind_eq_some_iff] at h
    obtain ⟨b, hb, h⟩ := h
    rw [Option.bind_eq_bind, Option.bind_eq_some_iff] at h
    obtain ⟨bs', hbs, h⟩ := h
    cases h
    exact List.Forall₂.cons hb (ih bs' hbs)

/-- A line action that can be read names its line, and its kind and width are in range (R35). -/
theorem decodeAction_some (pl : List Byte) (j : Nat) (a : LineAction)
    (h : decodeAction pl j = some a) :
    a.line.val = (byteAt pl (22 + 5 * j)).toNat ∧ (byteAt pl (23 + 5 * j)).toNat ≤ 3
      ∧ ((byteAt pl (23 + 5 * j)).toNat = 0 →
          1 ≤ natAt pl (24 + 5 * j) 3 ∧ natAt pl (24 + 5 * j) 3 ≤ 1048575) := by
  have hkind : 22 + 5 * j + 1 = 23 + 5 * j := by omega
  have hwidth : 22 + 5 * j + 2 = 24 + 5 * j := by omega
  unfold decodeAction at h
  dsimp only at h
  rw [hkind, hwidth] at h
  simp only [Option.bind_eq_bind, Option.bind_eq_some_iff] at h
  obtain ⟨line, hline, kind, hk, h⟩ := h
  have hle : (byteAt pl (23 + 5 * j)).toNat ≤ 3 := Nat.not_lt.mp fun c => by
    rw [ActionKind.ofByte_none _ c] at hk
    cases hk
  have hpulse (h0 : (byteAt pl (23 + 5 * j)).toNat = 0) : kind = .pulse := by
    rw [eq_of_toNat_byte h0] at hk
    exact (Option.some.inj hk).symm
  cases kind with
  | pulse =>
    dsimp only at h
    split at h
    · next hw =>
      cases h
      exact ⟨finOfByte_some hline, hle, fun _ => hw⟩
    · cases h
  | assert =>
    cases h
    exact ⟨finOfByte_some hline, hle, fun h0 => nomatch hpulse h0⟩
  | release =>
    cases h
    exact ⟨finOfByte_some hline, hle, fun h0 => nomatch hpulse h0⟩
  | invert =>
    cases h
    exact ⟨finOfByte_some hline, hle, fun h0 => nomatch hpulse h0⟩

/-- The input field of an ENTRY_ADD, examined for ON_CAPTURE alone (R35). -/
def addInput (pl : List Byte) (trigger : Trigger) : Option (Option InputIx) :=
  match trigger with
  | .onCapture => (finOfByte 4 (byteAt pl 7)).map some
  | .absolute | .offset => some none

/-- The allow_late field of an ENTRY_ADD, examined for ABSOLUTE alone (R35). -/
def addAllowLate (pl : List Byte) (trigger : Trigger) : Option Bool :=
  match trigger with
  | .absolute => boolOfByte (byteAt pl 8)
  | .offset | .onCapture => some false

/-- The fields of an ENTRY_ADD behind trigger, input and allow_late. -/
def addRest (pl : List Byte) (trigger : Trigger) (input : Option InputIx) (allowLate : Bool) :
    Option AddFields :=
  (StepPolicy.ofByte (byteAt pl 15)).bind fun stepPolicy =>
  (OrphanPolicy.ofByte (byteAt pl 16)).bind fun orphanPolicy =>
  (boolOfByte (byteAt pl 17)).bind fun notify =>
  (boolOfByte (byteAt pl 18)).bind fun labelled =>
  if trigger = .onCapture ∧ 4294967295 < natAt pl 1 6 then none
  else if 4 < (byteAt pl 21).toNat ∨ pl.length ≠ 22 + 5 * (byteAt pl 21).toNat then none
  else
    ((List.range (byteAt pl 21).toNat).mapM (decodeAction pl)).bind fun actions =>
    if ¬ (actions.map LineAction.line).Nodup then none
    else if (byteAt pl 21).toNat = 0 ∧ notify = false then none
    else
      some
        { trigger := trigger, time := natAt pl 1 6, input := input, allowLate := allowLate,
          period := natAt pl 9 4, repeats := natAt pl 13 2, stepPolicy := stepPolicy,
          orphanPolicy := orphanPolicy, notify := notify,
          label := if labelled then some (BitVec.ofNat 16 (natAt pl 19 2)) else none,
          actions := actions }

/-- An ENTRY_ADD is read trigger first, then what the trigger examines, then the rest. -/
theorem decodeAdd_eq (pl : List Byte) :
    decodeAdd pl =
      (Trigger.ofByte (byteAt pl 0)).bind fun trigger =>
      (addInput pl trigger).bind fun input =>
      (addAllowLate pl trigger).bind fun allowLate => addRest pl trigger input allowLate := by
  unfold decodeAdd
  cases Trigger.ofByte (byteAt pl 0) with
  | none => rfl
  | some trigger => cases trigger <;> rfl

/-- The action that was read at each place of a payload. -/
theorem read_action (pl : List Byte) (count j : Nat) (actions : List LineAction)
    (hread : List.Forall₂ (fun i a => decodeAction pl i = some a) (List.range count) actions)
    (hj : j < count) : ∃ a, actions[j]? = some a ∧ decodeAction pl j = some a := by
  have hlen : j < actions.length := by rwa [← hread.length_eq, List.length_range]
  have h := hread.get (i := j) (by rwa [List.length_range]) hlen
  rw [List.get_eq_getElem, List.getElem_range, List.get_eq_getElem] at h
  exact ⟨actions[j], List.getElem?_eq_getElem hlen, h⟩

/-- Two actions of a payload that name one line are found by their lines (R35). -/
theorem lines_not_nodup (pl : List Byte) (count j k : Nat) (actions : List LineAction)
    (hread : List.Forall₂ (fun i a => decodeAction pl i = some a) (List.range count) actions)
    (hj : j < count) (hk : k < j) (hsame : (byteAt pl (22 + 5 * j)).toNat =
      (byteAt pl (22 + 5 * k)).toNat) : ¬ (actions.map LineAction.line).Nodup := by
  obtain ⟨a, ha, hda⟩ := read_action pl count j actions hread hj
  obtain ⟨b, hb, hdb⟩ := read_action pl count k actions hread (hk.trans hj)
  have hline : a.line = b.line := by
    rw [Fin.ext_iff, (decodeAction_some pl j a hda).1, (decodeAction_some pl k b hdb).1, hsame]
  intro hn
  have hlen : j < (actions.map LineAction.line).length := by
    rw [List.length_map, ← hread.length_eq, List.length_range]
    exact hj
  have heq : (actions.map LineAction.line)[j]? = (actions.map LineAction.line)[k]? := by
    rw [List.getElem?_map, List.getElem?_map, ha, hb, Option.map_some, Option.map_some, hline]
  exact absurd ((List.getElem?_inj hlen hn).mp heq) (Nat.ne_of_gt hk)

/-- A payload that can be read behind its allow_late shows no fault of R35 there. -/
theorem addRest_some (pl : List Byte) (trigger : Trigger) (input : Option InputIx)
    (allowLate : Bool) (f : AddFields) (h : addRest pl trigger input allowLate = some f) :
    (trigger = .onCapture → natAt pl 1 6 ≤ 4294967295)
    ∧ (byteAt pl 15).toNat ≤ 2 ∧ (byteAt pl 16).toNat ≤ 1 ∧ (byteAt pl 17).toNat ≤ 1
    ∧ (byteAt pl 18).toNat ≤ 1 ∧ (byteAt pl 21).toNat ≤ 4
    ∧ pl.length = 22 + 5 * (byteAt pl 21).toNat
    ∧ (∃ actions,
        List.Forall₂ (fun i a => decodeAction pl i = some a)
          (List.range (byteAt pl 21).toNat) actions
        ∧ (actions.map LineAction.line).Nodup)
    ∧ ¬ ((byteAt pl 21).toNat = 0 ∧ (byteAt pl 17).toNat = 0) := by
  unfold addRest at h
  simp only [Option.bind_eq_some_iff, Option.ite_none_left_eq_some] at h
  obtain ⟨step, hstep, orphan, horphan, notify, hnotify, labelled, hlabelled, htime, hcount,
    actions, hactions, hnodup, hempty, -⟩ := h
  refine ⟨fun e => Nat.not_lt.mp fun c => htime ⟨e, c⟩, Nat.not_lt.mp fun c => ?_,
    Nat.not_lt.mp fun c => ?_, Nat.not_lt.mp fun c => ?_, Nat.not_lt.mp fun c => ?_, by omega,
    by omega, ⟨actions, mapM_some _ _ _ hactions, not_not.mp hnodup⟩, fun ⟨h0, hn⟩ => ?_⟩
  · rw [StepPolicy.ofByte_none _ c] at hstep
    cases hstep
  · rw [OrphanPolicy.ofByte_none _ c] at horphan
    cases horphan
  · rw [boolOfByte_none _ c] at hnotify
    cases hnotify
  · rw [boolOfByte_none _ c] at hlabelled
    cases hlabelled
  · rw [eq_of_toNat_byte hn] at hnotify
    exact hempty ⟨h0, (Option.some.inj hnotify).symm⟩

/-- A payload with one of the faults of R35 cannot be read. -/
theorem decodeAdd_none (pl : List Byte) (hbad : badAdd pl) : decodeAdd pl = none := by
  rw [decodeAdd_eq, Option.eq_none_iff_forall_ne_some]
  intro f h
  simp only [Option.bind_eq_some_iff] at h
  obtain ⟨trigger, htrigger, input, hinput, late, hlate, hrest⟩ := h
  obtain ⟨htime, hstep, horphan, hnotify, hlabel, hcount, hlen, ⟨actions, hread, hnodup⟩,
    hempty⟩ := addRest_some pl trigger input late f hrest
  unfold badAdd at hbad
  obtain h | ⟨h0, h⟩ | ⟨h0, h⟩ | h | h | h | h | h | h | ⟨j, hj, h⟩ | ⟨j, hj, k, hk, h⟩ | h := hbad
  · rw [byteAt, Trigger.ofByte_none _ h] at htrigger
    cases htrigger
  · rw [byteAt, eq_of_toNat_byte h0] at htrigger
    cases htrigger
    rcases h with h | h
    · rw [addInput, byteAt, finOfByte_none 4 _ h] at hinput
      cases hinput
    · exact absurd (htime rfl) (Nat.not_le.mpr h)
  · rw [byteAt, eq_of_toNat_byte h0] at htrigger
    cases htrigger
    rw [addAllowLate, byteAt, boolOfByte_none _ h] at hlate
    cases hlate
  · exact absurd hstep (Nat.not_le.mpr h)
  · exact absurd horphan (Nat.not_le.mpr h)
  · exact absurd hnotify (Nat.not_le.mpr h)
  · exact absurd hlabel (Nat.not_le.mpr h)
  · exact absurd hcount (Nat.not_le.mpr h)
  · exact absurd hlen h
  · obtain ⟨a, -, ha⟩ := read_action pl _ j actions hread (List.mem_range.mp hj)
    obtain ⟨hline, hkind, hwidth⟩ := decodeAction_some pl j a ha
    rcases h with h | h | ⟨h0, h⟩
    · have := a.line.isLt
      rw [hline] at this
      exact absurd h (Nat.not_lt.mpr (Nat.le_of_lt_succ this))
    · exact absurd hkind (Nat.not_le.mpr h)
    · have := hwidth h0
      omega
  · exact lines_not_nodup pl _ j k actions hread (List.mem_range.mp hj) (List.mem_range.mp hk) h
      hnodup
  · exact hempty h

/-! ### The other payloads (R11, R16, R47, R90, R94, R106, R111, R127, R138, R152) -/

theorem decodeStep_none (pl : List Byte) (h : badField .step pl) : decodeStep pl = none := by
  unfold decodeStep
  obtain h | ⟨h0, h⟩ := h
  · have h0 : byteAt pl 0 ≠ 0 := ne_of_toNat_lt (Nat.lt_trans (by decide) h)
    have h1 : byteAt pl 0 ≠ 1 := ne_of_toNat_lt h
    rw [if_neg h0, if_neg h1]
  · have h1 : byteAt pl 0 = 1 := eq_of_toNat_byte h0
    have hs0 : byteAt pl 1 ≠ 0 := ne_of_toNat_lt (Nat.lt_trans (by decide) h)
    have hs1 : byteAt pl 1 ≠ 1 := ne_of_toNat_lt h
    rw [h1, if_neg (by decide), if_pos rfl, if_neg hs0, if_neg hs1]

theorem decodeSlew_none (pl : List Byte) (h : badField .slew pl) : decodeSlew pl = none := by
  have hraw := natAt_lt pl 0 2
  unfold decodeSlew signed16
  dsimp only
  rcases h with ⟨hlow, hhigh⟩ | ⟨hrate, hduration⟩
  · exact if_pos (by split <;> omega)
  · rw [if_pos (c := _ ∧ _) ⟨by split <;> omega, hduration⟩, ite_self]

theorem decodeQuota_none (pl : List Byte) (h : badField .setQuota pl) : decodeQuota pl = none := by
  unfold decodeQuota
  simp only [Option.bind_eq_bind, Option.bind_eq_none_iff]
  intro q hq
  rcases h with h | h
  · rw [finOfByte_none 3 (byteAt pl 0) h] at hq
    cases hq
  · exact if_neg (Nat.not_le.mpr h)

theorem decodePolicy_none (pl : List Byte) (h : badField .setLinePolicy pl) :
    decodePolicy pl = none := by
  unfold decodePolicy
  simp only [Option.bind_eq_bind, Option.bind_eq_none_iff]
  intro line hline mask hmask mode hmode polarity hpolarity
  rcases h with h | h | h | h
  · rw [finOfByte_none 16 (byteAt pl 0) h] at hline
    cases hline
  · rw [setOfByte_none 3 (byteAt pl 1) h] at hmask
    cases hmask
  · rw [LineMode.ofByte_none (byteAt pl 2) h] at hmode
    cases hmode
  · rw [Polarity.ofByte_none (byteAt pl 3) h] at hpolarity
    cases hpolarity

theorem decodeForce_none (pl : List Byte) (h : badField .forceLine pl) : decodeForce pl = none := by
  unfold decodeForce
  simp only [Option.bind_eq_bind, Option.bind_eq_none_iff]
  intro line hline value hvalue
  rcases h with h | h
  · rw [finOfByte_none 16 (byteAt pl 0) h] at hline
    cases hline
  · rw [forceOfByte_none (byteAt pl 1) h] at hvalue
    cases hvalue

theorem decodeLease_none (pl : List Byte) (h : natAt pl 0 2 = 0) : decodeLease pl = none := if_pos h

theorem decodeClaim_none (pl : List Byte) (h : badField .claim pl) : decodeClaim pl = none := by
  unfold decodeClaim
  simp only [Option.bind_eq_bind, Option.bind_eq_none_iff]
  intro lease hlease urgent hurgent
  rcases h with h | h
  · rw [decodeLease_none pl h] at hlease
    cases hlease
  · rw [boolOfByte_none (byteAt pl 2) h] at hurgent
    cases hurgent

theorem decodeCapture_none (pl : List Byte) (h : badField .setCapture pl) :
    decodeCapture pl = none := by
  unfold decodeCapture
  simp only [Option.bind_eq_bind, Option.bind_eq_none_iff]
  intro input hinput edge hedge
  rcases h with h | h
  · rw [finOfByte_none 4 (byteAt pl 0) h] at hinput
    cases hinput
  · rw [EdgeSetting.ofByte_none (byteAt pl 1) h] at hedge
    cases hedge

theorem decodeMax_none (pl : List Byte)
    (h : (byteAt pl 0).toNat = 0 ∨ 4 < (byteAt pl 0).toNat) : decodeMax pl = none :=
  if_neg (by omega)

/-! ### Every kind refuses its bad fields -/

/-- A handle of a slot above 63 is refused (R25). -/
theorem State.handleCheck_badField (t : State) (p : Port) (pl : List Byte) (ticket : BitVec 16)
    (block : SlotIx → Entry → State) (h : 63 < (byteAt pl 0).toNat) :
    t.handleCheck p pl ticket block = t.refuse p ticket .badField := by
  rw [State.handleCheck, finOfByte_none 64 _ h]

/-- With no pass in flight a handle of a slot above 63 is refused (R39). -/
theorem State.ownEntry_badField (t : State) (p : Port) (pl : List Byte) (ticket : BitVec 16)
    (block : SlotIx → Entry → State) (hp : t.schedule.pass = none)
    (h : 63 < (byteAt pl 0).toNat) :
    t.ownEntry p pl ticket block = t.refuse p ticket .badField := by
  rw [State.ownEntry, hp, State.handleCheck_badField t p pl ticket _ h]
  rfl

/-- The block of every kind refuses a bad field with BAD_FIELD, where no pass makes it answer RETRY. -/
theorem taken_of_badField (t : State) (p : Port) (pl : List Byte) (ticket : BitVec 16) (k : Kind)
    (hpass : t.schedule.pass = none ∨ k ∉ retryKinds) (hbad : badField k pl) :
    k.taken p pl ticket t = t.refuse p ticket .badField := by
  have hnopass (hk : k ∈ retryKinds) : t.schedule.pass = none :=
    hpass.resolve_right (not_not.mpr hk)
  cases k with
  | setAttention =>
    change State.attentionTaken p pl ticket t = _
    rw [State.attentionTaken, boolOfByte_none (byteAt pl 0) hbad]
  | step =>
    change State.stepTaken p pl ticket t = _
    rw [State.stepTaken, decodeStep_none pl hbad]
  | slew =>
    change State.slewTaken p pl ticket t = _
    rw [State.slewTaken, decodeSlew_none pl hbad]
  | entryAdd =>
    change State.addTaken p pl ticket t = _
    rw [State.addTaken, hnopass (by decide), decodeAdd_none pl hbad]
    rfl
  | entryCancel => exact t.ownEntry_badField p pl ticket _ (hnopass (by decide)) hbad
  | entryHold => exact t.ownEntry_badField p pl ticket _ (hnopass (by decide)) hbad
  | entryResume => exact t.ownEntry_badField p pl ticket _ (hnopass (by decide)) hbad
  | entryQuery => exact t.handleCheck_badField p pl ticket _ hbad
  | entryList =>
    change State.entryListTaken p pl ticket t = _
    rw [State.entryListTaken, hnopass (by decide), finOfByte_none 64 (byteAt pl 0) hbad]
    rfl
  | setQuota =>
    change State.quotaTaken p pl ticket t = _
    rw [State.quotaTaken, decodeQuota_none pl hbad]
  | purgePort =>
    change State.purgeTaken p pl ticket t = _
    rw [State.purgeTaken, hnopass (by decide), finOfByte_none 3 (byteAt pl 0) hbad]
    rfl
  | lineQuery =>
    change State.lineQueryTaken p pl ticket t = _
    rw [State.lineQueryTaken, finOfByte_none 16 (byteAt pl 0) hbad]
  | setLinePolicy =>
    change State.policyTaken p pl ticket t = _
    rw [State.policyTaken, decodePolicy_none pl hbad]
  | forceLine =>
    change State.forceTaken p pl ticket t = _
    rw [State.forceTaken, decodeForce_none pl hbad]
  | claim =>
    change State.claimTaken p pl ticket t = _
    rw [State.claimTaken, decodeClaim_none pl hbad]
  | renew =>
    change State.renewTaken p pl ticket t = _
    rw [State.renewTaken, decodeLease_none pl hbad]
  | setGrace => exact if_pos hbad
  | setCapture =>
    change State.setCaptureTaken p pl ticket t = _
    rw [State.setCaptureTaken, decodeCapture_none pl hbad]
  | subscribe =>
    change State.subscribeTaken p pl ticket t = _
    rw [State.subscribeTaken, setOfByte_none 4 (byteAt pl 0) hbad]
  | readCaptures =>
    change State.readTaken p pl ticket t = _
    rw [State.readTaken, decodeMax_none pl hbad]
  | fetchNotices =>
    change State.fetchTaken p pl ticket t = _
    rw [State.fetchTaken, decodeMax_none pl hbad]
  | attach | detach | queryTime | start | stop | nextQuery | release | queryAuthority
  | ackNotices => exact hbad.elim

/-- Settles O11: the request reaches the block of its kind, which refuses the field. -/
theorem badFieldsAreRefused : Obligations.BadFieldsAreRefused := by
  unfold Obligations.BadFieldsAreRefused
  intro p lags tag k pl s hready hadm hlen hpass hbad
  rw [exec_admitted s p lags tag k pl hready hadm hlen,
    taken_of_badField (s.takeRequest p lags tag k.code pl) p pl _ k hpass hbad,
    State.refuse_takeRequest]

end Sys2Proof.Machine

/-! PROOFS. The requests of the timebase: QUERY_TIME, START, STOP and SLEW; and QUERY_AUTHORITY. -/

namespace Sys2Proof.Machine

/-! ### QUERY_TIME and QUERY_AUTHORITY (R20, R123) -/

/-- A request that a detached port may send is taken by the block of its kind. -/
theorem exec_takenDetached (s : State) (p : Port) (lags : List Nat) (tag : Byte) (k : Kind)
    (pl : List Byte) (hready : Ready s p) (hk : k.takenDetached = true)
    (hlen : k.takesLength pl.length = true) (hfree : k ∉ privilegedKinds) :
    exec (requestCommand k ⟨p, lags⟩ tag pl) s =
      .next (k.taken p pl (s.ports.get p).nextTicket (s.takeRequest p lags tag k.code pl)) := by
  rw [exec_requestCommand, State.request_block s k p lags tag pl _ hready hlen (Or.inr hk),
    Kind.block, if_neg hfree]

/-- Two flags in a byte (R195). -/
theorem flagByte_pair (a b : Bool) :
    flagByte [a, b] = (if a = true then 1 else 0) + (if b = true then 2 else 0) := by
  revert a b
  decide

/-- The rank order in a byte: RANK1 x 2 + RANK0 (R192). -/
theorem Rank.code_eq_add (r : Rank) :
    r.code = (if r.rank1 = true then 2 else 0) + (if r.rank0 = true then 1 else 0) := by
  obtain ⟨rank1, rank0⟩ := r
  revert rank1 rank0
  decide

/-- Settles O22: the answers of the two queries, field by field. -/
theorem queriesOfTimeAndAuthority : Obligations.QueriesOfTimeAndAuthority := by
  unfold Obligations.QueriesOfTimeAndAuthority
  intro p lags tag s hready a waiter
  constructor
  · have hexec : exec (.queryTime ⟨p, lags⟩ tag []) s =
        .next ((s.takeRequest p lags tag 0x20 []).answer p (s.ports.get p).nextTicket .ok
          s.timePayload) :=
      exec_takenDetached s p lags tag .queryTime [] hready rfl rfl (by decide)
    rw [hexec, State.answer_takeRequest s p lags tag 0x20 [] _ .ok (Or.inl rfl),
      State.timePayload, flagByte_pair]
    have hstops : ((!s.timebase.stopWaiters.isEmpty) = true) ↔ ¬ s.timebase.stopWaiters = [] := by
      rw [Bool.not_eq_true', List.isEmpty_eq_false_iff]
    have hpass : (s.schedule.pass.isSome = true) ↔ ¬ s.schedule.pass = none := by
      rw [Option.isSome_iff_ne_none]
    simp only [hstops, hpass, ite_not]
    cases s.timebase.slew <;> rfl
  · have hexec : exec (.queryAuthority ⟨p, lags⟩ tag []) s =
        .next ((s.takeRequest p lags tag 0x53 []).answer p (s.ports.get p).nextTicket .ok
          s.authority.payload) :=
      exec_takenDetached s p lags tag .queryAuthority [] hready rfl rfl (by decide)
    have hwaiter (w : Option WaiterRec) : waiterBytes w = waiter w := by cases w <;> rfl
    rw [hexec, State.answer_takeRequest s p lags tag 0x53 [] _ .ok (Or.inl rfl),
      Authority.payload, Rank.code_eq_add, hwaiter, hwaiter]
    unfold Authority.state Authority.holder
    change _ = Host.Outcome.next (answeredState s p lags tag 0x53 0 .ok _)
    cases s.authority.tenure <;> cases s.authority.demand <;> rfl

/-! ### The answers to the pending STOPs (R5, R7, R9) -/

/-- A port whose STOP no waiter bears is not reached by the answers. -/
theorem foldl_answer_other (ws : List Waiter) (st : Status) (pl : List Byte) (s : State) (q : Port)
    (hq : ∀ h, (s.ports.get q).slot = .working h → { port := q, ticket := h.ticket } ∉ ws) :
    (ws.foldl (fun t w => t.answer w.port w.ticket st pl) s).ports.get q = s.ports.get q := by
  induction ws generalizing s with
  | nil => rfl
  | cons w ws ih =>
    have hstep : (s.answer w.port w.ticket st pl).ports.get q = s.ports.get q := by
      rw [State.answer_port]
      split
      · next hw =>
        refine PortIf.takeAnswer_discarded _ _ _ _ _ fun h hs e => hq h hs ?_
        rw [← hw, e]
        exact List.mem_cons_self
      · rfl
    rw [List.foldl_cons, ih, hstep]
    rw [hstep]
    exact fun h hs hmem => hq h hs (List.mem_cons_of_mem w hmem)

/-- A port whose STOP a waiter bears is answered, once. -/
theorem foldl_answer_working (ws : List Waiter) (st : Status) (pl : List Byte) (s : State)
    (q : Port) (h : Held) (hs : (s.ports.get q).slot = .working h)
    (hmem : { port := q, ticket := h.ticket } ∈ ws) :
    (ws.foldl (fun t w => t.answer w.port w.ticket st pl) s).ports.get q =
      { s.ports.get q with slot := .answered h (responseOf h st pl) } := by
  induction ws generalizing s with
  | nil => exact absurd hmem List.not_mem_nil
  | cons w ws ih =>
    rw [List.foldl_cons]
    by_cases hw : w = { port := q, ticket := h.ticket }
    · have hstep : (s.answer w.port w.ticket st pl).ports.get q =
          { s.ports.get q with slot := .answered h (responseOf h st pl) } := by
        rw [hw, State.answer_port, if_pos rfl, PortIf.takeAnswer_working _ h _ _ _ hs]
      rw [foldl_answer_other, hstep]
      intro x hx
      rw [hstep] at hx
      cases hx
    · have hstep : (s.answer w.port w.ticket st pl).ports.get q = s.ports.get q := by
        rw [State.answer_port]
        split
        · next hp =>
          refine PortIf.takeAnswer_discarded _ _ _ _ _ fun x hx e => hw ?_
          rw [hs] at hx
          cases hx
          rw [← hp, e]
        · rfl
      have hmem' := (List.mem_cons.mp hmem).resolve_left fun e => hw e.symm
      rw [ih _ (by rw [hstep]; exact hs) hmem', hstep]

/-- A port interface once the pending STOPs have been answered: the request that one of them bears is
answered (R168). -/
def PortIf.stopAnswered (i : PortIf) (q : Port) (ws : List Waiter) (st : Status)
    (pl : List Byte) : PortIf :=
  match i.slot with
  | .working h =>
    if { port := q, ticket := h.ticket } ∈ ws then
      { i with slot := .answered h (responseOf h st pl) }
    else i
  | .empty | .answered _ _ => i

/-- The port interface of every port after the answers to some requests, each alike (R168). -/
theorem foldl_answer_port (ws : List Waiter) (st : Status) (pl : List Byte) (s : State) (q : Port) :
    (ws.foldl (fun t w => t.answer w.port w.ticket st pl) s).ports.get q =
      (s.ports.get q).stopAnswered q ws st pl := by
  unfold PortIf.stopAnswered
  cases hs : (s.ports.get q).slot with
  | working h =>
    dsimp only
    split
    · next hmem => exact foldl_answer_working _ st _ s q h hs hmem
    · next hmem =>
      refine foldl_answer_other _ st _ s q fun x hx => ?_
      rw [hs] at hx
      cases hx
      exact hmem
  | empty => exact foldl_answer_other _ st _ s q fun x hx => by rw [hs] at hx; cases hx
  | answered h r => exact foldl_answer_other _ st _ s q fun x hx => by rw [hs] at hx; cases hx

/-- The port interface of every port after the answers to the pending STOPs (R5, R7, R9). -/
theorem State.answerStops_port (s : State) (st : Status) (q : Port) :
    (s.answerStops st).ports.get q =
      (s.ports.get q).stopAnswered q s.timebase.stopWaiters st (leBytes 6 s.timebase.now) :=
  foldl_answer_port s.timebase.stopWaiters st _ s q

/-- A request whose ticket no pending STOP bears is not answered with them. -/
theorem PortIf.stopAnswered_other (i : PortIf) (q : Port) (ws : List Waiter) (st : Status)
    (pl : List Byte) (h : Held) (hs : i.slot = .working h)
    (hfresh : { port := q, ticket := h.ticket } ∉ ws) : i.stopAnswered q ws st pl = i := by
  rw [PortIf.stopAnswered, hs]
  exact if_neg hfresh

/-! ### START, STOP and SLEW (R5, R6, R11) -/

/-- A request that changes one port interface but for its session changes no session. -/
theorem State.attached_of_ports_set {s t : State} (p : Port) (i : PortIf)
    (ht : t.ports = s.ports.set p i) (hi : i.session = (s.ports.get p).session) (q : Port) :
    t.attached q = s.attached q := by
  simp only [State.attached, ht, Table.get_set]
  split
  · next h => rw [hi, h]
  · rfl

/-- The port that has just sent a request, once it has been answered (R168). -/
theorem askedPort_takeAnswer (s : State) (p : Port) (lags : List Nat) (tag kind : Byte) (n : Nat)
    (st : Status) (pl : List Byte) (hst : st.carriesPayload = true) :
    (askedPort s p lags tag kind n).takeAnswer (s.ports.get p).nextTicket st pl =
      answeredPort s p lags tag kind n st pl := by
  have hr : responseOf { tag := tag, kind := kind, ticket := (s.ports.get p).nextTicket } st pl =
      { tag := tag, kind := kind, status := st, payload := pl } := by
    rw [responseOf, if_pos hst]
  rw [PortIf.takeAnswer_working (askedPort s p lags tag kind n) _ st pl none rfl, hr]
  rfl

/-- The state in which START has been taken in STOPPED, before the other ports are told (R5). -/
def startedState (s : State) (p : Port) (lags : List Nat) (tag : Byte) : State :=
  { s.frameEnds p with
    timebase := { s.timebase with state := .running }
    ports := answeredPorts s p lags tag 0x21 0 .ok (leBytes 6 s.timebase.now) }

/-- START in STOPPED below the end of time: RUNNING, and the other ports are told (R5). -/
theorem State.startTaken_stopped (p : Port) (lags : List Nat) (tag : Byte) (s : State)
    (hs : s.timebase.state = .stopped) (hnow : s.timebase.now ≠ maxNow) :
    State.startTaken p (s.ports.get p).nextTicket (s.takeRequest p lags tag 0x21 []) =
      (startedState s p lags tag).postWhere (fun q => q ≠ p) (.timebaseState .started) := by
  unfold State.startTaken
  rw [State.takeRequest_timebase, hs]
  dsimp only
  rw [if_neg hnow, State.answer_asked s _ p lags tag 0x21 0 .ok _ rfl (Or.inl rfl)]
  rfl

/-- START in STOPPING: RUNNING, the pending STOPs are overtaken, and the request is answered (R5). -/
theorem State.startTaken_stopping (p : Port) (k : BitVec 16) (s : State)
    (hs : s.timebase.state = .stopping) :
    State.startTaken p k s =
      ((s.mapTime fun t => { t with state := .running }).answerStops .overtaken).answer p k .ok
        (leBytes 6 s.timebase.now) := by
  unfold State.startTaken
  rw [hs]

/-- Settles O23: the cases are the states of the timebase that START finds. -/
theorem startTaken : Obligations.StartTaken := by
  unfold Obligations.StartTaken
  intro p lags tag s hready hadm now
  have hexec : exec (.start ⟨p, lags⟩ tag []) s =
      .next (State.startTaken p (s.ports.get p).nextTicket (s.takeRequest p lags tag 0x21 [])) :=
    exec_admitted s p lags tag .start [] hready hadm rfl
  rw [hexec]
  refine ⟨fun hs hnow => ?_, fun hs hnow => ?_, fun hs => ?_, fun hs hfresh => ?_⟩
  · rw [State.startTaken_stopped p lags tag s hs (Nat.ne_of_lt hnow)]
    refine ⟨_, rfl, State.postWhere_frame _ _ _, ?_⟩
    refine ((Told.none (s := s) (t := startedState s p lags tag) rfl).postWhere _ _ fun q =>
      State.attached_of_ports_set (s := s) p (answeredPort s p lags tag 0x21 0 .ok now) rfl rfl
        q).congr fun q _ => ?_
    by_cases hq : q = p <;> simp [hq]
  · rw [State.startTaken, State.takeRequest_timebase, hs]
    dsimp only
    rw [if_pos hnow, State.refuse_takeRequest]
    rfl
  · rw [State.startTaken, State.takeRequest_timebase, hs]
    dsimp only
    rw [State.answer_takeRequest s p lags tag 0x21 [] _ .ok (Or.inl rfl)]
    rfl
  · rw [State.startTaken_stopping p _ (s.takeRequest p lags tag 0x21 []) hs]
    refine ⟨_, rfl, ?_, ?_, fun q hq => ?_⟩
    · rw [State.answer_frame, State.answerStops_frame, State.answerStops_timebase]
      rfl
    · have hasked : ((s.takeRequest p lags tag 0x21 []).mapTime fun t =>
          { t with state := .running }).ports.get p = askedPort s p lags tag 0x21 0 :=
        Table.get_set_self _ _ _
      have hkeep : (askedPort s p lags tag 0x21 0).stopAnswered p s.timebase.stopWaiters .overtaken
          now = askedPort s p lags tag 0x21 0 :=
        PortIf.stopAnswered_other _ p _ _ _
          { tag := tag, kind := 0x21, ticket := (s.ports.get p).nextTicket } rfl fun hmem =>
          hfresh _ hmem rfl rfl
      rw [State.answer_port, if_pos rfl, State.answerStops_port, hasked]
      exact (congrArg (fun i => i.takeAnswer (s.ports.get p).nextTicket .ok now) hkeep).trans
        (askedPort_takeAnswer s p lags tag 0x21 0 .ok now rfl)
    · have hother : ((s.takeRequest p lags tag 0x21 []).mapTime fun t =>
          { t with state := .running }).ports.get q = s.ports.get q :=
        Table.get_set_ne _ (Ne.symm hq) _
      rw [State.answer_port, if_neg (Ne.symm hq), State.answerStops_port, hother]
      unfold PortIf.stopAnswered
      cases (s.ports.get q).slot <;> rfl

/-- Settles O24: the cases are the states of the timebase that STOP finds. -/
theorem stopTaken : Obligations.StopTaken := by
  unfold Obligations.StopTaken
  intro p lags tag s hready hadm
  have hexec : exec (.stop ⟨p, lags⟩ tag []) s =
      .next (State.stopTaken p (s.ports.get p).nextTicket (s.takeRequest p lags tag 0x22 [])) :=
    exec_admitted s p lags tag .stop [] hready hadm rfl
  rw [hexec, State.stopTaken, State.takeRequest_timebase]
  cases hs : s.timebase.state with
  | stopped =>
    refine ⟨fun _ => ?_, fun h => absurd rfl h⟩
    dsimp only
    rw [State.answer_takeRequest s p lags tag 0x22 [] _ .ok (Or.inl rfl)]
    rfl
  | running => exact ⟨(nomatch ·), fun _ => rfl⟩
  | stopping => exact ⟨(nomatch ·), fun _ => rfl⟩

/-- A SLEW whose fields lie in their ranges is read as they stand (R11). -/
theorem decodeSlew_some (pl : List Byte) (h : ¬ badField .slew pl) :
    decodeSlew pl = some { rate := signed16 (natAt pl 0 2), duration := natAt pl 2 2 } := by
  have hraw := natAt_lt pl 0 2
  have hgood : ¬ ((1000 < natAt pl 0 2 ∧ natAt pl 0 2 < 64536)
      ∨ (natAt pl 0 2 ≠ 0 ∧ natAt pl 2 2 = 0)) := h
  unfold decodeSlew signed16
  dsimp only
  rw [if_neg, if_neg]
  · split <;> omega
  · split <;> omega

/-- The slew that a SLEW of a rate begins, if it begins one (R11). -/
def slewOf (rate : Int) (duration : Nat) : Option Slew :=
  if rate = 0 then none
  else some { rate := rate, remaining := duration, phase := 0, accumulator := 0 }

/-- SLEW ends the slew in progress, with the reason that its rate gives, and begins its own (R11). -/
theorem State.slewTaken_good (p : Port) (pl : List Byte) (k : BitVec 16) (s : State)
    (hgood : ¬ badField .slew pl) :
    State.slewTaken p pl k s =
      ((s.endSlew (if signed16 (natAt pl 0 2) = 0 then .cancelled else .superseded)).mapTime
        fun t => { t with slew := slewOf (signed16 (natAt pl 0 2)) (natAt pl 2 2) }).answer p k .ok
          (leBytes 2 s.timebase.slewRemaining) := by
  unfold State.slewTaken slewOf
  rw [decodeSlew_some pl hgood]
  dsimp only
  split
  · have hnone : (s.endSlew .cancelled).mapTime (fun t => { t with slew := none }) =
        s.endSlew .cancelled := by
      rw [State.endSlew_frame, State.mapTime, State.endSlew_timebase]
    rw [hnone]
  · rfl

/-- What was told is told from every state with the same queues and sessions. -/
theorem Told.of_start {s u t : State} {news : Port → List NoticeBody} (h : Told u t news)
    (hn : u.notices = s.notices) (ha : ∀ q, u.attached q = s.attached q) : Told s t news :=
  fun q => by rw [h q, hn, ha q]

/-- Settles O26: the slew that is ended, the slew that begins, and the holder told. -/
theorem slewTaken : Obligations.SlewTaken := by
  unfold Obligations.SlewTaken
  intro p lags tag pl s hready hadm hlen hgood raw rate ended
  have hexec : exec (.slew ⟨p, lags⟩ tag pl) s =
      .next (State.slewTaken p pl (s.ports.get p).nextTicket (s.takeRequest p lags tag 0x24 pl)) :=
    exec_admitted s p lags tag .slew pl hready hadm (by rw [hlen]; rfl)
  have hholder : s.holder = some p := hadm.2 (by decide)
  have hports : ∀ r f, (((s.takeRequest p lags tag 0x24 pl).endSlew r).mapTime f).ports =
      s.ports.set p (askedPort s p lags tag 0x24 4) := fun r f => by
    rw [State.mapTime_ports, State.endSlew_ports, State.takeRequest_asked, hlen]
  rw [hexec, State.slewTaken_good p pl _ _ hgood,
    State.answer_asked s _ p lags tag 0x24 4 .ok _ (hports _ _) (Or.inl rfl)]
  refine ⟨_, rfl, ?_, ?_⟩
  · rw [State.mapTime, State.endSlew_frame, State.endSlew_timebase]
    rfl
  · refine (((State.endSlew_told (s.takeRequest p lags tag 0x24 pl) _).of_start (s := s) rfl fun q =>
      s.attached_takeRequest p q _ _ _ _).same rfl rfl rfl).congr fun q _ => ?_
    rw [State.holder_takeRequest, State.takeRequest_timebase, hholder]
    cases s.timebase.slew with
    | none => rfl
    | some sl => simp only [Option.some.injEq, eq_comm (a := p)]; rfl

end Sys2Proof.Machine

/-! PROOFS. The reference microsecond: what it counts, the advance of Now, the ends that it brings, and SLEW_DONE. -/

namespace Sys2Proof.Machine

variable (s : State)

/-! ### The counts of a reference microsecond (R1, R69, R128) -/

/-- The dividers at a reference microsecond, the due millisecond in one term (R1). -/
theorem Timebase.divide_eq (t : Timebase) :
    t.divide =
      { t with
        refclk := 0
        micros := if t.micros + 1 < 1000 then t.micros + 1 else 0
        msDue := t.msDue || decide (1000 ≤ t.micros + 1) } := by
  unfold Timebase.divide
  by_cases h : t.micros + 1 < 1000
  · rw [if_pos h, if_pos h, decide_eq_false (Nat.not_le.mpr h), Bool.or_false]
  · rw [if_neg h, if_neg h, decide_eq_true (Nat.not_lt.mp h), Bool.or_true]

/-- The dividers are what a reference microsecond counts in the timebase (R1). -/
theorem State.countMicrosecond_timebase : s.countMicrosecond.timebase = s.timebase.divide := rfl

/-- The holdoff of every input at a reference microsecond (R128). -/
theorem State.countMicrosecond_input (n : InputIx) :
    s.countMicrosecond.capture.inputs.get n =
      { s.capture.inputs.get n with
        sinceLast := (s.capture.inputs.get n).sinceLast.map fun k => min (k + 1) 65535 } :=
  Table.get_map _ _ n

/-- A reference microsecond before which no pass has to complete (R69). -/
theorem State.microsecond_notOverdue (h : ¬ Overdue s) :
    s.microsecond =
      if s.timebase.state = .stopped then s.countMicrosecond else s.countMicrosecond.advance := by
  unfold State.microsecond
  rw [if_neg (mt s.passOverdue_iff.mp h)]
  rfl

/-- After its completion no pass is in flight (R74). -/
theorem State.completePass_pass : s.completePass.schedule.pass = none := by
  unfold State.completePass
  split
  · next h => exact h
  · dsimp only
    split
    · rw [State.openSweep_frame]
      rfl
    · rfl

/-- No pass is overdue once the pass has completed (R69). -/
theorem State.not_overdue_completePass_noted : ¬ Overdue s.completePass.noted := by
  rw [← State.passOverdue_iff, State.passOverdue, State.noted_schedule, State.completePass_pass]
  exact Bool.false_ne_true

/-- A reference microsecond that finds an overdue pass completes it, as PASS_COMPLETE does, and is then
taken (R69). -/
theorem State.microsecond_overdue (h : Overdue s) :
    s.microsecond = s.completePass.noted.microsecond := by
  have hover := s.passOverdue_iff.mpr h
  have hthen : s.completePass.noted.passOverdue = false :=
    Bool.eq_false_iff.mpr (mt (State.passOverdue_iff _).mp s.not_overdue_completePass_noted)
  unfold State.microsecond
  rw [hover, hthen]
  rfl

/-- Settles O27: in STOPPED a reference microsecond only counts, and an overdue pass completes first. -/
theorem microsecondInStopped : Obligations.MicrosecondInStopped := by
  unfold Obligations.MicrosecondInStopped
  intro s hr
  have hexec (u : State) (hu : u.inFullReset = false) :
      exec .referenceMicrosecond u = .next u.noted.microsecond :=
    congrArg Host.Outcome.next (u.event_taken _ hu)
  refine ⟨fun hs hover => ?_, fun hover =>
    ⟨s.noted.completePass, congrArg Host.Outcome.next (s.event_taken _ hr), ?_⟩⟩
  · have hcounts : s.noted.microsecond = s.noted.countMicrosecond :=
      (s.noted.microsecond_notOverdue hover).trans (if_pos hs)
    refine ⟨_, hexec s hr, ?_, fun n => ?_⟩
    · rw [hcounts, State.countMicrosecond, State.mapTime, Timebase.divide_eq]
      rfl
    · rw [hcounts]
      exact s.noted.countMicrosecond_input n
  · rw [hexec s hr, hexec s.noted.completePass ((State.completePass_inFullReset _).trans hr),
      s.noted.microsecond_overdue hover]

/-! ### What an advance brings to the timebase and to the ports (R3, R7, R9, R12, R13) -/

/-- What was told in two parts is told as a whole, where both parts bear the same Now and epoch (R145). -/
theorem Told.trans {s u t : State} {first second : Port → List NoticeBody} (h1 : Told s u first)
    (h2 : Told u t second) (hnow : t.timebase.now = u.timebase.now)
    (hepoch : t.timebase.epoch = u.timebase.epoch) (ha : ∀ q, u.attached q = s.attached q) :
    Told s t fun q => first q ++ second q := fun q => by
  rw [h2 q, h1 q, ha q, hnow, hepoch]
  split
  · rw [List.foldl_append]
  · rfl

/-- The timebase after the end of a slew that is done (R13). -/
theorem State.endSlewIfDone_timebase :
    s.endSlewIfDone.timebase =
      { s.timebase with
        slew :=
          if s.timebase.slew.map Slew.remaining = some 0 then none else s.timebase.slew } := by
  unfold State.endSlewIfDone
  cases hs : s.timebase.slew with
  | none => simp [← hs]
  | some sl =>
    by_cases hz : sl.remaining = 0
    · simp only [hz, State.endSlew_timebase, Option.map_some, if_true]
    · have hnot : ¬ (some sl).map Slew.remaining = some 0 := fun c => hz (Option.some.inj c)
      dsimp only
      rw [if_neg hz, if_neg hnot, ← hs]

/-- Who is told of a slew that is done: the holder (R13, R15). -/
theorem State.endSlewIfDone_told :
    Told s s.endSlewIfDone fun q =>
      if s.timebase.slew.map Slew.remaining = some 0 ∧ s.holder = some q then
        [.slewEnded .done 0]
      else [] := by
  unfold State.endSlewIfDone
  cases hs : s.timebase.slew with
  | none => exact (Told.none rfl).congr fun q _ => by simp
  | some sl =>
    by_cases hz : sl.remaining = 0
    · dsimp only
      rw [if_pos hz]
      refine (s.endSlew_told .done).congr fun q _ => ?_
      simp [hs, hz]
    · dsimp only
      rw [if_neg hz]
      exact (Told.none rfl).congr fun q _ => by simp [hz]

/-- The timebase once it has settled after an advance (R7, R9). -/
theorem State.settleState_timebase :
    s.settleState.timebase =
      { s.timebase with
        state :=
          if s.timebase.now = maxNow ∨ s.timebase.state = .stopping then .stopped
          else s.timebase.state
        stopWaiters :=
          if s.timebase.now = maxNow ∨ s.timebase.state = .stopping then []
          else s.timebase.stopWaiters
        slew := if s.timebase.now = maxNow then none else s.timebase.slew } := by
  unfold State.settleState
  by_cases hend : s.timebase.now = maxNow
  · simp only [hend, true_or, if_true, State.timeEnd, State.postWhere_timebase,
      State.endSlew_timebase, State.answerStops_timebase, State.mapTime_timebase]
  · by_cases hs : s.timebase.state = .stopping
    · simp only [hend, hs, false_or, if_true, if_false, State.stopCompletes,
        State.postWhere_timebase, State.answerStops_timebase, State.mapTime_timebase]
    · simp only [hend, hs, false_or, if_false]

/-- The port interfaces once the timebase has settled: the pending STOPs are answered where it stops
(R7, R9). -/
theorem State.settleState_port (q : Port) :
    s.settleState.ports.get q =
      if s.timebase.now = maxNow ∨ s.timebase.state = .stopping then
        (s.ports.get q).stopAnswered q s.timebase.stopWaiters .ok (leBytes 6 s.timebase.now)
      else s.ports.get q := by
  unfold State.settleState
  by_cases hend : s.timebase.now = maxNow
  · simp only [hend, true_or, if_true, State.timeEnd, State.postWhere_ports, State.endSlew_ports,
      State.answerStops_port, State.mapTime_timebase, State.mapTime_ports]
  · by_cases hs : s.timebase.state = .stopping
    · simp only [hend, hs, false_or, if_true, if_false, State.stopCompletes,
        State.postWhere_ports, State.answerStops_port, State.mapTime_timebase, State.mapTime_ports]
    · simp only [hend, hs, false_or, if_false]

/-- The notices of the settling: the end of time with the slew it ends, or the end of a STOPPING to every
port with no STOP pending (R7, R9, R15). -/
def State.settleNews (q : Port) : List NoticeBody :=
  if s.timebase.now = maxNow then
    (match s.timebase.slew with
      | some sl => if s.holder = some q then [.slewEnded .timeEnd sl.remaining] else []
      | none => []) ++ [.timebaseState .timeEnd]
  else if s.timebase.state = .stopping ∧ ∀ w ∈ s.timebase.stopWaiters, w.port ≠ q then
    [.timebaseState .stopped]
  else []

/-- No STOP of a port is pending when no waiter is of that port. -/
theorem Timebase.not_stopPendingOf_iff (t : Timebase) (q : Port) :
    (!t.stopPendingOf q) = true ↔ ∀ w ∈ t.stopWaiters, w.port ≠ q := by
  simp [Timebase.stopPendingOf]

theorem State.settleState_told : Told s s.settleState s.settleNews := by
  unfold State.settleState
  have hattached (st : Status) (q : Port) :
      ((s.mapTime fun t => { t with state := .stopped }).answerStops st).attached q =
        s.attached q := (State.attached_answerStops _ st q).trans (s.attached_mapTime _ q)
  split
  · next hend =>
    have hslew := ((s.mapTime fun t => { t with state := .stopped }).answerStops .ok).endSlew_told
      .timeEnd
    have hnotices : ((s.mapTime fun t => { t with state := .stopped }).answerStops .ok).notices =
        s.notices := State.answerStops_notices _ _
    refine ((hslew.of_start hnotices (hattached .ok)).postWhere (fun _ => true)
      (.timebaseState .timeEnd) fun q => ?_).congr fun q _ => ?_
    · exact (State.attached_congr (State.endSlew_ports _ _) q).trans (hattached .ok q)
    · have hholder : ((s.mapTime fun t => { t with state := .stopped }).answerStops .ok).holder =
          s.holder := State.holder_congr (State.answerStops_authority _ _)
      rw [State.answerStops_timebase, hholder, State.settleNews, if_pos hend]
      rfl
  · next hend =>
    split
    · next hs =>
      have hsame : Told s ((s.mapTime fun t => { t with state := .stopped }).answerStops .ok)
          fun _ => [] := Told.none (State.answerStops_notices _ _)
      refine (hsame.postWhere _ (.timebaseState .stopped) (hattached .ok)).congr fun q _ => ?_
      simp only [State.settleNews, if_neg hend, hs, true_and, List.nil_append,
        Timebase.not_stopPendingOf_iff]
    · next hs =>
      refine (Told.none rfl).congr fun q _ => ?_
      simp only [State.settleNews, if_neg hend, hs, false_and, if_false]

/-! ### What an advance tells the schedule (R51, R70) -/

/-- The head of the due list is due. -/
def Schedule.headDue (c : Schedule) (now : Nat) : Bool :=
  match c.dueList with
  | i :: _ => decide (c.dueAt i ≤ now)
  | [] => false

/-- With no pass in flight a sweep opens exactly when the head of the due list is due (R51). -/
theorem State.openSweep_sweep_noPass (h : s.schedule.pass = none) :
    s.openSweep.schedule.sweep =
      if s.schedule.headDue s.timebase.now = true then some s.schedule.dueList else none := by
  rw [State.openSweep_sweep, h, Schedule.headDue]
  cases s.schedule.dueList with
  | nil => rfl
  | cons i js => simp only [decide_eq_true_eq]

/-- The schedule once it has been told of an advance (R51, R70). -/
theorem State.tellAdvance_schedule :
    s.tellAdvance.schedule =
      { s.schedule with
        pass := s.schedule.pass.map fun a => { a with advanced := true }
        sweep :=
          if s.schedule.pass = none then
            if s.schedule.headDue s.timebase.now = true then some s.schedule.dueList else none
          else s.schedule.sweep } := by
  unfold State.tellAdvance
  cases hp : s.schedule.pass with
  | some a => rfl
  | none =>
    dsimp only
    rw [State.openSweep_frame, State.openSweep_sweep_noPass s hp, if_pos rfl, Option.map_none, ← hp]

/-! ### One advance -/

/-- Now and the slew after one microsecond, before any end is taken (R3, R12, R13). -/
def State.ticked : State :=
  s.mapTime fun t => { t with now := t.advancedNow, slew := t.slew.map Slew.tick }

/-- The part after an advance, before the schedule is told of it. -/
def State.advancedState : State := s.ticked.endSlewIfDone.settleState

/-- An advance is told to the schedule when Now changed or is at its end (R51, R70). -/
theorem State.advance_eq :
    s.advance =
      if s.timebase.advancedNow ≠ s.timebase.now ∨ s.timebase.advancedNow = maxNow then
        s.advancedState.tellAdvance
      else s.advancedState := rfl

/-- What is told to the schedule reaches nothing else. -/
theorem State.advance_outside_schedule :
    s.advance = { s.advancedState with schedule := s.advance.schedule } := by
  rw [State.advance_eq]
  split
  · exact State.tellAdvance_frame _
  · rfl

/-- The timebase after an advance (R3, R7, R9, R13). -/
theorem State.advancedState_timebase :
    s.advancedState.timebase =
      { s.timebase with
        now := s.timebase.advancedNow
        state :=
          if s.timebase.advancedNow = maxNow ∨ s.timebase.state = .stopping then .stopped
          else s.timebase.state
        stopWaiters :=
          if s.timebase.advancedNow = maxNow ∨ s.timebase.state = .stopping then []
          else s.timebase.stopWaiters
        slew :=
          if (s.timebase.slew.map Slew.tick).map Slew.remaining = some 0
              ∨ s.timebase.advancedNow = maxNow then none
          else s.timebase.slew.map Slew.tick } := by
  rw [State.advancedState, State.settleState_timebase, State.endSlewIfDone_timebase, State.ticked,
    State.mapTime_timebase]
  by_cases hend : s.timebase.advancedNow = maxNow
  · simp only [hend, or_true, if_true]
  · simp only [hend, or_false, if_false]

/-- The port interfaces after an advance (R7, R9). -/
theorem State.advancedState_port (q : Port) :
    s.advancedState.ports.get q =
      if s.timebase.advancedNow = maxNow ∨ s.timebase.state = .stopping then
        (s.ports.get q).stopAnswered q s.timebase.stopWaiters .ok
          (leBytes 6 s.timebase.advancedNow)
      else s.ports.get q := by
  rw [State.advancedState, State.settleState_port, State.endSlewIfDone_timebase,
    State.endSlewIfDone_ports]
  rfl

/-- The notices of an advance: the end of the slew, then the end of time or of a STOPPING (R7, R9, R13,
R15). -/
theorem State.advancedState_told :
    Told s s.advancedState fun q =>
      (if (s.timebase.slew.map Slew.tick).map Slew.remaining = some 0 ∧ s.holder = some q then
        [.slewEnded .done 0]
      else []) ++ s.ticked.endSlewIfDone.settleNews q := by
  have hdone : Told s s.ticked.endSlewIfDone _ :=
    s.ticked.endSlewIfDone_told.of_start rfl fun q => rfl
  have hports (q : Port) : s.ticked.endSlewIfDone.attached q = s.attached q :=
    State.attached_congr (State.endSlewIfDone_ports _) q
  refine hdone.trans (State.settleState_told _) ?_ ?_ hports
  · rw [State.advancedState, State.settleState_timebase]
  · rw [State.advancedState, State.settleState_timebase]

/-- The schedule after an advance (R51, R70). -/
theorem State.advance_schedule :
    s.advance.schedule =
      { s.schedule with
        pass := s.schedule.pass.map fun a =>
          { a with
            advanced := a.advanced || decide (s.timebase.advancedNow ≠ s.timebase.now
              ∨ s.timebase.advancedNow = maxNow) }
        sweep :=
          if (s.timebase.advancedNow ≠ s.timebase.now ∨ s.timebase.advancedNow = maxNow)
              ∧ s.schedule.pass = none then
            if s.schedule.headDue s.timebase.advancedNow = true then some s.schedule.dueList
            else none
          else s.schedule.sweep } := by
  have hschedule : s.advancedState.schedule = s.schedule := by
    rw [State.advancedState, State.settleState_schedule, State.endSlewIfDone_schedule]
    rfl
  have hnow : s.advancedState.timebase.now = s.timebase.advancedNow := by
    rw [State.advancedState_timebase]
  rw [State.advance_eq]
  split
  · next htold =>
    rw [State.tellAdvance_schedule, hschedule, hnow]
    simp only [htold, true_and, decide_true, Bool.or_true]
  · next htold =>
    have hsame : (s.schedule.pass.map fun a => { a with advanced := a.advanced }) =
        s.schedule.pass := by cases s.schedule.pass <;> rfl
    rw [hschedule]
    simp only [htold, false_and, decide_false, Bool.or_false, if_false, hsame]

/-! ### The obligations -/

/-- The advance amount, in terms of the accumulator that one slew microsecond has gained (R12). -/
theorem advanceAmount_eq (slew : Option Slew) :
    advanceAmount slew =
      if slew.elim 0 Slew.gained < 1000000 then 1
      else if 0 < slew.elim 0 Slew.rate then 2 else 0 := by
  cases slew with
  | none => rfl
  | some sl =>
    unfold advanceAmount Slew.corrects
    by_cases h : sl.gained < 1000000
    · simp [h, Nat.not_le.mpr h]
    · simp only [Nat.not_lt.mp h, decide_true, if_true, Option.elim_some, h, if_false]
      rfl

/-- A slew after one slew microsecond, in terms of the accumulator it has gained (R12, R13). -/
theorem Slew.tick_eq (sl : Slew) :
    sl.tick =
      { rate := sl.rate
        remaining := if sl.phase + 1 < 1000 then sl.remaining else sl.remaining - 1
        phase := if sl.phase + 1 < 1000 then sl.phase + 1 else 0
        accumulator := if sl.gained < 1000000 then sl.gained else sl.gained - 1000000 } := by
  unfold Slew.tick Slew.corrects
  by_cases h : sl.gained < 1000000
  · simp [h, Nat.not_le.mpr h]
  · simp [h, Nat.not_lt.mp h]

/-- The slew after one slew microsecond, where there is one, in terms of the accumulator it has gained. -/
theorem Slew.map_tick_eq (slew : Option Slew) (gained : Nat)
    (hg : ∀ sl, slew = some sl → gained = sl.gained) :
    slew.map Slew.tick =
      slew.map fun sl =>
        { rate := sl.rate
          remaining := if sl.phase + 1 < 1000 then sl.remaining else sl.remaining - 1
          phase := if sl.phase + 1 < 1000 then sl.phase + 1 else 0
          accumulator := if gained < 1000000 then gained else gained - 1000000 } := by
  cases slew with
  | none => rw [Option.map_none, Option.map_none]
  | some sl =>
    obtain rfl := hg sl rfl
    rw [Option.map_some, Option.map_some, sl.tick_eq]

/-- What is told to the schedule leaves the timebase as it is. -/
theorem State.advance_timebase : s.advance.timebase = s.advancedState.timebase := by
  rw [State.advance_outside_schedule]

/-- Ageing the pass keeps whether there is one. -/
theorem Schedule.agePass_pass_eq_none (c : Schedule) : c.agePass.pass = none ↔ c.pass = none := by
  unfold Schedule.agePass
  exact Option.map_eq_none_iff

/-- The schedule after a counted microsecond with an advance: the pass has aged (log 6) and the advance has
been told (R51, R70). -/
theorem State.countMicrosecond_advance_schedule {now : Nat}
    (hnow : s.countMicrosecond.timebase.advancedNow = now) :
    s.countMicrosecond.advance.schedule =
      { s.schedule with
        pass := s.schedule.pass.map fun a =>
          { a with
            age := a.age + 1
            advanced := a.advanced || decide (now ≠ s.timebase.now ∨ now = maxNow) }
        sweep :=
          if (now ≠ s.timebase.now ∨ now = maxNow) ∧ s.schedule.pass = none then
            if s.schedule.headDue now = true then some s.schedule.dueList else none
          else s.schedule.sweep } := by
  have hschedule : s.countMicrosecond.schedule = s.schedule.agePass := rfl
  rw [State.advance_schedule, hnow, hschedule, State.countMicrosecond_timebase,
    Timebase.divide_eq]
  simp only [Schedule.agePass_pass_eq_none]
  cases hp : s.schedule.pass with
  | none => simp only [Schedule.agePass, hp, Option.map_none]; rfl
  | some a => simp only [Schedule.agePass, hp, Option.map_some]; rfl

/-- The notices of an advance, with the two parts of SLEW_ENDED at one place: a slew that is done has ended
before the end of time is taken (R13, R15). -/
theorem State.settleNews_after_endSlewIfDone {now : Nat} {slew : Option Slew} (q : Port)
    (hnow : s.timebase.now = now) (hslew : s.timebase.slew = slew) :
    (if slew.map Slew.remaining = some 0 ∧ s.holder = some q then [.slewEnded .done 0] else [])
        ++ s.endSlewIfDone.settleNews q =
      (if s.holder = some q then
        (match slew with
          | some sl =>
            if sl.remaining = 0 then [.slewEnded .done 0]
            else if now = maxNow then [.slewEnded .timeEnd sl.remaining] else []
          | none => [])
        else [])
      ++ (if now = maxNow then [.timebaseState .timeEnd]
          else if s.timebase.state = .stopping ∧ ∀ w ∈ s.timebase.stopWaiters, w.port ≠ q then
            [.timebaseState .stopped]
          else []) := by
  subst hnow hslew
  have hholder : s.endSlewIfDone.holder = s.holder :=
    State.holder_congr (State.endSlewIfDone_authority _)
  unfold State.settleNews
  rw [State.endSlewIfDone_timebase, hholder]
  by_cases hq : s.holder = some q
  · cases hs : s.timebase.slew with
    | none => simp [hq]
    | some sl =>
      by_cases hz : sl.remaining = 0
      · simp [hq, hz]
      · by_cases hend : s.timebase.now = maxNow <;> simp [hq, hz, hend]
  · by_cases hend : s.timebase.now = maxNow
    · cases hs : s.timebase.slew with
      | none => simp [hq, hend]
      | some sl => by_cases hz : sl.remaining = 0 <;> simp [hq, hz, hend]
    · simp [hq, hend]

/-- Settles O28: the counts of the microsecond, then one advance. -/
theorem microsecondAdvancesNow : Obligations.MicrosecondAdvancesNow := by
  unfold Obligations.MicrosecondAdvancesNow
  intro s hr hover hs gained rate amount now ticked done ends stops told
  have hexec : exec .referenceMicrosecond s = .next s.noted.countMicrosecond.advance := by
    refine congrArg Host.Outcome.next ((s.event_taken _ hr).trans ?_)
    exact (s.noted.microsecond_notOverdue hover).trans (if_neg hs)
  have hgained : gained = s.timebase.slew.elim 0 Slew.gained := by
    simp only [gained]
    cases s.timebase.slew <;> rfl
  have hrate : rate = s.timebase.slew.elim 0 Slew.rate := by
    simp only [rate]
    cases s.timebase.slew <;> rfl
  have hnow : s.noted.countMicrosecond.timebase.advancedNow = now := by
    rw [State.countMicrosecond_timebase, Timebase.divide_eq, Timebase.advancedNow,
      advanceAmount_eq]
    simp only [now, amount, hgained, hrate, State.noted_timebase]
    rfl
  have hticked : s.noted.countMicrosecond.timebase.slew.map Slew.tick = ticked := by
    rw [State.countMicrosecond_timebase, Timebase.divide_eq, State.noted_timebase]
    exact Slew.map_tick_eq s.timebase.slew gained fun sl hsl => by rw [hgained, hsl]; rfl
  refine ⟨_, hexec, ?_, fun n => ?_, fun q => ?_, ?_⟩
  · refine (State.advance_frame _).trans ?_
    rw [State.advance_timebase, State.advancedState_timebase,
      State.countMicrosecond_advance_schedule _ hnow, hnow, hticked, State.advance_capture,
      State.countMicrosecond_timebase, Timebase.divide_eq]
    rfl
  · rw [State.advance_capture]
    exact s.noted.countMicrosecond_input n
  · rw [State.advance_outside_schedule, State.advancedState_port, hnow]
    change (if stops then (s.ports.get q).stopAnswered q s.timebase.stopWaiters .ok (leBytes 6 now)
      else s.ports.get q) = _
    unfold PortIf.stopAnswered
    by_cases hstops : stops
    · simp only [hstops, true_and]
      cases (s.ports.get q).slot <;> rfl
    · simp only [hstops, false_and, if_false]
      cases (s.ports.get q).slot <;> rfl
  · rw [State.advance_outside_schedule]
    have htold := (s.noted.countMicrosecond.advancedState_told).of_start (s := s)
      (State.countMicrosecond_notices _) (State.attached_congr (State.countMicrosecond_ports _))
    refine (htold.same rfl rfl rfl).congr fun q _ => ?_
    rw [hticked]
    exact s.noted.countMicrosecond.ticked.settleNews_after_endSlewIfDone q hnow hticked

/-- A slew of which one slew unit remains is done at the reference microsecond that ends the unit (R13). -/
theorem Slew.remaining_tick_eq_zero_iff (sl : Slew) :
    sl.tick.remaining = 0 ↔ sl.remaining = 0 ∨ (999 ≤ sl.phase ∧ sl.remaining ≤ 1) := by
  rw [Slew.tick_eq]
  dsimp only
  split <;> omega

/-- Whether the next slew microsecond is the last, for a part with a slew. -/
theorem Timebase.slewRunsOut_iff (t : Timebase) :
    t.slewRunsOut = true ↔
      ∃ sl, t.slew = some sl ∧ t.state ≠ .stopped ∧ sl.tick.remaining = 0 := by
  unfold Timebase.slewRunsOut
  cases t.slew <;> simp

/-- SLEW_DONE is a reference microsecond where the slew runs out at it, and nothing elsewhere (log 15). -/
theorem exec_slewDone (hr : s.inFullReset = false) :
    exec .slewDone s =
      .next (if s.timebase.slewRunsOut = true then s.noted.microsecond else s.noted) :=
  congrArg Host.Outcome.next (s.event_taken _ hr)

/-- The slew has ended after the reference microsecond at which it runs out (R13). -/
theorem State.microsecond_slew_of_slewRunsOut (h : s.timebase.slewRunsOut = true)
    (hover : ¬ Overdue s) : s.microsecond.timebase.slew = none := by
  obtain ⟨sl, hsl, hs, hz⟩ := s.timebase.slewRunsOut_iff.mp h
  have hslew : s.countMicrosecond.timebase.slew = some sl := by
    rw [State.countMicrosecond_timebase, Timebase.divide_eq, hsl]
  rw [s.microsecond_notOverdue hover, if_neg hs, State.advance_timebase,
    State.advancedState_timebase]
  dsimp only
  rw [hslew, Option.map_some, Option.map_some, hz, if_pos (Or.inl rfl)]

/-- Settles O29: SLEW_DONE is the reference microsecond that ends the slew, or nothing. -/
theorem slewDoneEndsTheSlew : Obligations.SlewDoneEndsTheSlew := by
  unfold Obligations.SlewDoneEndsTheSlew
  intro s hr
  refine ⟨fun sl hsl hs hphase hremaining => ?_, fun hnot => ?_⟩
  · have hruns : s.timebase.slewRunsOut = true :=
      s.timebase.slewRunsOut_iff.mpr
        ⟨sl, hsl, hs, sl.remaining_tick_eq_zero_iff.mpr (.inr ⟨hphase.ge, hremaining.le⟩)⟩
    refine ⟨s.noted.microsecond, (exec_slewDone s hr).trans (congrArg _ (if_pos hruns)),
      congrArg Host.Outcome.next (s.event_taken _ hr), ?_⟩
    by_cases hover : Overdue s.noted
    · rw [s.noted.microsecond_overdue hover]
      refine State.microsecond_slew_of_slewRunsOut _ ?_ (State.not_overdue_completePass_noted _)
      rw [State.noted_timebase, State.completePass_timebase]
      exact hruns
    · exact State.microsecond_slew_of_slewRunsOut _ hruns hover
  · have hruns : ¬ s.timebase.slewRunsOut = true := by
      rw [Timebase.slewRunsOut_iff]
      rintro ⟨sl, hsl, hs, hz⟩
      rw [Slew.remaining_tick_eq_zero_iff] at hz
      rcases hnot with hnone | hstopped | ⟨sl', hsl', hlow, hmore⟩
      · exact nomatch hsl.symm.trans hnone
      · exact hs hstopped
      · obtain rfl := Option.some.inj (hsl.symm.trans hsl')
        omega
    rw [exec_slewDone s hr, if_neg hruns]

end Sys2Proof.Machine

/-! PROOFS. Freeing entries (R28): what several freeings, one after the other, leave of the lists, of the usage and of the references to lines. -/

namespace Sys2Proof.Machine

/-! ### References that a line loses (R87, R89) -/

/-- A line has lost `k q` references of each port `q` (R87); an exclusive holder whose references have
fallen to 0 has let go (R89). -/
structure LineLost (k : Port → Nat) (l m : Line) : Prop where
  refs : ∀ q, m.refs.get q = l.refs.get q - k q
  holder : m.exclHolder =
    match l.exclHolder with
    | none => none
    | some h => if 0 < k h ∧ l.refs.get h ≤ k h then none else some h
  frame : m = { l with refs := m.refs, exclHolder := m.exclHolder }

theorem LineLost.nothing (l : Line) : LineLost (fun _ => 0) l l where
  refs := fun _ => rfl
  holder := by cases l.exclHolder <;> simp
  frame := rfl

theorem LineLost.trans {k j : Port → Nat} {l m n : Line} (h1 : LineLost k l m)
    (h2 : LineLost j m n) : LineLost (fun q => k q + j q) l n where
  refs := fun q => by rw [h2.refs, h1.refs, Nat.sub_sub]
  holder := by
    rw [h2.holder, h1.holder]
    cases l.exclHolder with
    | none => rfl
    | some h =>
      by_cases hk : 0 < k h ∧ l.refs.get h ≤ k h
      · have hkj : 0 < k h + j h ∧ l.refs.get h ≤ k h + j h := by omega
        simp only [if_pos hk, if_pos hkj]
      · simp only [if_neg hk, h1.refs]
        have hiff : (0 < j h ∧ l.refs.get h - k h ≤ j h) ↔
            (0 < k h + j h ∧ l.refs.get h ≤ k h + j h) := by omega
        simp only [hiff]
  frame := by rw [h2.frame, h1.frame]

/-- A dropped reference is one reference of its port. -/
theorem LineLost.dropRef (p : Port) (l : Line) :
    LineLost (fun q => if q = p then 1 else 0) l (l.dropRef p) where
  refs := fun q => by
    unfold Line.dropRef
    rw [Table.get_upd]
    by_cases h : p = q
    · subst h
      simp only [if_true]
    · have h' : q ≠ p := fun e => h e.symm
      simp only [h, h', if_false, Nat.sub_zero]
  holder := by
    unfold Line.dropRef
    cases hx : l.exclHolder with
    | none => rfl
    | some h =>
      by_cases hp : h = p
      · subst hp
        simp only [true_and, if_true, Nat.zero_lt_one]
        by_cases h0 : l.refs.get h - 1 = 0
        · rw [if_pos h0, if_pos (by omega)]
        · rw [if_neg h0, if_neg (by omega)]
      · have hp' : ¬ (some h = some p) := fun e => hp (Option.some.inj e)
        simp only [hp, hp', false_and, if_false, Nat.lt_irrefl]
  frame := rfl

/-- Dropping the references of some actions takes from each line one for each action that names it
(R28 step 2). -/
theorem LineLost.dropRefs (p : Port) (actions : List LineAction) (ls : Table 16 Line) (l : LineIx) :
    LineLost (fun q => if q = p then (actions.map LineAction.line).count l else 0) (ls.get l)
      ((dropRefs p actions ls).get l) := by
  unfold Machine.dropRefs
  induction actions generalizing ls with
  | nil =>
    simp only [List.map_nil, List.count_nil, ite_self, List.foldl_nil]
    exact LineLost.nothing (ls.get l)
  | cons a as ih =>
    have hhead : LineLost (fun q => if q = p then (if a.line = l then 1 else 0) else 0) (ls.get l)
        ((ls.upd a.line (Line.dropRef p)).get l) := by
      rw [Table.get_upd]
      by_cases hl : a.line = l
      · subst hl
        simpa only [if_true] using LineLost.dropRef p (ls.get a.line)
      · simpa only [if_neg hl, ite_self] using LineLost.nothing (ls.get l)
    have hcount (q : Port) : (if q = p then (if a.line = l then 1 else 0) else 0)
          + (if q = p then (as.map LineAction.line).count l else 0) =
        if q = p then ((a :: as).map LineAction.line).count l else 0 := by
      by_cases hq : q = p
      · simp only [hq, if_true, List.map_cons, List.count_cons, beq_iff_eq]
        omega
      · simp only [hq, if_false]
    rw [List.foldl_cons]
    simpa only [hcount] using hhead.trans (ih _)

/-! ### The entries that are gone -/

/-- The slot held an entry in `s` and holds none in `t`. -/
def gone (s t : State) (i : SlotIx) : Bool :=
  (s.schedule.entryAt i).isSome && (t.schedule.entryAt i).isNone

/-- What the entries that are gone from `s` to `t` weigh together. -/
def goneWeight (w : Entry → Nat) (s t : State) : Nat :=
  ((indices 64).map fun i => if gone s t i then (s.schedule.entryAt i).elim 0 w else 0).sum

/-- Entries leave a state only by being freed: what is left in a slot has its owner and its lines. -/
def EntriesKept (s t : State) : Prop :=
  ∀ i : SlotIx, t.schedule.entryAt i = none
    ∨ (t.schedule.entryAt i).map (fun e => (e.owner, e.lines)) =
        (s.schedule.entryAt i).map fun e => (e.owner, e.lines)

/-- A weight that depends on the owner and the lines of an entry alone. -/
def OfOwnerAndLines (w : Entry → Nat) : Prop :=
  ∀ e x : Entry, e.owner = x.owner → e.lines = x.lines → w e = w x

theorem freedRefs_eq_goneWeight (s t : State) (q : Port) (l : LineIx) :
    freedRefs s t q l = goneWeight (fun e => if e.owner = q then e.lines.count l else 0) s t := by
  unfold freedRefs goneWeight freedOf gone
  congr 1
  refine List.map_congr_left fun i _ => ?_
  cases s.schedule.entryAt i with
  | none => simp
  | some e =>
    by_cases hq : e.owner = q <;> cases (t.schedule.entryAt i).isNone <;> simp [hq]

theorem countP_eq_sum {α : Type} (test : α → Bool) (xs : List α) :
    xs.countP test = (xs.map fun x => if test x then 1 else 0).sum := by
  induction xs with
  | nil => rfl
  | cons x xs ih => rw [List.countP_cons, ih, List.map_cons, List.sum_cons, Nat.add_comm]

theorem countP_gone (s t : State) :
    (indices 64).countP (gone s t) = goneWeight (fun _ => 1) s t := by
  unfold goneWeight gone
  rw [countP_eq_sum]
  congr 1
  refine List.map_congr_left fun i _ => ?_
  cases s.schedule.entryAt i with
  | none => rfl
  | some e => rfl

theorem countP_freedOf (s t : State) (q : Port) :
    (indices 64).countP (freedOf s t q) =
      goneWeight (fun e => if e.owner = q then 1 else 0) s t := by
  unfold goneWeight freedOf gone
  rw [countP_eq_sum]
  congr 1
  refine List.map_congr_left fun i _ => ?_
  cases s.schedule.entryAt i with
  | none => simp
  | some e =>
    by_cases hq : e.owner = q <;> cases (t.schedule.entryAt i).isNone <;> simp [hq]

theorem OfOwnerAndLines.one : OfOwnerAndLines fun _ => 1 := fun _ _ _ _ => rfl

theorem OfOwnerAndLines.owned (q : Port) (w : Entry → Nat) (h : OfOwnerAndLines w) :
    OfOwnerAndLines fun e => if e.owner = q then w e else 0 := fun e x ho hl => by
  simp only [ho, h e x ho hl]

theorem OfOwnerAndLines.count (l : LineIx) : OfOwnerAndLines fun e => e.lines.count l :=
  fun _ _ _ hl => by simp only [hl]

theorem EntriesKept.none {s t : State} (h : EntriesKept s t) {i : SlotIx}
    (hs : s.schedule.entryAt i = none) : t.schedule.entryAt i = none := by
  rcases h i with ht | ht
  · exact ht
  · rw [hs] at ht
    exact Option.map_eq_none_iff.mp ht

theorem EntriesKept.some {s t : State} (h : EntriesKept s t) {i : SlotIx} {e x : Entry}
    (hs : s.schedule.entryAt i = some e) (ht : t.schedule.entryAt i = some x) :
    x.owner = e.owner ∧ x.lines = e.lines := by
  rcases h i with hn | hm
  · exact nomatch ht.symm.trans hn
  · rw [hs, ht] at hm
    exact Prod.mk.inj (Option.some.inj hm)

theorem EntriesKept.trans {s t u : State} (h1 : EntriesKept s t) (h2 : EntriesKept t u) :
    EntriesKept s u := fun i => by
  rcases h1 i with hn | hm1
  · exact .inl (h2.none hn)
  · exact (h2 i).imp_right fun hm2 => hm2.trans hm1

theorem gone_trans {s t u : State} (h1 : EntriesKept s t) (h2 : EntriesKept t u) (i : SlotIx) :
    gone s u i = (gone s t i || gone t u i) := by
  unfold gone
  cases hs : s.schedule.entryAt i with
  | none => rw [h1.none hs]; rfl
  | some e =>
    cases ht : t.schedule.entryAt i with
    | none => rw [h2.none ht]; rfl
    | some x => rfl

/-- Weights add up over two parts, since what is gone in the second had stood there from the start. -/
theorem goneWeight_trans {s t u : State} {w : Entry → Nat} (hw : OfOwnerAndLines w)
    (h1 : EntriesKept s t) (h2 : EntriesKept t u) :
    goneWeight w s u = goneWeight w s t + goneWeight w t u := by
  unfold goneWeight
  rw [← List.sum_map_add]
  congr 1
  refine List.map_congr_left fun i _ => ?_
  unfold gone
  cases hs : s.schedule.entryAt i with
  | none => rw [h1.none hs]; rfl
  | some e =>
    cases ht : t.schedule.entryAt i with
    | none => rw [h2.none ht]; simp
    | some x =>
      obtain ⟨ho, hl⟩ := h1.some hs ht
      simp only [Option.isSome_some, Option.isNone_some, Bool.and_false, Bool.false_eq_true,
        if_false, Nat.zero_add, Option.elim_some, hw x e ho hl]

/-- Nothing is gone where every slot that held an entry holds one. -/
theorem goneWeight_eq_zero {s t : State} (w : Entry → Nat) (h : ∀ i, gone s t i = false) :
    goneWeight w s t = 0 := by
  unfold goneWeight
  simp only [h, Bool.false_eq_true, if_false, List.map_const', List.sum_replicate_nat, Nat.mul_zero]

/-- Where one entry alone is gone, its weight is the whole. -/
theorem goneWeight_single {s t : State} (w : Entry → Nat) {i : SlotIx} {e : Entry}
    (hs : s.schedule.entryAt i = some e) (h : ∀ j, gone s t j = decide (i = j)) :
    goneWeight w s t = w e := by
  unfold goneWeight indices
  have hterm (j : SlotIx) : (if gone s t j = true then (s.schedule.entryAt j).elim 0 w else 0) =
      if i = j then w e else 0 := by
    rw [h j]
    by_cases hj : i = j
    · subst hj
      simp only [decide_true, if_true, hs, Option.elim_some]
    · simp only [hj, decide_false, Bool.false_eq_true, if_false]
  simp only [hterm, ← Fin.sum_univ_def, Finset.sum_ite_eq, Finset.mem_univ, if_true]

/-! ### What freeings leave (R28) -/

/-- From `s` to `t` entries have been freed by R28 and others changed in place, with no other change of the
lists, the usage, the quotas and the lines. -/
structure EntriesFreed (s t : State) : Prop where
  kept : EntriesKept s t
  usage : ∀ q : Port, t.schedule.usage.get q =
    s.schedule.usage.get q - goneWeight (fun e => if e.owner = q then 1 else 0) s t
  lines : ∀ l : LineIx, LineLost
    (fun q => goneWeight (fun e => if e.owner = q then e.lines.count l else 0) s t)
    (s.lines.get l) (t.lines.get l)
  dueList : t.schedule.dueList = s.schedule.dueList.filter fun i => !gone s t i
  waiting : t.schedule.waiting = s.schedule.waiting.map fun w => w.filter fun i => !gone s t i
  quota : t.schedule.quota = s.schedule.quota

/-- Two runs of freeings are one. -/
theorem EntriesFreed.trans {s t u : State} (h1 : EntriesFreed s t) (h2 : EntriesFreed t u) :
    EntriesFreed s u where
  kept := h1.kept.trans h2.kept
  usage := fun q => by
    rw [h2.usage, h1.usage, goneWeight_trans (.owned q _ .one) h1.kept h2.kept, Nat.sub_sub]
  lines := fun l => by
    simpa only [← goneWeight_trans (.owned _ _ (.count l)) h1.kept h2.kept]
      using (h1.lines l).trans (h2.lines l)
  dueList := by
    rw [h2.dueList, h1.dueList, List.filter_filter]
    congr 1
    funext i
    rw [gone_trans h1.kept h2.kept, Bool.not_or, Bool.and_comm]
  waiting := Table.ext_get fun n => by
    rw [h2.waiting, h1.waiting, Table.get_map, Table.get_map, Table.get_map, List.filter_filter]
    congr 1
    funext i
    rw [gone_trans h1.kept h2.kept, Bool.not_or, Bool.and_comm]
  quota := h2.quota.trans h1.quota

/-- No entry is gone where every slot holds an entry of the same owner and lines as before. -/
theorem gone_eq_false {s t : State} {i : SlotIx}
    (h : (t.schedule.entryAt i).map (fun e => (e.owner, e.lines)) =
      (s.schedule.entryAt i).map fun e => (e.owner, e.lines)) : gone s t i = false := by
  have hnone := congrArg Option.isNone h
  rw [Option.isNone_map, Option.isNone_map] at hnone
  rw [gone, hnone]
  cases s.schedule.entryAt i <;> rfl

/-- A change in which every entry keeps its owner and its lines, and every list stands, frees none. -/
theorem EntriesFreed.unfreed {s t : State}
    (hentries : ∀ i, (t.schedule.entryAt i).map (fun e => (e.owner, e.lines)) =
      (s.schedule.entryAt i).map fun e => (e.owner, e.lines))
    (hrest : t.schedule =
      { s.schedule with
        slots := t.schedule.slots, pass := t.schedule.pass, sweep := t.schedule.sweep })
    (hlines : t.lines = s.lines) : EntriesFreed s t := by
  have hgone (i : SlotIx) : gone s t i = false := gone_eq_false (hentries i)
  exact {
    kept := fun i => .inr (hentries i)
    usage := fun q => by rw [goneWeight_eq_zero _ hgone, hrest]; rfl
    lines := fun l => by
      simp only [goneWeight_eq_zero _ hgone, hlines]
      exact LineLost.nothing _
    dueList := by
      simp only [hgone, Bool.not_false, List.filter_true]
      rw [hrest]
    waiting := Table.ext_get fun n => by
      simp only [hgone, Bool.not_false, List.filter_true, Table.get_map]
      rw [hrest]
    quota := by rw [hrest] }

/-- Freeing the entry of a slot leaves the others (R28). -/
theorem State.freeEntry_entryAt (s : State) {i : SlotIx} {e : Entry}
    (hs : s.schedule.entryAt i = some e) (j : SlotIx) :
    (s.freeEntry i).schedule.entryAt j = if i = j then none else s.schedule.entryAt j := by
  rw [State.freeEntry_some s i e hs, Schedule.free_entryAt]

theorem State.gone_freeEntry (s : State) {i : SlotIx} {e : Entry}
    (hs : s.schedule.entryAt i = some e) (j : SlotIx) :
    gone s (s.freeEntry i) j = decide (i = j) := by
  rw [gone, s.freeEntry_entryAt hs]
  by_cases hj : i = j
  · subst hj
    simp [hs]
  · simp [hj]

/-- Freeing the entry of a slot (R28). -/
theorem State.freeEntry_entriesFreed (s : State) (i : SlotIx) : EntriesFreed s (s.freeEntry i) := by
  cases hs : s.schedule.entryAt i with
  | none =>
    rw [State.freeEntry_none s i hs]
    exact EntriesFreed.unfreed (fun _ => rfl) rfl rfl
  | some e =>
    have hschedule : (s.freeEntry i).schedule = s.schedule.free i e.owner := by
      rw [State.freeEntry_some s i e hs]
    have hlines : (s.freeEntry i).lines = dropRefs e.owner e.actions s.lines := by
      rw [State.freeEntry_some s i e hs]
    have hentry := s.freeEntry_entryAt hs
    have hgone := s.gone_freeEntry hs
    exact {
      kept := fun j => by
        rw [hentry]
        by_cases hj : i = j
        · exact .inl (if_pos hj)
        · exact .inr (by rw [if_neg hj])
      usage := fun q => by
        rw [goneWeight_single _ hs hgone, hschedule, Schedule.free_usage, Table.get_upd]
        by_cases hq : e.owner = q
        · rw [if_pos hq, if_pos hq, hq]
        · rw [if_neg hq, if_neg hq]; rfl
      lines := fun l => by
        simp only [goneWeight_single _ hs hgone, hlines]
        simpa only [eq_comm, Entry.lines] using LineLost.dropRefs e.owner e.actions s.lines l
      dueList := by
        simp only [hgone, hschedule, Schedule.free_dueList]
        simp [eq_comm]
      waiting := by
        simp only [hgone, hschedule, Schedule.free_waiting]
        simp [eq_comm]
      quota := by rw [hschedule, Schedule.free_quota] }

/-- Freeing several entries (R28). -/
theorem State.freeAll_entriesFreed (s : State) (is : List SlotIx) :
    EntriesFreed s (s.freeAll is) := by
  unfold State.freeAll
  induction is generalizing s with
  | nil => exact EntriesFreed.unfreed (fun _ => rfl) rfl rfl
  | cons i is ih => exact (s.freeEntry_entriesFreed i).trans (ih _)

/-- What freeings leave is counted no longer, whatever else becomes of the lists and of the levels of the
lines afterwards (R33, R87, R89). -/
theorem EntriesFreed.uncounted {s t u : State} (h : EntriesFreed s t)
    (hslots : u.schedule.slots = t.schedule.slots) (husage : u.schedule.usage = t.schedule.usage)
    (hrefs : ∀ l, (u.lines.get l).refs = (t.lines.get l).refs)
    (hholder : ∀ l, (u.lines.get l).exclHolder = (t.lines.get l).exclHolder) : Uncounted s u := by
  have hgone : gone s u = gone s t := by
    unfold gone Schedule.entryAt
    rw [hslots]
  have hweight (w : Entry → Nat) : goneWeight w s u = goneWeight w s t := by
    unfold goneWeight
    rw [hgone]
  exact {
    usage := fun q => by rw [husage, h.usage, countP_freedOf, hweight]
    refs := fun l q => by rw [hrefs, (h.lines l).refs, freedRefs_eq_goneWeight, hweight]
    holders := fun l => by
      rw [hholder, (h.lines l).holder]
      cases (s.lines.get l).exclHolder with
      | none => rfl
      | some q => simp only [freedRefs_eq_goneWeight, hweight] }

end Sys2Proof.Machine

/-! PROOFS. The completion of a pass (R74). -/

namespace Sys2Proof.Machine

variable (s : State)

/-! ### What a completion is put together from -/

/-- The part once the STEP of a pass is answered (R18, R74). -/
def State.passAnswered (a : Pass) : State :=
  s.answer a.stepper.port a.stepper.ticket .ok
    (leBytes 6 a.oldNow ++ leBytes 6 a.newNow ++ wordBytes s.timebase.epoch
      ++ [natByte a.cancelled])

/-- The part once, after the answer, the cancel_pending entries are freed (R28, R74). -/
def State.passFreed (a : Pass) : State :=
  (s.passAnswered a).freeAll (s.schedule.slotsWhere Entry.cancelPending)

/-- The completion of a pass, from its parts (R74). -/
theorem State.completePass_eq {a : Pass} (h : s.schedule.pass = some a) :
    s.completePass =
      if (a.advanced || decide (s.timebase.state ≠ .stopped)) = true then
        ((s.passFreed a).mapSchedule fun c =>
          { c with pass := none, dueList := rebuildByKey c.dueAt c.dueList }).openSweep
      else
        (s.passFreed a).mapSchedule fun c =>
          { c with pass := none, dueList := rebuildByKey c.dueAt c.dueList } := by
  unfold State.completePass
  rw [h]
  rfl

/-- Without a pass there is no completion (log 14). -/
theorem State.completePass_noPass (h : s.schedule.pass = none) : s.completePass = s := by
  unfold State.completePass
  rw [h]

/-- Freeing entries opens no sweep. -/
theorem State.freeAll_sweep_none (is : List SlotIx) (h : s.schedule.sweep = none) :
    (s.freeAll is).schedule.sweep = none := by
  unfold State.freeAll
  induction is generalizing s with
  | nil => exact h
  | cons i is ih =>
    refine ih _ ?_
    cases hs : s.schedule.entryAt i with
    | none => rw [State.freeEntry_none s i hs, h]
    | some e => rw [State.freeEntry_some s i e hs, Schedule.free_sweep, h, Option.map_none]

/-- The freeings of a completion. -/
theorem State.passFreed_entriesFreed (a : Pass) : EntriesFreed s (s.passFreed a) := by
  have hanswer : EntriesFreed s (s.passAnswered a) := .unfreed (fun _ => rfl) rfl rfl
  exact hanswer.trans (State.freeAll_entriesFreed _ _)

/-- A cancel_pending entry stands in a slot (R73). -/
def Schedule.cancelPendingAt (c : Schedule) (i : SlotIx) : Bool :=
  ((c.entryAt i).map Entry.cancelPending).getD false

/-- A completion frees the entry of a slot where a cancel_pending one stands there. -/
theorem Schedule.freesAt_iff (c : Schedule) (i : SlotIx) :
    (i ∈ c.slotsWhere Entry.cancelPending ∧ (c.entryAt i).isSome = true) ↔
      c.cancelPendingAt i = true := by
  rw [Schedule.mem_slotsWhere, Schedule.cancelPendingAt]
  cases c.entryAt i with
  | none => simp
  | some e => simp

/-- The slots after the freeings of a completion (R28 step 5, R74). -/
theorem State.passFreed_slot (a : Pass) (i : SlotIx) :
    (s.passFreed a).schedule.slots.get i =
      if s.schedule.cancelPendingAt i = true then
        { tag := (s.schedule.slots.get i).tag + 1, entry := none }
      else s.schedule.slots.get i := by
  unfold State.passFreed
  rw [State.freeAll_slot _ _ _ (s.schedule.slotsWhere_nodup _), State.passAnswered,
    State.answer_schedule]
  simp only [Schedule.freesAt_iff]

/-- The entries that a completion frees are the cancel_pending ones (R74). -/
theorem State.gone_passFreed (a : Pass) (i : SlotIx) :
    gone s (s.passFreed a) i = s.schedule.cancelPendingAt i := by
  unfold gone
  rw [Schedule.entryAt.eq_1 (s.passFreed a).schedule, State.passFreed_slot]
  cases hc : s.schedule.cancelPendingAt i with
  | true =>
    have hsome : (s.schedule.entryAt i).isSome = true := by
      unfold Schedule.cancelPendingAt at hc
      cases hs : s.schedule.entryAt i with
      | none => rw [hs] at hc; exact nomatch hc
      | some e => rfl
    simp [hsome]
  | false =>
    change ((s.schedule.entryAt i).isSome && (s.schedule.entryAt i).isNone) = false
    cases s.schedule.entryAt i <;> rfl

/-- The schedule after a completion with no sweep open before it: the due list in order of due (R69), no
pass, and a sweep where Now moved or the timebase runs (R74). -/
theorem State.completePass_schedule {a : Pass} (h : s.schedule.pass = some a)
    (hsweep : s.schedule.sweep = none) :
    let c := (s.passFreed a).schedule
    let dueList := rebuildByKey c.dueAt c.dueList
    s.completePass.schedule =
      { c with
        pass := none
        dueList := dueList
        sweep :=
          if (a.advanced = true ∨ s.timebase.state ≠ .stopped)
              ∧ { c with dueList := dueList }.headDue s.timebase.now = true then some dueList
          else none } := by
  intro c dueList
  have hnone : c.sweep = none := State.freeAll_sweep_none _ _ hsweep
  have htime : (s.passFreed a).timebase = s.timebase := State.freeAll_timebase _ _
  rw [State.completePass_eq s h]
  by_cases hopen : a.advanced = true ∨ s.timebase.state ≠ .stopped
  · rw [if_pos (by simpa using hopen), State.openSweep_frame, State.openSweep_sweep_noPass _ rfl,
      State.mapSchedule_timebase, htime]
    simp only [hopen, true_and]
    rfl
  · rw [if_neg (by simpa using hopen)]
    simp only [hopen, false_and, if_false, ← hnone]
    rfl

/-- A completion leaves the lines as its freeings do. -/
theorem State.completePass_lines {a : Pass} (h : s.schedule.pass = some a) :
    s.completePass.lines = (s.passFreed a).lines := by
  rw [State.completePass_eq s h]
  split
  · rw [State.openSweep_lines]
    rfl
  · rfl

/-- A completion leaves the ports as its answer does. -/
theorem State.completePass_ports {a : Pass} (h : s.schedule.pass = some a) :
    s.completePass.ports = (s.passAnswered a).ports := by
  rw [State.completePass_eq s h]
  split
  · rw [State.openSweep_ports]
    exact State.freeAll_ports _ _
  · exact State.freeAll_ports _ _

/-- The port interfaces after the answer of a completion (R168). -/
theorem State.passAnswered_port (a : Pass) (q : Port) :
    (s.passAnswered a).ports.get q =
      (s.ports.get q).stopAnswered q [a.stepper] .ok
        (leBytes 6 a.oldNow ++ leBytes 6 a.newNow ++ wordBytes s.timebase.epoch
          ++ [natByte a.cancelled]) :=
  foldl_answer_port [a.stepper] .ok _ s q

/-- Settles O41: the answer, the freeings, the rebuilt due list and the sweep of a completion. -/
theorem passCompletes : Obligations.PassCompletes := by
  unfold Obligations.PassCompletes
  refine ⟨fun s hr hpass => ?_, fun s a hr hpass hsweep => ?_⟩
  · refine congrArg Host.Outcome.next ((s.event_taken _ hr).trans ?_)
    exact s.noted.completePass_noPass hpass
  intro gone
  have hnoted : EntriesFreed s s.noted := .unfreed (fun _ => rfl) rfl rfl
  have hfreed : EntriesFreed s (s.noted.passFreed a) :=
    hnoted.trans (s.noted.passFreed_entriesFreed a)
  have hgone : Machine.gone s (s.noted.passFreed a) = gone := funext (s.noted.gone_passFreed a)
  have hschedule := s.noted.completePass_schedule hpass hsweep
  have hlines := s.noted.completePass_lines hpass
  have hports := s.noted.completePass_ports hpass
  generalize hc : (s.noted.passFreed a).schedule = c at hschedule
  generalize ht : s.noted.completePass = t at hschedule hlines hports
  have hdueAt : t.schedule.dueAt = c.dueAt := by rw [hschedule]; rfl
  have hdue : t.schedule.dueList = rebuildByKey c.dueAt c.dueList := by rw [hschedule]
  have hkept : c.dueList = s.schedule.dueList.filter fun i => !gone i := by
    rw [← hc, hfreed.dueList, hgone]
  refine ⟨t, congrArg Host.Outcome.next ((s.event_taken _ hr).trans ht), ?_, ?_, ?_, ?_, ?_,
    fun i => ?_, ?_, ?_, fun j => ?_, ?_, fun q => ?_, fun l => ?_⟩
  · rw [← ht]
    exact s.noted.completePass_frame
  · rw [hschedule]
  · rw [hschedule, ← hc]
    exact hfreed.quota
  · rw [hschedule, ← hgone, ← hfreed.waiting, hc]
  · refine hfreed.uncounted ?_ ?_ (fun l => ?_) fun l => ?_
    · rw [hschedule, hc]
    · rw [hschedule, hc]
    · rw [hlines]
    · rw [hlines]
  · rw [hschedule, ← hc]
    exact s.noted.passFreed_slot a i
  · rw [hdue, ← hkept]
    exact rebuildByKey_perm _ _
  · rw [hdue, hdueAt]
    exact rebuildByKey_ordered _ _
  · rw [hdue, hdueAt, rebuildByKey_stable, hkept, List.filter_filter]
    simp only [Bool.and_comm]
  · rw [hschedule]
    rfl
  · rw [hports, State.passAnswered_port, PortIf.stopAnswered]
    simp only [List.mem_singleton, eq_comm (a := a.stepper)]
    rfl
  · rw [hlines]
    exact (hfreed.lines l).frame

end Sys2Proof.Machine

/-! PROOFS. A step of the timebase (R16, R17), and the step policies of the entries (R63 to R66). -/

namespace Sys2Proof.Machine

variable (s : State)

/-! ### The policy of one entry (R63 to R66) -/

/-- Why a step frees an entry that has its due: its policy says, alike for SCHEDULED and HELD. -/
theorem stepReason_active (delta : Int) (e : Entry) (h : e.state ≠ .waiting) :
    stepReason delta e =
      match e.stepPolicy with
      | .keep => none
      | .drop => some .step
      | .shift =>
        if 0 ≤ (e.due.getD 0 : Int) + delta ∧ (e.due.getD 0 : Int) + delta ≤ maxNow then none
        else some .stepRange := by
  unfold stepReason
  cases hs : e.state with
  | waiting => exact absurd hs h
  | scheduled => cases e.stepPolicy <;> rfl
  | held => cases e.stepPolicy <;> rfl

/-- A WAITING entry meets no step policy. -/
theorem stepReason_waiting (delta : Int) (e : Entry) (h : e.state = .waiting) :
    stepReason delta e = none := by
  unfold stepReason
  rw [h]

/-- The policy that an entry with a due meets, alike for SCHEDULED and HELD. -/
theorem meetPolicy_active (delta : Int) (acc : State × Nat) (i : SlotIx) (e : Entry)
    (he : acc.1.schedule.entryAt i = some e) (h : e.state ≠ .waiting) :
    meetPolicy delta acc i =
      match e.stepPolicy with
      | .keep => acc
      | .drop => (acc.1.freeAndTell i .step, acc.2 + 1)
      | .shift =>
        if 0 ≤ (e.due.getD 0 : Int) + delta ∧ (e.due.getD 0 : Int) + delta ≤ maxNow then
          (acc.1.mapSchedule fun c =>
            c.mapEntry i fun x => { x with due := some ((e.due.getD 0 : Int) + delta).toNat }, acc.2)
        else (acc.1.freeAndTell i .stepRange, acc.2 + 1) := by
  have hdue : acc.1.schedule.dueAt i = e.due.getD 0 := by
    rw [Schedule.dueAt, he, Option.bind_some]
  unfold meetPolicy
  rw [he, hdue]
  cases hs : e.state with
  | waiting => exact absurd hs h
  | scheduled => dsimp only; rw [hs] <;> rfl
  | held => dsimp only; rw [hs] <;> rfl

/-- An entry that its policy frees is freed, told and counted. -/
theorem meetPolicy_frees (delta : Int) (acc : State × Nat) (i : SlotIx) (e : Entry)
    (r : CancelReason) (he : acc.1.schedule.entryAt i = some e) (hr : stepReason delta e = some r) :
    meetPolicy delta acc i = (acc.1.freeAndTell i r, acc.2 + 1) := by
  have hactive : e.state ≠ .waiting := fun hw => by
    rw [stepReason_waiting delta e hw] at hr
    exact nomatch hr
  rw [meetPolicy_active delta acc i e he hactive]
  rw [stepReason_active delta e hactive] at hr
  cases hp : e.stepPolicy with
  | keep => rw [hp] at hr; exact nomatch hr
  | drop =>
    rw [hp] at hr
    rw [← Option.some.inj hr]
  | shift =>
    rw [hp] at hr
    dsimp only at hr ⊢
    split at hr
    · exact nomatch hr
    · next hrange => rw [if_neg hrange, ← Option.some.inj hr]

/-- The part with one slot as a step leaves it. -/
def State.stepSlot (delta : Int) (i : SlotIx) : State :=
  s.mapSchedule fun c => { c with slots := c.slots.upd i (steppedSlot delta) }

/-- A change of one entry that makes its slot what a step makes it. -/
theorem State.stepSlot_of_mapEntry (delta : Int) (i : SlotIx) (f : Entry → Entry)
    (h : steppedSlot delta (s.schedule.slots.get i) =
      { s.schedule.slots.get i with entry := (s.schedule.entryAt i).map f }) :
    s.stepSlot delta i = s.mapSchedule fun c => c.mapEntry i f := by
  have hslots : s.schedule.slots.upd i (steppedSlot delta) = (s.schedule.mapEntry i f).slots := by
    change s.schedule.slots.set i _ = s.schedule.slots.set i _
    rw [h]
    rfl
  unfold State.stepSlot State.mapSchedule
  dsimp only
  rw [hslots]
  rfl

/-- A slot that a step leaves as it is. -/
theorem State.stepSlot_of_same (delta : Int) (i : SlotIx)
    (h : steppedSlot delta (s.schedule.slots.get i) = s.schedule.slots.get i) :
    s.stepSlot delta i = s := by
  have hslots : s.schedule.slots.upd i (steppedSlot delta) = s.schedule.slots := by
    change s.schedule.slots.set i _ = _
    rw [h, Table.set_get_self]
  unfold State.stepSlot State.mapSchedule
  dsimp only
  rw [hslots]

/-- An empty slot after a step. -/
theorem steppedSlot_empty (delta : Int) (sl : Slot) (h : sl.entry = none) :
    steppedSlot delta sl = sl := by
  unfold steppedSlot
  rw [h]

/-- A slot after a step that frees its entry. -/
theorem steppedSlot_freed (delta : Int) (sl : Slot) (e : Entry) (r : CancelReason)
    (h : sl.entry = some e) (hr : stepReason delta e = some r) :
    steppedSlot delta sl = { tag := sl.tag + 1, entry := none } := by
  unfold steppedSlot
  rw [h]
  dsimp only
  rw [hr]

/-- A slot after a step that keeps its entry: SHIFT moves the due. -/
theorem steppedSlot_kept (delta : Int) (sl : Slot) (e : Entry) (h : sl.entry = some e)
    (hr : stepReason delta e = none) :
    steppedSlot delta sl =
      if e.state ≠ .waiting ∧ e.stepPolicy = .shift then
        { sl with entry := some { e with due := some ((e.due.getD 0 : Int) + delta).toNat } }
      else sl := by
  unfold steppedSlot
  rw [h]
  dsimp only
  rw [hr]

/-- A slot whose entry no policy frees is left as a step leaves it, and nothing else happens. -/
theorem meetPolicy_keeps (delta : Int) (acc : State × Nat) (i : SlotIx)
    (h : ∀ e, acc.1.schedule.entryAt i = some e → stepReason delta e = none) :
    meetPolicy delta acc i = (acc.1.stepSlot delta i, acc.2) := by
  cases he : acc.1.schedule.entryAt i with
  | none =>
    rw [State.stepSlot_of_same _ _ _ (steppedSlot_empty _ _ he), meetPolicy, he]
  | some e =>
    have hreason := h e he
    have hslot := steppedSlot_kept delta _ e he hreason
    by_cases hactive : e.state = .waiting
    · rw [if_neg fun c => c.1 hactive] at hslot
      rw [State.stepSlot_of_same _ _ _ hslot, meetPolicy, he]
      dsimp only
      rw [hactive]
    · rw [meetPolicy_active delta acc i e he hactive]
      rw [stepReason_active delta e hactive] at hreason
      cases hp : e.stepPolicy with
      | keep =>
        rw [if_neg fun c => StepPolicy.noConfusion (hp.symm.trans c.2)] at hslot
        rw [State.stepSlot_of_same _ _ _ hslot]
      | drop => rw [hp] at hreason; exact nomatch hreason
      | shift =>
        rw [hp] at hreason
        rw [if_pos ⟨hactive, hp⟩] at hslot
        dsimp only at hreason ⊢
        split at hreason
        · next hrange =>
          rw [if_pos hrange, State.stepSlot_of_mapEntry]
          rw [hslot, he]
          rfl
        · exact nomatch hreason

/-! ### What one policy leaves (R28, R29, R63) -/

/-- Freeing an entry and telling its owner leaves what freeing it leaves (R28). -/
theorem State.freeAndTell_entriesFreed (i : SlotIx) (r : CancelReason) :
    EntriesFreed s (s.freeAndTell i r) := by
  obtain ⟨hschedule, hlines⟩ := s.freeAndTell_freed i r
  have hsame : EntriesFreed (s.freeEntry i) (s.freeAndTell i r) :=
    .unfreed (fun j => by rw [hschedule]) (by rw [hschedule]) hlines
  exact (s.freeEntry_entriesFreed i).trans hsame

/-- The news of an entry that is freed for a cause its owner did not request (R29). -/
def cancelNews (s : State) (r : CancelReason) (i : SlotIx) (e : Entry) (q : Port) :
    Option NoticeBody :=
  if e.owner = q ∧ e.orphaned = false ∧ e.cancelPending = false then
    some (.entryCancelled (s.schedule.handleAt i) e.label r)
  else none

/-- Who is told that an entry has been freed: its owner, unless it is orphaned or cancel_pending (R29). -/
theorem State.freeAndTell_told (i : SlotIx) (r : CancelReason) (e : Entry)
    (he : s.schedule.entryAt i = some e) :
    Told s (s.freeAndTell i r) fun q => (cancelNews s r i e q).toList := by
  have hfree : Told s (s.freeEntry i) fun _ => [] := Told.none (s.freeEntry_notices i)
  have hports (q : Port) : (s.freeEntry i).attached q = s.attached q :=
    State.attached_congr (s.freeEntry_ports i) q
  unfold State.freeAndTell
  rw [he]
  dsimp only
  unfold State.postCancelled cancelNews
  by_cases hquiet : (e.orphaned || e.cancelPending) = true
  · rw [if_pos hquiet]
    refine hfree.congr fun q _ => ?_
    rw [if_neg]
    · rfl
    · rintro ⟨_, ho, hc⟩
      rw [ho, hc] at hquiet
      exact Bool.false_ne_true hquiet
  · rw [if_neg hquiet]
    refine (hfree.post e.owner _ hports).congr fun q _ => ?_
    rw [Bool.not_eq_true, Bool.or_eq_false_iff] at hquiet
    by_cases hq : e.owner = q
    · rw [if_pos hq, if_pos ⟨hq, hquiet⟩]
      rfl
    · rw [if_neg hq, if_neg fun c => hq c.1]
      rfl

/-- The news of a step to the owner of the entry of a slot (R29, R63 to R66). -/
def stepNews (delta : Int) (s : State) (q : Port) (i : SlotIx) : Option NoticeBody :=
  match s.schedule.entryAt i with
  | none => none
  | some e =>
    if e.owner = q ∧ e.orphaned = false ∧ e.cancelPending = false then
      (stepReason delta e).map (.entryCancelled (s.schedule.handleAt i) e.label)
    else none

/-- A step frees the entry of a slot for a reason, or the slot holds none that it frees. -/
theorem Schedule.stepReason_cases (c : Schedule) (delta : Int) (i : SlotIx) :
    (∃ e r, c.entryAt i = some e ∧ stepReason delta e = some r)
      ∨ ∀ e, c.entryAt i = some e → stepReason delta e = none := by
  refine or_iff_not_imp_left.mpr fun hnot e he => ?_
  exact Option.eq_none_iff_forall_ne_some.mpr fun r hr => hnot ⟨e, r, he, hr⟩

/-- A step keeps the owner and the lines of an entry that it does not free. -/
theorem steppedSlot_owner_lines (delta : Int) (sl : Slot)
    (h : ∀ e, sl.entry = some e → stepReason delta e = none) :
    (steppedSlot delta sl).entry.map (fun e => (e.owner, e.lines)) =
      sl.entry.map fun e => (e.owner, e.lines) := by
  cases he : sl.entry with
  | none => rw [steppedSlot_empty delta sl he, he]
  | some e =>
    rw [steppedSlot_kept delta sl e he (h e he)]
    split
    · rfl
    · rw [he]

/-- A slot as one policy leaves it, and every other slot (R63 to R66). -/
theorem meetPolicy_slot (delta : Int) (acc : State × Nat) (i j : SlotIx) :
    (meetPolicy delta acc i).1.schedule.slots.get j =
      if i = j then steppedSlot delta (acc.1.schedule.slots.get j)
      else acc.1.schedule.slots.get j := by
  rcases acc.1.schedule.stepReason_cases delta i with ⟨e, r, he, hr⟩ | hkeeps
  · rw [meetPolicy_frees delta acc i e r he hr, (acc.1.freeAndTell_freed i r).1,
      State.freeEntry_slot]
    by_cases hj : i = j
    · subst hj
      rw [if_pos ⟨rfl, by rw [he]; rfl⟩, if_pos rfl, steppedSlot_freed delta _ e r he hr]
    · rw [if_neg fun c => hj c.1, if_neg hj]
  · rw [meetPolicy_keeps delta acc i hkeeps, State.stepSlot, State.mapSchedule_schedule,
      Table.get_upd]
    split
    · next hj => rw [hj]
    · rfl

/-- A policy that frees no entry keeps the owners and the lines. -/
theorem State.stepSlot_owner_lines (delta : Int) (i j : SlotIx)
    (h : ∀ e, s.schedule.entryAt i = some e → stepReason delta e = none) :
    ((s.stepSlot delta i).schedule.entryAt j).map (fun e => (e.owner, e.lines)) =
      (s.schedule.entryAt j).map fun e => (e.owner, e.lines) := by
  unfold Schedule.entryAt
  rw [State.stepSlot, State.mapSchedule_schedule, Table.get_upd]
  split
  · next hj => rw [← hj, steppedSlot_owner_lines delta _ h]
  · rfl

/-- What policies leave from `s`, with the count `n` (R63): the lists, the usage and the references (R28),
how many entries are counted as cancelled, and what is told (R29). -/
structure PoliciesMet (s : State) (n : Nat) (acc : State × Nat) (news : Port → List NoticeBody) :
    Prop where
  freed : EntriesFreed s acc.1
  count : acc.2 = n + goneWeight (fun _ => 1) s acc.1
  told : Told s acc.1 news

/-- What one policy leaves. -/
theorem meetPolicy_leaves (delta : Int) (acc : State × Nat) (i : SlotIx) :
    PoliciesMet acc.1 acc.2 (meetPolicy delta acc i)
      fun q => (stepNews delta acc.1 q i).toList := by
  rcases acc.1.schedule.stepReason_cases delta i with ⟨e, r, he, hr⟩ | hkeeps
  · rw [meetPolicy_frees delta acc i e r he hr]
    have hgone : gone acc.1 (acc.1.freeAndTell i r) = gone acc.1 (acc.1.freeEntry i) := by
      unfold gone
      rw [(acc.1.freeAndTell_freed i r).1]
    have hone : goneWeight (fun _ => 1) acc.1 (acc.1.freeAndTell i r) = 1 :=
      goneWeight_single _ he fun j => by rw [hgone, State.gone_freeEntry _ he]
    refine ⟨State.freeAndTell_entriesFreed _ _ _, by rw [hone], ?_⟩
    refine (acc.1.freeAndTell_told i r e he).congr fun q _ => ?_
    rw [stepNews, he]
    dsimp only
    rw [hr, Option.map_some, cancelNews]
  · rw [meetPolicy_keeps delta acc i hkeeps]
    have hentries (j : SlotIx) := acc.1.stepSlot_owner_lines delta i j hkeeps
    have hzero : goneWeight (fun _ => 1) acc.1 (acc.1.stepSlot delta i) = 0 :=
      goneWeight_eq_zero _ fun j => gone_eq_false (hentries j)
    refine ⟨.unfreed hentries rfl rfl, by rw [hzero]; rfl, (Told.none rfl).congr fun q _ => ?_⟩
    unfold stepNews
    cases he : acc.1.schedule.entryAt i with
    | none => rfl
    | some e =>
      dsimp only
      rw [hkeeps e he, Option.map_none, ite_self, Option.toList_none]

/-! ### All policies, in slot order (R63) -/

/-- A policy leaves the timebase and the ports. -/
theorem meetPolicy_timebase (delta : Int) (acc : State × Nat) (i : SlotIx) :
    (meetPolicy delta acc i).1.timebase = acc.1.timebase := by
  rw [meetPolicy_frame]

theorem meetPolicy_ports (delta : Int) (acc : State × Nat) (i : SlotIx) :
    (meetPolicy delta acc i).1.ports = acc.1.ports := by
  rw [meetPolicy_frame]

theorem foldl_meetPolicy_timebase (delta : Int) (is : List SlotIx) (acc : State × Nat) :
    (is.foldl (meetPolicy delta) acc).1.timebase = acc.1.timebase := by
  induction is generalizing acc with
  | nil => rfl
  | cons i is ih => rw [List.foldl_cons, ih, meetPolicy_timebase]

/-- The slots after the policies of some different slots (R63 to R66). -/
theorem foldl_meetPolicy_slot (delta : Int) (is : List SlotIx) (acc : State × Nat) (j : SlotIx)
    (hn : is.Nodup) :
    (is.foldl (meetPolicy delta) acc).1.schedule.slots.get j =
      if j ∈ is then steppedSlot delta (acc.1.schedule.slots.get j)
      else acc.1.schedule.slots.get j := by
  induction is generalizing acc with
  | nil => rfl
  | cons i is ih =>
    obtain ⟨hi, hn⟩ := List.nodup_cons.mp hn
    rw [List.foldl_cons, ih _ hn, meetPolicy_slot]
    by_cases hj : i = j
    · subst hj
      simp only [hi, if_false, if_true, List.mem_cons, true_or]
    · have hj' : j ≠ i := fun e => hj e.symm
      simp only [hj, hj', if_false, List.mem_cons, false_or]

/-- The news of a step to the owner of a slot depends on that slot alone. -/
theorem stepNews_congr (delta : Int) {s t : State} {i : SlotIx}
    (h : t.schedule.slots.get i = s.schedule.slots.get i) (q : Port) :
    stepNews delta t q i = stepNews delta s q i := by
  unfold stepNews Schedule.entryAt Schedule.handleAt
  rw [h]

/-- What the policies of some different slots leave, and the notices in the order of the slots (R63). -/
theorem foldl_meetPolicy_leaves (delta : Int) (is : List SlotIx) (acc : State × Nat)
    (hn : is.Nodup) :
    PoliciesMet acc.1 acc.2 (is.foldl (meetPolicy delta) acc)
      fun q => is.filterMap (stepNews delta acc.1 q) := by
  induction is generalizing acc with
  | nil =>
    have hfreed : EntriesFreed acc.1 acc.1 := .unfreed (fun _ => rfl) rfl rfl
    have hzero : goneWeight (fun _ => 1) acc.1 acc.1 = 0 :=
      goneWeight_eq_zero _ fun i => gone_eq_false rfl
    exact ⟨hfreed, by rw [List.foldl_nil, hzero, Nat.add_zero], Told.none rfl⟩
  | cons i is ih =>
    obtain ⟨hi, hn⟩ := List.nodup_cons.mp hn
    have hfirst := meetPolicy_leaves delta acc i
    have hrest := ih (meetPolicy delta acc i) hn
    have htime := foldl_meetPolicy_timebase delta is (meetPolicy delta acc i)
    rw [List.foldl_cons]
    refine ⟨hfirst.freed.trans hrest.freed, ?_, ?_⟩
    · rw [hrest.count, hfirst.count,
        goneWeight_trans .one hfirst.freed.kept hrest.freed.kept, Nat.add_assoc]
    · refine (hfirst.told.trans hrest.told (congrArg _ htime) (congrArg _ htime)
        (State.attached_congr (meetPolicy_ports delta acc i))).congr fun q _ => ?_
      have hsame : is.filterMap (stepNews delta (meetPolicy delta acc i).1 q) =
          is.filterMap (stepNews delta acc.1 q) := by
        refine List.filterMap_congr fun j hj => stepNews_congr delta ?_ q
        rw [meetPolicy_slot, if_neg fun e : i = j => hi (e ▸ hj)]
      rw [hsame, List.filterMap_cons]
      cases stepNews delta acc.1 q i <;> rfl

end Sys2Proof.Machine

/-! PROOFS. The obligation of STEP (R16, R17, R63). -/

namespace Sys2Proof.Machine

variable (s : State)

/-! ### What a STEP asks for (R16) -/

/-- The Now that a STEP asks for, in or out of its range (R16). -/
def steppedNow (pl : List Byte) (old : Nat) : Int :=
  if pl.getD 0 0 = 0 then (natAt pl 2 6 : Int)
  else if pl.getD 1 0 = 0 then (old : Int) + natAt pl 2 6
  else (old : Int) - natAt pl 2 6

/-- A STEP whose fields lie in their ranges is read, and leads to the Now it asks for where that lies in
the range of Now (R16 check 4). -/
theorem decodeStep_some (pl : List Byte) (old : Nat) (h : ¬ badField .step pl) :
    ∃ target, decodeStep pl = some target
      ∧ target.newNow old =
        if 0 ≤ steppedNow pl old ∧ steppedNow pl old ≤ maxNow then
          some (steppedNow pl old).toNat
        else none := by
  have hgood : ¬ (1 < (byteAt pl 0).toNat
      ∨ ((byteAt pl 0).toNat = 1 ∧ 1 < (byteAt pl 1).toNat)) := h
  unfold decodeStep
  by_cases h0 : byteAt pl 0 = 0
  · have hnow : steppedNow pl old = natAt pl 2 6 := if_pos h0
    rw [if_pos h0, hnow]
    refine ⟨_, rfl, ?_⟩
    simp only [StepTarget.newNow, Int.natCast_nonneg, Nat.cast_le, true_and, Int.toNat_natCast]
  · have hb0 : (byteAt pl 0).toNat = 1 := by
      have hne : (byteAt pl 0).toNat ≠ 0 := fun c => h0 (eq_of_toNat_byte c)
      omega
    have h1 : byteAt pl 0 = 1 := eq_of_toNat_byte hb0
    rw [if_neg h0, if_pos h1]
    by_cases hs0 : byteAt pl 1 = 0
    · have hnow : steppedNow pl old = (old : Int) + natAt pl 2 6 := (if_neg h0).trans (if_pos hs0)
      rw [if_pos hs0, hnow]
      exact ⟨_, rfl, rfl⟩
    · have hb1 : (byteAt pl 1).toNat = 1 := by
        have hne : (byteAt pl 1).toNat ≠ 0 := fun c => hs0 (eq_of_toNat_byte c)
        omega
      have hnow : steppedNow pl old = (old : Int) + -(natAt pl 2 6 : Int) :=
        ((if_neg h0).trans (if_neg hs0)).trans Int.sub_eq_add_neg
      have hs1 : byteAt pl 1 = 1 := eq_of_toNat_byte hb1
      rw [if_neg hs0, if_pos hs1, hnow]
      exact ⟨_, rfl, rfl⟩

/-! ### What the schedule is told (R52, R63) -/

theorem indices_nodup (n : Nat) : (indices n).Nodup := List.nodup_finRange n

theorem mem_indices {n : Nat} (i : Fin n) : i ∈ indices n := List.mem_finRange i

/-- The part once every entry has met its policy, with the count of the pass (R63). -/
def State.policiesMet (oldNow newNow : Nat) : State × Nat :=
  (indices 64).foldl (meetPolicy ((newNow : Int) - (oldNow : Int))) (s, 0)

theorem State.policiesMet_leaves (oldNow newNow : Nat) :
    PoliciesMet s 0 (s.policiesMet oldNow newNow) fun q =>
      (indices 64).filterMap (stepNews ((newNow : Int) - (oldNow : Int)) s q) :=
  foldl_meetPolicy_leaves _ _ (s, 0) (indices_nodup 64)

theorem State.policiesMet_timebase (oldNow newNow : Nat) :
    (s.policiesMet oldNow newNow).1.timebase = s.timebase := by
  unfold State.policiesMet
  rw [foldl_meetPolicy_timebase]

/-- Every slot after the policies (R63 to R66). -/
theorem State.policiesMet_slot (oldNow newNow : Nat) (i : SlotIx) :
    (s.policiesMet oldNow newNow).1.schedule.slots.get i =
      steppedSlot ((newNow : Int) - (oldNow : Int)) (s.schedule.slots.get i) := by
  unfold State.policiesMet
  rw [foldl_meetPolicy_slot _ _ _ _ (indices_nodup 64), if_pos (mem_indices i)]

/-- A step closes the sweep and begins the pass (R52, R63). -/
theorem State.scheduleStep_eq (w : Waiter) (oldNow newNow : Nat) :
    s.scheduleStep w oldNow newNow =
      (s.policiesMet oldNow newNow).1.mapSchedule fun c =>
        { c with
          sweep := none
          pass := some
            { stepper := w, oldNow := oldNow, newNow := newNow,
              cancelled := (s.policiesMet oldNow newNow).2, advanced := false, age := 0 } } := rfl

/-- No policy frees a WAITING entry (R63). -/
theorem State.not_gone_of_waiting (oldNow newNow : Nat) (i : SlotIx) (e : Entry)
    (he : s.schedule.entryAt i = some e) (hw : e.state = .waiting) :
    gone s (s.policiesMet oldNow newNow).1 i = false := by
  refine gone_eq_false ?_
  have hslot := s.policiesMet_slot oldNow newNow i
  unfold Schedule.entryAt at he ⊢
  rw [hslot, steppedSlot_kept _ _ e he (stepReason_waiting _ e hw), if_neg fun c => c.1 hw]

/-- The slots once the schedule has been told of a step are those that the policies leave. -/
theorem State.scheduleStep_slots (w : Waiter) (oldNow newNow : Nat) :
    (s.scheduleStep w oldNow newNow).schedule.slots =
      (s.policiesMet oldNow newNow).1.schedule.slots := by
  rw [State.scheduleStep_eq, State.mapSchedule_schedule]

/-- The entries that a step frees are those that its policies free. -/
theorem State.gone_scheduleStep (w : Waiter) (oldNow newNow : Nat) :
    gone s (s.scheduleStep w oldNow newNow) = gone s (s.policiesMet oldNow newNow).1 := by
  unfold gone Schedule.entryAt
  rw [State.scheduleStep_slots]

/-- The schedule once it has been told of a step (R63): the slots and the usage apart, the due list keeps
the entries that are left, and the waiting lists stand. -/
theorem State.scheduleStep_schedule (w : Waiter) (oldNow newNow : Nat)
    (hdue : ∀ i ∈ s.schedule.dueList, (s.schedule.entryAt i).isSome = true)
    (hwaiting : ∀ (n : InputIx), ∀ i ∈ s.schedule.waiting.get n,
      ∃ e, s.schedule.entryAt i = some e ∧ e.state = .waiting) :
    (s.scheduleStep w oldNow newNow).schedule =
      { s.schedule with
        slots := (s.scheduleStep w oldNow newNow).schedule.slots
        usage := (s.scheduleStep w oldNow newNow).schedule.usage
        dueList := s.schedule.dueList.filter fun i =>
          ((s.scheduleStep w oldNow newNow).schedule.entryAt i).isSome
        sweep := none
        pass := some
          { stepper := w, oldNow := oldNow, newNow := newNow,
            cancelled := (indices 64).countP (gone s (s.scheduleStep w oldNow newNow)),
            advanced := false, age := 0 } } := by
  have hmet := s.policiesMet_leaves oldNow newNow
  have hgone := s.gone_scheduleStep w oldNow newNow
  have hcount : (s.policiesMet oldNow newNow).2 =
      (indices 64).countP (gone s (s.scheduleStep w oldNow newNow)) := by
    rw [hgone, countP_gone, hmet.count, Nat.zero_add]
  have hlist : (s.policiesMet oldNow newNow).1.schedule.dueList =
      s.schedule.dueList.filter fun i =>
        ((s.scheduleStep w oldNow newNow).schedule.entryAt i).isSome := by
    rw [hmet.freed.dueList, ← hgone]
    refine List.filter_congr fun i hi => ?_
    rw [gone, hdue i hi, Bool.true_and, Option.not_isNone]
  have hwait : (s.policiesMet oldNow newNow).1.schedule.waiting = s.schedule.waiting := by
    rw [hmet.freed.waiting]
    refine Table.ext_get fun n => ?_
    rw [Table.get_map]
    refine List.filter_eq_self.mpr fun i hi => ?_
    obtain ⟨e, he, hw⟩ := hwaiting n i hi
    rw [s.not_gone_of_waiting oldNow newNow i e he hw]
    rfl
  rw [← hlist, ← hcount, State.scheduleStep_eq, State.mapSchedule_schedule]
  dsimp only
  rw [hwait, hmet.freed.quota]

/-! ### The whole of a step (R17) -/

/-- The part once a step has set Now and the epoch, ended the slew and told the other ports (R17). -/
def State.stepAnnounced (w : Waiter) (newNow : Nat) : State :=
  ((s.mapTime fun t => { t with now := newNow, epoch := t.epoch + 1 }).endSlew .stepped).postWhere
    (fun q => q ≠ w.port)
    (.timeStepped w.port s.timebase.now newNow (s.timebase.epoch + 1))

/-- A step, from its parts (R17). -/
theorem State.takeStep_eq (w : Waiter) (newNow : Nat) :
    s.takeStep w newNow =
      { (s.stepAnnounced w newNow).scheduleStep w s.timebase.now newNow with
        lines := ((s.stepAnnounced w newNow).scheduleStep w s.timebase.now newNow).lines.map
          (Line.shiftPulse s.timebase.now newNow) } := by
  unfold State.takeStep State.stepAnnounced
  dsimp only
  rw [State.endSlew_timebase, State.mapTime_timebase]

theorem State.stepAnnounced_timebase (w : Waiter) (newNow : Nat) :
    (s.stepAnnounced w newNow).timebase =
      { s.timebase with now := newNow, epoch := s.timebase.epoch + 1, slew := none } := by
  rw [State.stepAnnounced, State.postWhere_timebase, State.endSlew_timebase]
  rfl

theorem State.stepAnnounced_schedule (w : Waiter) (newNow : Nat) :
    (s.stepAnnounced w newNow).schedule = s.schedule := by
  rw [State.stepAnnounced, State.postWhere_schedule, State.endSlew_schedule]
  rfl

theorem State.stepAnnounced_lines (w : Waiter) (newNow : Nat) :
    (s.stepAnnounced w newNow).lines = s.lines := by
  rw [State.stepAnnounced, State.postWhere_lines, State.endSlew_lines]
  rfl

theorem State.stepAnnounced_ports (w : Waiter) (newNow : Nat) :
    (s.stepAnnounced w newNow).ports = s.ports := by
  rw [State.stepAnnounced, State.postWhere_ports, State.endSlew_ports]
  rfl

/-- Who is told of a step: the holder that its slew has ended, then the other ports of the step itself
(R15, R17). -/
theorem State.stepAnnounced_told (w : Waiter) (newNow : Nat) :
    Told s (s.stepAnnounced w newNow) fun q =>
      (match s.timebase.slew with
        | some sl => if s.holder = some q then [.slewEnded .stepped sl.remaining] else []
        | none => [])
      ++ (if q = w.port then []
          else [.timeStepped w.port s.timebase.now newNow (s.timebase.epoch + 1)]) := by
  have hslew := (State.endSlew_told
    (s.mapTime fun t => { t with now := newNow, epoch := t.epoch + 1 }) .stepped).of_start (s := s)
    rfl (s.attached_mapTime _)
  have hports (q : Port) : ((s.mapTime fun t =>
      { t with now := newNow, epoch := t.epoch + 1 }).endSlew .stepped).attached q = s.attached q :=
    (State.attached_congr (State.endSlew_ports _ _) q).trans (s.attached_mapTime _ q)
  refine (hslew.postWhere _ _ hports).congr fun q _ => ?_
  by_cases hq : q = w.port
  · rw [if_pos hq, List.append_nil, if_neg (by simpa using hq)]
    rfl
  · rw [if_neg hq, if_pos (by simpa using hq)]
    rfl

/-- The policies of a step tell the owners of the entries that they free, in slot order (R29, R63). -/
theorem State.takeStep_told (w : Waiter) (newNow : Nat) :
    Told s (s.takeStep w newNow) fun q =>
      ((match s.timebase.slew with
        | some sl => if s.holder = some q then [.slewEnded .stepped sl.remaining] else []
        | none => [])
      ++ (if q = w.port then []
          else [.timeStepped w.port s.timebase.now newNow (s.timebase.epoch + 1)]))
      ++ (indices 64).filterMap (stepNews ((newNow : Int) - (s.timebase.now : Int)) s q) := by
  have hmet := ((s.stepAnnounced w newNow).policiesMet_leaves s.timebase.now newNow).told
  have htime : (s.takeStep w newNow).timebase = (s.stepAnnounced w newNow).timebase := by
    rw [State.takeStep_timebase, State.stepAnnounced_timebase]
  have hmettime : (s.takeStep w newNow).timebase =
      ((s.stepAnnounced w newNow).policiesMet s.timebase.now newNow).1.timebase :=
    htime.trans (State.policiesMet_timebase _ _ _).symm
  have hnotices : (s.takeStep w newNow).notices =
      ((s.stepAnnounced w newNow).policiesMet s.timebase.now newNow).1.notices := by
    rw [State.takeStep_eq, State.scheduleStep_eq, State.mapSchedule_notices]
  have hnews (q : Port) (i : SlotIx) :
      stepNews ((newNow : Int) - (s.timebase.now : Int)) (s.stepAnnounced w newNow) q i =
        stepNews ((newNow : Int) - (s.timebase.now : Int)) s q i :=
    stepNews_congr _ (by rw [State.stepAnnounced_schedule]) q
  refine ((s.stepAnnounced_told w newNow).trans
    (hmet.same hnotices (congrArg _ hmettime) (congrArg _ hmettime))
    (congrArg _ htime) (congrArg _ htime)
    (State.attached_congr (s.stepAnnounced_ports w newNow))).congr fun q _ => ?_
  rw [List.filterMap_congr fun i _ => hnews q i]

/-- The schedule after a step is the one that has been told of it, whatever was announced before. -/
theorem State.takeStep_schedule (w : Waiter) (newNow : Nat) :
    (s.takeStep w newNow).schedule =
      ((s.stepAnnounced w newNow).scheduleStep w s.timebase.now newNow).schedule := by
  rw [State.takeStep_eq]

/-- What a step frees (R28, R63 to R66). -/
theorem State.takeStep_uncounted (w : Waiter) (newNow : Nat) :
    Uncounted s (s.takeStep w newNow) := by
  have hannounced : EntriesFreed s (s.stepAnnounced w newNow) :=
    .unfreed (fun i => by rw [State.stepAnnounced_schedule]) (by rw [State.stepAnnounced_schedule])
      (s.stepAnnounced_lines w newNow)
  have hmet := (s.stepAnnounced w newNow).policiesMet_leaves s.timebase.now newNow
  refine (hannounced.trans hmet.freed).uncounted ?_ ?_ (fun l => ?_) fun l => ?_
  · rw [State.takeStep_schedule, State.scheduleStep_slots]
  · rw [State.takeStep_schedule, State.scheduleStep_eq, State.mapSchedule_schedule]
  · rw [State.takeStep_eq, State.scheduleStep_eq, State.mapSchedule_lines, Table.get_map,
      Line.shiftPulse_frame]
  · rw [State.takeStep_eq, State.scheduleStep_eq, State.mapSchedule_lines, Table.get_map,
      Line.shiftPulse_frame]

/-- Every slot after a step (R63 to R66). -/
theorem State.takeStep_slot (w : Waiter) (newNow : Nat) (i : SlotIx) :
    (s.takeStep w newNow).schedule.slots.get i =
      steppedSlot ((newNow : Int) - (s.timebase.now : Int)) (s.schedule.slots.get i) := by
  rw [State.takeStep_schedule, State.scheduleStep_slots, State.policiesMet_slot,
    State.stepAnnounced_schedule]

/-- A line after a step: its pulse is moved, and of the rest the references alone change (R28, R85). -/
theorem State.takeStep_line (w : Waiter) (newNow : Nat) (l : LineIx) :
    (s.takeStep w newNow).lines.get l =
      { s.lines.get l with
        pulse := (s.lines.get l).pulse.map fun u =>
          { u with endTime := shiftClamped s.timebase.now newNow u.endTime }
        refs := ((s.takeStep w newNow).lines.get l).refs
        exclHolder := ((s.takeStep w newNow).lines.get l).exclHolder } := by
  have hmet := (s.stepAnnounced w newNow).policiesMet_leaves s.timebase.now newNow
  have hframe := (hmet.freed.lines l).frame
  rw [State.stepAnnounced_lines] at hframe
  rw [State.takeStep_eq, State.scheduleStep_eq, State.mapSchedule_lines, Table.get_map, hframe,
    Line.shiftPulse]

/-- The lists of a part are those of its schedule. -/
theorem ListsWf.of_schedule_eq {s t : State} (h : ListsWf s) (e : t.schedule = s.schedule) :
    ListsWf t := by
  obtain ⟨dueOnce, due, waitingOnce, waiting, inputs, ordered, sweep, pass⟩ := h
  rw [← e] at dueOnce due waitingOnce waiting inputs ordered sweep pass
  exact ⟨dueOnce, due, waitingOnce, waiting, inputs, ordered, sweep, pass⟩

/-- Freed entries are counted from every part with the same schedule and lines. -/
theorem Uncounted.of_start {s u t : State} (h : Uncounted u t) (hschedule : u.schedule = s.schedule)
    (hlines : u.lines = s.lines) : Uncounted s t := by
  have hof : freedOf u t = freedOf s t := by
    unfold freedOf
    rw [hschedule]
  have hrefs : freedRefs u t = freedRefs s t := by
    unfold freedRefs
    rw [hof, hschedule]
  obtain ⟨usage, refs, holders⟩ := h
  rw [hof, hschedule] at usage
  rw [hrefs, hlines] at refs holders
  exact ⟨usage, refs, holders⟩

/-- The schedule after a step of a part whose lists are well-formed (R63). -/
theorem State.takeStep_schedule_of_listsWf (w : Waiter) (newNow : Nat) (hlists : ListsWf s) :
    (s.takeStep w newNow).schedule =
      { s.schedule with
        slots := (s.takeStep w newNow).schedule.slots
        usage := (s.takeStep w newNow).schedule.usage
        dueList := s.schedule.dueList.filter fun i =>
          ((s.takeStep w newNow).schedule.entryAt i).isSome
        sweep := none
        pass := some
          { stepper := w, oldNow := s.timebase.now, newNow := newNow,
            cancelled := (indices 64).countP (gone s (s.takeStep w newNow)),
            advanced := false, age := 0 } } := by
  have hschedule := s.stepAnnounced_schedule w newNow
  have htold := (s.stepAnnounced w newNow).scheduleStep_schedule w s.timebase.now newNow
    (fun i hi => by
      rw [hschedule] at hi ⊢
      have hstate := (hlists.due i).mp hi
      cases he : s.schedule.entryAt i with
      | none => rw [he] at hstate; exact nomatch hstate
      | some e => rfl)
    (fun n i hi => by
      rw [hschedule] at hi ⊢
      have hstate := (hlists.waiting n i).mp hi
      cases he : s.schedule.entryAt i with
      | none => rw [he] at hstate; exact nomatch hstate
      | some e =>
        rw [he] at hstate
        exact ⟨e, rfl, (Prod.mk.inj (Option.some.inj hstate)).1⟩)
  have hgone : gone (s.stepAnnounced w newNow)
      ((s.stepAnnounced w newNow).scheduleStep w s.timebase.now newNow) =
        gone s (s.takeStep w newNow) := by
    unfold gone
    rw [hschedule, State.takeStep_schedule]
  rw [hgone, hschedule, ← State.takeStep_schedule] at htold
  exact htold

/-! ### The obligation -/

/-- The clamp of R85, as its bounds. -/
theorem shiftClamped_eq (oldNow newNow v : Nat) :
    shiftClamped oldNow newNow v =
      if (newNow : Int) + ((v : Int) - oldNow) < 0 then 0
      else if maxNow < (newNow : Int) + ((v : Int) - oldNow) then maxNow
      else ((newNow : Int) + ((v : Int) - oldNow)).toNat := by
  unfold shiftClamped
  split
  · omega
  · split <;> omega

/-- STEP with good fields: BUSY during a pass, TIME_RANGE for a new Now out of its range, and the step
otherwise (R16, R17). -/
theorem State.stepTaken_good (p : Port) (pl : List Byte) (k : BitVec 16)
    (hgood : ¬ badField .step pl) :
    State.stepTaken p pl k s =
      if s.schedule.pass.isSome = true then s.refuse p k .busy
      else if 0 ≤ steppedNow pl s.timebase.now ∧ steppedNow pl s.timebase.now ≤ maxNow then
        s.takeStep { port := p, ticket := k } (steppedNow pl s.timebase.now).toNat
      else s.refuse p k .timeRange := by
  obtain ⟨target, htarget, htargetNow⟩ := decodeStep_some pl s.timebase.now hgood
  rw [State.stepTaken, htarget]
  dsimp only
  rw [htargetNow]
  by_cases hin : 0 ≤ steppedNow pl s.timebase.now ∧ steppedNow pl s.timebase.now ≤ maxNow
  · rw [if_pos hin, if_pos hin]
  · rw [if_neg hin, if_neg hin]

/-- Settles O25: the refusals of STEP, and the step. -/
theorem stepTaken : Obligations.StepTaken := by
  unfold Obligations.StepTaken
  intro p lags tag pl s hready hadm hlen hgood ticket old new
  have hexec : exec (.step ⟨p, lags⟩ tag pl) s =
      .next (State.stepTaken p pl ticket (s.takeRequest p lags tag 0x23 pl)) :=
    exec_admitted s p lags tag .step pl hready hadm (by rw [hlen]; rfl)
  have hholder : s.holder = some p := hadm.2 (by decide)
  have hu := s.takeRequest_schedule p lags tag 0x23 pl
  have hul := s.takeRequest_lines p lags tag 0x23 pl
  have hut := s.takeRequest_timebase p lags tag 0x23 pl
  have hidle (hpass : s.schedule.pass = none) : ¬ s.schedule.pass.isSome = true := by
    rw [hpass]
    exact Bool.false_ne_true
  have hasked : steppedNow pl s.timebase.now = new := rfl
  rw [hexec, State.stepTaken_good _ _ _ _ hgood, hu, hut, hasked]
  refine ⟨fun hpass => ?_, fun hpass hrange => ?_, fun hpass hlow hhigh hlists => ?_⟩
  · rw [if_pos hpass, State.refuse_takeRequest, hlen]
  · have hout : ¬ (0 ≤ new ∧ new ≤ maxNow) := by omega
    rw [if_neg (hidle hpass), if_neg hout, State.refuse_takeRequest, hlen]
  · have hnew : (new.toNat : Int) = new := Int.toNat_of_nonneg hlow
    let w : Waiter := { port := p, ticket := ticket }
    have hframe := (s.takeRequest p lags tag 0x23 pl).takeStep_frame w new.toNat
    have htime := (s.takeRequest p lags tag 0x23 pl).takeStep_timebase w new.toNat
    have hschedule := (s.takeRequest p lags tag 0x23 pl).takeStep_schedule_of_listsWf w new.toNat
      (hlists.of_schedule_eq hu)
    have hslot := (s.takeRequest p lags tag 0x23 pl).takeStep_slot w new.toNat
    have huncounted :=
      ((s.takeRequest p lags tag 0x23 pl).takeStep_uncounted w new.toNat).of_start hu hul
    have hline := (s.takeRequest p lags tag 0x23 pl).takeStep_line w new.toNat
    have htold := ((s.takeRequest p lags tag 0x23 pl).takeStep_told w new.toNat).of_start (s := s)
      rfl fun q => s.attached_takeRequest p q _ _ _ _
    unfold gone at hschedule
    simp only [hu, hul, hut, hnew, State.holder_takeRequest, hholder]
      at htime hschedule hslot hline htold
    rw [if_neg (hidle hpass), if_pos ⟨hlow, hhigh⟩]
    generalize (s.takeRequest p lags tag 0x23 pl).takeStep w new.toNat = t at *
    refine ⟨t, rfl, ?_, hschedule, hslot, huncounted, fun l => ⟨?_, ?_⟩, ?_⟩
    · rw [htime, State.takeRequest_asked, hlen] at hframe
      exact hframe
    · rw [hline]
      simp only [shiftClamped_eq, hnew]
      rfl
    · rw [hline]
    · refine htold.congr fun q _ => ?_
      have hnews : ∀ i ∈ indices 64, stepNews (new - old) (s.takeRequest p lags tag 0x23 pl) q i =
          stepNews (new - old) s q i := fun i _ => stepNews_congr _ (by rw [hu]) q
      rw [List.filterMap_congr hnews]
      simp only [Option.some.injEq, eq_comm (a := p)]
      rfl

end Sys2Proof.Machine

/-! PROOFS. The due list, the waiting lists and the sweep: what they are after one entry has left them and another stands in its slot. -/

namespace Sys2Proof.Machine

/-! ### What the lists read of an entry (R30, R31) -/

/-- What the lists read of an entry: its state, its input and its due. -/
def Entry.standing (e : Entry) : EntryState × Option InputIx × Option Nat := (e.state, e.input, e.due)

/-- The due of a slot depends on its entry alone. -/
theorem Schedule.dueAt_congr {c d : Schedule} {i : SlotIx} (h : d.entryAt i = c.entryAt i) :
    d.dueAt i = c.dueAt i := by
  rw [Schedule.dueAt, Schedule.dueAt, h]

/-- A list in order of due stays in order where the dues of its slots stay. -/
theorem Schedule.ordered_congr {c d : Schedule} {is : List SlotIx}
    (h : is.Pairwise fun i j => c.dueAt i ≤ c.dueAt j) (e : ∀ i ∈ is, d.dueAt i = c.dueAt i) :
    is.Pairwise fun i j => d.dueAt i ≤ d.dueAt j :=
  h.imp_of_mem fun hi hk hle => by rwa [e _ hi, e _ hk]

/-- The slots in the due list hold SCHEDULED entries. -/
theorem ListsWf.scheduled_of_mem {s : State} (h : ListsWf s) {i : SlotIx}
    (hi : i ∈ s.schedule.dueList) :
    ∃ e, s.schedule.entryAt i = some e ∧ e.state = .scheduled :=
  Option.map_eq_some_iff.mp ((h.due i).mp hi)

/-- The slots in a waiting list hold WAITING entries of its input. -/
theorem ListsWf.waiting_of_mem {s : State} (h : ListsWf s) {n : InputIx} {i : SlotIx}
    (hi : i ∈ s.schedule.waiting.get n) :
    ∃ e, s.schedule.entryAt i = some e ∧ e.state = .waiting ∧ e.input = some n := by
  obtain ⟨e, he, hpair⟩ := Option.map_eq_some_iff.mp ((h.waiting n i).mp hi)
  exact ⟨e, he, (Prod.mk.inj hpair).1, (Prod.mk.inj hpair).2⟩

/-- An entry that is not SCHEDULED stands in no due list. -/
theorem ListsWf.not_mem_dueList {s : State} (h : ListsWf s) {i : SlotIx} {e : Entry}
    (he : s.schedule.entryAt i = some e) (hs : e.state ≠ .scheduled) : i ∉ s.schedule.dueList := by
  intro hi
  obtain ⟨x, hx, hstate⟩ := h.scheduled_of_mem hi
  cases he.symm.trans hx
  exact hs hstate

/-- An entry stands in no waiting list but, WAITING, in the one of its input. -/
theorem ListsWf.not_mem_waiting {s : State} (h : ListsWf s) {i : SlotIx} {e : Entry} (n : InputIx)
    (he : s.schedule.entryAt i = some e) (hs : ¬ (e.state = .waiting ∧ e.input = some n)) :
    i ∉ s.schedule.waiting.get n := by
  intro hi
  obtain ⟨x, hx, hstate⟩ := h.waiting_of_mem hi
  cases he.symm.trans hx
  exact hs hstate

/-- A list without a slot is the list with that slot taken out. -/
theorem filter_ne_eq_self {i : SlotIx} {is : List SlotIx} (h : i ∉ is) : is.filter (· ≠ i) = is :=
  List.filter_eq_self.mpr fun _ hj => decide_eq_true fun e => h (e ▸ hj)

theorem mem_filter_ne {i j : SlotIx} {is : List SlotIx} :
    j ∈ is.filter (· ≠ i) ↔ j ∈ is ∧ j ≠ i := by
  rw [List.mem_filter, decide_eq_true_iff]

/-- Where the lists and what they read of the entries stay, the lists stay well formed, whatever becomes of
the sweep and of the pass within their bounds. -/
theorem ListsWf.of_standing {s t : State} (h : ListsWf s)
    (hentry : ∀ i, (t.schedule.entryAt i).map Entry.standing =
      (s.schedule.entryAt i).map Entry.standing)
    (hdue : t.schedule.dueList = s.schedule.dueList)
    (hwaiting : t.schedule.waiting = s.schedule.waiting)
    (hordered : t.schedule.pass = none → s.schedule.pass = none)
    (hsweep : ∀ m, t.schedule.sweep = some m →
      t.schedule.pass = none ∧ ∀ i ∈ m, i ∈ t.schedule.dueList)
    (hpass : ∀ a, t.schedule.pass = some a → a.cancelled ≤ 64 ∧ a.age ≤ 100) : ListsWf t := by
  have hread {β : Type} (f : EntryState × Option InputIx × Option Nat → β) (i : SlotIx) :
      (t.schedule.entryAt i).map (fun e => f e.standing) =
        (s.schedule.entryAt i).map fun e => f e.standing := by
    simpa only [Option.map_map, Function.comp_def] using congrArg (Option.map f) (hentry i)
  have hdueAt (i : SlotIx) : t.schedule.dueAt i = s.schedule.dueAt i := by
    have hjoin (c : Schedule) :
        c.dueAt i = ((c.entryAt i).map fun e => e.standing.2.2).join.getD 0 := by
      unfold Schedule.dueAt
      cases c.entryAt i <;> rfl
    rw [hjoin, hjoin, hread (fun x => x.2.2)]
  refine ⟨hdue ▸ h.dueOnce, fun i => ?_, fun n => hwaiting ▸ h.waitingOnce n, fun n i => ?_,
    fun i e he hw => ?_, fun hp => ?_, hsweep, hpass⟩
  · have hstate := hread (fun x => x.1) i
    change (t.schedule.entryAt i).map Entry.state = (s.schedule.entryAt i).map Entry.state at hstate
    rw [hdue, h.due, hstate]
  · have hstate := hread (fun x => (x.1, x.2.1)) i
    change (t.schedule.entryAt i).map (fun e => (e.state, e.input)) =
      (s.schedule.entryAt i).map fun e => (e.state, e.input) at hstate
    rw [hwaiting, h.waiting, hstate]
  · have hsame := hentry i
    rw [he, Option.map_some, eq_comm, Option.map_eq_some_iff] at hsame
    obtain ⟨x, hx, hstanding⟩ := hsame
    obtain ⟨hstate, hinput, -⟩ : x.state = e.state ∧ x.input = e.input ∧ x.due = e.due := by
      simpa [Entry.standing] using hstanding
    rw [← hinput]
    exact h.inputs i x hx (hstate.trans hw)
  · rw [hdue]
    exact Schedule.ordered_congr (h.ordered (hordered hp)) fun i _ => hdueAt i

/-! ### One slot at a time (R28, R30, R31) -/

/-- An entry that leaves its slot and every list (R28). -/
theorem ListsWf.evicted {s t : State} (h : ListsWf s) (i : SlotIx)
    (hentry : ∀ j, t.schedule.entryAt j = if i = j then none else s.schedule.entryAt j)
    (hdue : t.schedule.dueList = s.schedule.dueList.filter (· ≠ i))
    (hwaiting : ∀ n, t.schedule.waiting.get n = (s.schedule.waiting.get n).filter (· ≠ i))
    (hsweep : t.schedule.sweep = s.schedule.sweep.map fun m => m.filter (· ≠ i))
    (hpass : t.schedule.pass = s.schedule.pass) : ListsWf t := by
  have hother {j : SlotIx} (hj : j ≠ i) : t.schedule.entryAt j = s.schedule.entryAt j :=
    (hentry j).trans (if_neg fun e => hj e.symm)
  have hself : t.schedule.entryAt i = none := (hentry i).trans (if_pos rfl)
  refine ⟨hdue ▸ h.dueOnce.filter _, fun j => ?_, fun n => hwaiting n ▸ (h.waitingOnce n).filter _,
    fun n j => ?_, fun j e he hw => ?_, fun hp => ?_, fun m hm => ?_, fun a ha =>
    h.pass a (hpass ▸ ha)⟩
  · rw [hdue, mem_filter_ne, h.due]
    by_cases hj : j = i
    · subst hj
      simp [hself]
    · simp [hother hj, hj]
  · rw [hwaiting, mem_filter_ne, h.waiting]
    by_cases hj : j = i
    · subst hj
      simp [hself]
    · simp [hother hj, hj]
  · have hj : j ≠ i := fun e => by
      subst e
      exact nomatch hself.symm.trans he
    exact h.inputs j e ((hother hj).symm.trans he) hw
  · rw [hdue]
    refine Schedule.ordered_congr ((h.ordered (hpass ▸ hp)).filter _) fun j hj => ?_
    exact Schedule.dueAt_congr (hother (mem_filter_ne.mp hj).2)
  · rw [hsweep, Option.map_eq_some_iff] at hm
    obtain ⟨m0, hm0, rfl⟩ := hm
    obtain ⟨hnone, hmem⟩ := h.sweep m0 hm0
    refine ⟨hpass.trans hnone, fun j hj => ?_⟩
    obtain ⟨hj, hne⟩ := mem_filter_ne.mp hj
    rw [hdue, mem_filter_ne]
    exact ⟨hmem j hj, hne⟩

/-- An entry that takes a FREE slot, with its place in the due list or in a waiting list (R30, R31, R38). -/
theorem ListsWf.inserted {s t : State} (h : ListsWf s) (i : SlotIx) (e : Entry)
    (hfree : s.schedule.entryAt i = none)
    (hentry : ∀ j, t.schedule.entryAt j = if i = j then some e else s.schedule.entryAt j)
    (hdue : t.schedule.dueList.Perm
      (if e.state = .scheduled then i :: s.schedule.dueList else s.schedule.dueList))
    (hordered : t.schedule.pass = none →
      t.schedule.dueList.Pairwise fun j k => t.schedule.dueAt j ≤ t.schedule.dueAt k)
    (hinput : e.state = .waiting → e.input.isSome = true)
    (hwaiting : ∀ n, t.schedule.waiting.get n =
      if e.state = .waiting ∧ e.input = some n then s.schedule.waiting.get n ++ [i]
      else s.schedule.waiting.get n)
    (hsweep : t.schedule.sweep = s.schedule.sweep)
    (hpass : t.schedule.pass = s.schedule.pass) : ListsWf t := by
  have hother {j : SlotIx} (hj : j ≠ i) : t.schedule.entryAt j = s.schedule.entryAt j :=
    (hentry j).trans (if_neg fun c => hj c.symm)
  have hself : t.schedule.entryAt i = some e := (hentry i).trans (if_pos rfl)
  have hnotDue : i ∉ s.schedule.dueList := fun c => by
    obtain ⟨x, hx, -⟩ := h.scheduled_of_mem c
    exact nomatch hfree.symm.trans hx
  have hnotWaiting (n : InputIx) : i ∉ s.schedule.waiting.get n := fun c => by
    obtain ⟨x, hx, -⟩ := h.waiting_of_mem c
    exact nomatch hfree.symm.trans hx
  have hmemDue (j : SlotIx) : j ∈ t.schedule.dueList ↔
      (e.state = .scheduled ∧ j = i) ∨ j ∈ s.schedule.dueList := by
    rw [hdue.mem_iff]
    split <;> simp [*]
  refine ⟨?_, fun j => ?_, fun n => ?_, fun n j => ?_, fun j x hx hw => ?_, hordered, fun m hm => ?_,
    fun a ha => h.pass a (hpass ▸ ha)⟩
  · rw [hdue.nodup_iff]
    split
    · exact List.nodup_cons.mpr ⟨hnotDue, h.dueOnce⟩
    · exact h.dueOnce
  · rw [hmemDue]
    by_cases hj : j = i
    · subst hj
      simp [hself, hnotDue]
    · simp [hother hj, hj, h.due]
  · rw [hwaiting]
    split
    · exact List.nodup_append.mpr ⟨h.waitingOnce n, List.nodup_singleton i, fun a ha b hb c =>
        hnotWaiting n (List.mem_singleton.mp hb ▸ c ▸ ha)⟩
    · exact h.waitingOnce n
  · rw [hwaiting]
    by_cases hj : j = i
    · subst hj
      rw [hself, Option.map_some, Option.some.injEq, Prod.mk.injEq]
      split <;> simp [*]
    · rw [hother hj, ← h.waiting]
      split <;> simp [hj]
  · by_cases hj : j = i
    · subst hj
      cases hself.symm.trans hx
      exact hinput hw
    · exact h.inputs j x ((hother hj).symm.trans hx) hw
  · obtain ⟨hnone, hmem⟩ := h.sweep m (hsweep ▸ hm)
    exact ⟨hpass.trans hnone, fun j hj => (hmemDue j).mpr (.inr (hmem j hj))⟩

/-- Freeing an entry keeps the lists well formed (R28). -/
theorem ListsWf.freeEntry {s : State} (h : ListsWf s) (i : SlotIx) : ListsWf (s.freeEntry i) := by
  cases hs : s.schedule.entryAt i with
  | none => rwa [State.freeEntry_none s i hs]
  | some e =>
    refine h.evicted i (s.freeEntry_entryAt hs) ?_ (fun n => ?_) ?_ ?_ <;>
      rw [State.freeEntry_some s i e hs]
    · rw [Schedule.free_dueList]
    · rw [Schedule.free_waiting, Table.get_map]
    · rw [Schedule.free_sweep]
    · rw [Schedule.free_pass]

/-- Another record of an entry that waits no longer, with its place in the due list where it is SCHEDULED: the
entry leaves every list and is placed again. -/
theorem ListsWf.replaced {s t : State} (h : ListsWf s) {i : SlotIx} {old e : Entry}
    (hs : s.schedule.entryAt i = some old)
    (hentry : ∀ j, t.schedule.entryAt j = if i = j then some e else s.schedule.entryAt j)
    (hstate : e.state ≠ .waiting)
    (hdue : t.schedule.dueList.Perm
      (if e.state = .scheduled then i :: s.schedule.dueList.filter (· ≠ i)
        else s.schedule.dueList.filter (· ≠ i)))
    (hordered : t.schedule.pass = none →
      t.schedule.dueList.Pairwise fun j k => t.schedule.dueAt j ≤ t.schedule.dueAt k)
    (hwaiting : ∀ n, t.schedule.waiting.get n = (s.schedule.waiting.get n).filter (· ≠ i))
    (hsweep : t.schedule.sweep = s.schedule.sweep.map fun m => m.filter (· ≠ i))
    (hpass : t.schedule.pass = s.schedule.pass) : ListsWf t := by
  have hfreed := h.freeEntry i
  have hentries := s.freeEntry_entryAt hs
  have hschedule : (s.freeEntry i).schedule = s.schedule.free i old.owner := by
    rw [State.freeEntry_some s i old hs]
  refine hfreed.inserted i e ((hentries i).trans (if_pos rfl)) (fun j => ?_) ?_ hordered
    (fun c => absurd c hstate) (fun n => ?_) ?_ ?_
  · rw [hentry, hentries]
    split <;> rfl
  · rwa [hschedule, Schedule.free_dueList]
  · rw [if_neg fun c => hstate c.1, hwaiting, hschedule, Schedule.free_waiting, Table.get_map]
  · rw [hsweep, hschedule, Schedule.free_sweep]
  · rw [hpass, hschedule, Schedule.free_pass]

/-! ### Placing an entry (R30, R69, R72) -/

variable (c : Schedule)

theorem Schedule.place_perm (i : SlotIx) : (c.place i).dueList.Perm (i :: c.dueList) := by
  rw [Schedule.place_dueList]
  cases c.pass with
  | none => exact placeByKey_perm _ i _
  | some a => exact List.perm_append_singleton i _

/-- Outside a pass a placed entry keeps the due list in order (R30). -/
theorem Schedule.place_ordered (i : SlotIx) (hpass : c.pass = none)
    (h : c.dueList.Pairwise fun j k => c.dueAt j ≤ c.dueAt k) :
    (c.place i).dueList.Pairwise fun j k => (c.place i).dueAt j ≤ (c.place i).dueAt k := by
  have hplaced := placeByKey_ordered c.dueAt i c.dueList h
  rw [Schedule.place_dueList, hpass]
  exact hplaced

end Sys2Proof.Machine

/-! PROOFS. What every command does to the schedule and to the references of lines, told once: a property that these few procedures keep is kept by every step. -/

namespace Sys2Proof.Machine

/-! ### What entries, references and sessions leave alone -/

/-- What a line knows of the entries that reference it: its mode, its references and its holder (R87, R88). -/
def Line.counts (l : Line) : LineMode × Table 3 Nat × Option Port := (l.mode, l.refs, l.exclHolder)

/-- From `s` to `t` nothing has changed of the schedule, of the references of lines and of the sessions. -/
structure SameEntries (s t : State) : Prop where
  schedule : t.schedule = s.schedule
  counts : ∀ l : LineIx, (t.lines.get l).counts = (s.lines.get l).counts
  attached : ∀ q : Port, t.attached q = s.attached q

theorem SameEntries.refl (s : State) : SameEntries s s := ⟨rfl, fun _ => rfl, fun _ => rfl⟩

theorem SameEntries.of_eq {s t : State} (hschedule : t.schedule = s.schedule)
    (hlines : t.lines = s.lines) (hattached : ∀ q, t.attached q = s.attached q) :
    SameEntries s t := ⟨hschedule, fun l => by rw [hlines], hattached⟩

theorem SameEntries.trans {s t u : State} (h1 : SameEntries s t) (h2 : SameEntries t u) :
    SameEntries s u where
  schedule := h2.schedule.trans h1.schedule
  counts l := (h2.counts l).trans (h1.counts l)
  attached q := (h2.attached q).trans (h1.attached q)

theorem SameEntries.mapPort (s : State) (p : Port) (f : PortIf → PortIf)
    (hf : ∀ i, (f i).session = i.session) : SameEntries s (s.mapPort p f) :=
  .of_eq rfl rfl fun q => s.attached_mapPort p q f (hf _)

theorem SameEntries.mapTime (s : State) (f : Timebase → Timebase) : SameEntries s (s.mapTime f) :=
  .of_eq rfl rfl fun _ => rfl

theorem SameEntries.mapAuthority (s : State) (f : Authority → Authority) :
    SameEntries s (s.mapAuthority f) := .of_eq rfl rfl fun _ => rfl

theorem SameEntries.mapQueue (s : State) (p : Port) (f : NoticeQueue → NoticeQueue) :
    SameEntries s (s.mapQueue p f) := .of_eq rfl rfl fun _ => rfl

theorem SameEntries.mapCapture (s : State) (f : Capture → Capture) :
    SameEntries s (s.mapCapture f) := .of_eq rfl rfl fun _ => rfl

theorem SameEntries.answer (s : State) (p : Port) (k : BitVec 16) (st : Status) (pl : List Byte)
    (fr : Option EntryName) : SameEntries s (s.answer p k st pl fr) :=
  .mapPort s p _ fun i => i.takeAnswer_session k st pl fr

theorem SameEntries.refuse (s : State) (p : Port) (k : BitVec 16) (st : Status) :
    SameEntries s (s.refuse p k st) := .answer s p k st [] none

theorem SameEntries.postWhere (s : State) (test : Port → Bool) (b : NoticeBody) :
    SameEntries s (s.postWhere test b) :=
  .of_eq (s.postWhere_schedule test b) (s.postWhere_lines test b) (s.attached_postWhere test · b)

theorem SameEntries.postCancelled (s : State) (e : Entry) (h : Handle) (reason : CancelReason) :
    SameEntries s (s.postCancelled e h reason) :=
  .of_eq (s.postCancelled_schedule e h reason) (s.postCancelled_lines e h reason)
    (State.attached_congr (s.postCancelled_ports e h reason))

theorem SameEntries.noted (s : State) : SameEntries s s.noted := .of_eq rfl rfl fun _ => rfl

theorem SameEntries.answerStops (s : State) (st : Status) : SameEntries s (s.answerStops st) :=
  .of_eq (s.answerStops_schedule st) (s.answerStops_lines st) (s.attached_answerStops st)

theorem SameEntries.endSlew (s : State) (reason : SlewReason) : SameEntries s (s.endSlew reason) :=
  .of_eq (s.endSlew_schedule reason) (s.endSlew_lines reason)
    (State.attached_congr (s.endSlew_ports reason))

/-- A force is no part of what the entries count. -/
theorem SameEntries.fillVacancy (s : State) (former : Port) (reason : AuthReason) :
    SameEntries s (s.fillVacancy former reason) where
  schedule := s.fillVacancy_schedule former reason
  counts l := by rw [State.fillVacancy_line, Line.counts, Line.counts]
  attached := State.attached_congr (s.fillVacancy_ports former reason)

theorem SameEntries.withdraw (s : State) (p : Port) : SameEntries s (s.withdraw p) :=
  .of_eq (s.withdraw_schedule p) (s.withdraw_lines p) (State.attached_congr (s.withdraw_ports p))

theorem SameEntries.detachAuthority (s : State) (p : Port) : SameEntries s (s.detachAuthority p) := by
  unfold State.detachAuthority
  split
  · exact .fillVacancy s p .detached
  · split
    · exact .withdraw s p
    · exact .of_eq rfl rfl fun _ => rfl

theorem SameEntries.revoke (s : State) (former : Port) (reason : AuthReason) :
    SameEntries s (s.revoke former reason) :=
  (SameEntries.of_eq (s.post_schedule _ _) (s.post_lines _ _) (s.attached_post _ · _)).trans
    (.fillVacancy _ former reason)

theorem SameEntries.millisecond (s : State) : SameEntries s s.millisecond := by
  refine (SameEntries.mapTime s fun t => { t with msDue := false }).trans ?_
  unfold State.millisecond State.countMillisecond
  split
  · exact .refl _
  · split
    · split
      · exact .revoke _ _ _
      · exact .mapAuthority _ _
    · split
      · exact .revoke _ _ _
      · split
        · exact .revoke _ _ _
        · exact .mapAuthority _ _

theorem SameEntries.settleState (s : State) : SameEntries s s.settleState := by
  have hstopped : SameEntries s ((s.mapTime fun t => { t with state := .stopped }).answerStops .ok) :=
    (SameEntries.mapTime s _).trans (.answerStops _ .ok)
  unfold State.settleState
  split
  · exact (hstopped.trans (.endSlew _ .timeEnd)).trans (.postWhere _ _ _)
  · split
    · exact hstopped.trans (.postWhere _ _ _)
    · exact .refl s

theorem SameEntries.advancedState (s : State) : SameEntries s s.advancedState := by
  have hdone : SameEntries s s.ticked.endSlewIfDone := by
    have hticked : SameEntries s s.ticked := .mapTime s _
    refine hticked.trans ?_
    unfold State.endSlewIfDone
    split
    · split
      · exact .endSlew _ .done
      · exact .refl _
    · exact .refl _
  exact hdone.trans (.settleState _)

/-! ### The checks on a handle (R25, R39) -/

/-- What holds of a refusal and of the block for the entry that a good handle names holds of a request that
carries a handle (R25). -/
theorem State.handleCheck_induction (P : State → Prop) (s : State) (p : Port) (pl : List Byte)
    (ticket : BitVec 16) (block : SlotIx → Entry → State) (hrefuse : ∀ st, P (s.refuse p ticket st))
    (hblock : ∀ i e, s.schedule.entryAt i = some e → P (block i e)) :
    P (s.handleCheck p pl ticket block) := by
  unfold State.handleCheck
  split
  · exact hrefuse _
  · split
    · exact hrefuse _
    · next e he =>
      split
      · exact hblock _ e he
      · exact hrefuse _

/-- The same for a request that only the owner may send, and in no pass (R39). -/
theorem State.ownEntry_induction (P : State → Prop) (s : State) (p : Port) (pl : List Byte)
    (ticket : BitVec 16) (block : SlotIx → Entry → State) (hrefuse : ∀ st, P (s.refuse p ticket st))
    (hblock : ∀ i e, s.schedule.pass = none → s.schedule.entryAt i = some e → e.owner = p →
      P (block i e)) : P (s.ownEntry p pl ticket block) := by
  unfold State.ownEntry
  split
  · exact hrefuse _
  · next hpass =>
    refine s.handleCheck_induction P p pl ticket _ hrefuse fun i e he => ?_
    split
    · next howner => exact hblock i e (Option.not_isSome_iff_eq_none.mp hpass) he howner
    · exact hrefuse _

/-! ### The requests that leave entries, references and sessions alone -/

/-- The requests that reach the entries, the quotas, the references of lines or the sessions. -/
def entryKinds : List Kind :=
  [.attach, .detach, .step, .entryAdd, .entryCancel, .entryHold, .entryResume, .setQuota,
   .purgePort, .setLinePolicy]

/-- Every other request leaves them alone. -/
theorem Kind.taken_sameEntries (k : Kind) (hk : k ∉ entryKinds) (p : Port) (pl : List Byte)
    (ticket : BitVec 16) (s : State) : SameEntries s (k.taken p pl ticket s) := by
  cases k with
  | attach | detach | step | entryAdd | entryCancel | entryHold | entryResume | setQuota
  | purgePort | setLinePolicy => exact absurd (by decide) hk
  | setAttention =>
    change SameEntries s (State.attentionTaken p pl ticket s)
    unfold State.attentionTaken
    split
    · exact .refuse s p ticket _
    · exact (SameEntries.mapQueue _ _ _).trans (.answer _ _ _ _ _ _)
  | queryTime => exact .answer s p ticket _ _ _
  | start =>
    change SameEntries s (State.startTaken p ticket s)
    unfold State.startTaken
    split
    · split
      · exact .refuse s p ticket _
      · exact ((SameEntries.mapTime _ _).trans (.answer _ _ _ _ _ _)).trans (.postWhere _ _ _)
    · exact .answer s p ticket _ _ _
    · exact ((SameEntries.mapTime _ _).trans (.answerStops _ _)).trans (.answer _ _ _ _ _ _)
  | stop =>
    change SameEntries s (State.stopTaken p ticket s)
    unfold State.stopTaken
    split
    · exact .answer s p ticket _ _ _
    · exact .mapTime _ _
    · exact .mapTime _ _
  | slew =>
    change SameEntries s (State.slewTaken p pl ticket s)
    unfold State.slewTaken
    split
    · exact .refuse s p ticket _
    · refine SameEntries.trans ?_ (.answer _ _ _ _ _ _)
      split
      · exact .endSlew s _
      · exact (SameEntries.endSlew s _).trans (.mapTime _ _)
  | entryQuery =>
    change SameEntries s (State.entryQueryTaken p pl ticket s)
    refine s.handleCheck_induction (SameEntries s) p pl ticket _ (.refuse s p ticket) fun i e _ => ?_
    split
    · exact .answer s p ticket _ _ _
    · exact .refuse s p ticket _
  | nextQuery =>
    change SameEntries s (State.nextQueryTaken p ticket s)
    unfold State.nextQueryTaken
    split
    · exact .refuse s p ticket _
    · exact .answer s p ticket _ _ _
  | entryList =>
    change SameEntries s (State.entryListTaken p pl ticket s)
    unfold State.entryListTaken
    split
    · exact .refuse s p ticket _
    · split
      · exact .refuse s p ticket _
      · exact .answer s p ticket _ _ _
  | lineQuery =>
    change SameEntries s (State.lineQueryTaken p pl ticket s)
    unfold State.lineQueryTaken
    split
    · exact .refuse s p ticket _
    · exact .answer s p ticket _ _ _
  | forceLine =>
    change SameEntries s (State.forceTaken p pl ticket s)
    unfold State.forceTaken
    split
    · exact .refuse s p ticket _
    · next line value _ =>
      have hforce : SameEntries s (s.mapLine line (Line.setForce p value)) := by
        refine ⟨rfl, fun l => ?_, fun _ => rfl⟩
        rw [State.mapLine_lines, Table.get_upd]
        split
        · next h => rw [h]; rfl
        · rfl
      exact hforce.trans (.answer _ _ _ _ _ _)
  | claim =>
    change SameEntries s (State.claimTaken p pl ticket s)
    unfold State.claimTaken
    split
    · exact .refuse s p ticket _
    · split
      · split
        · exact .refuse s p ticket _
        · have hgranted (u : State) : SameEntries u u.clearForces :=
            ⟨rfl, fun l => by rw [State.clearForces_line, Line.counts, Line.counts], fun _ => rfl⟩
          exact (((SameEntries.mapAuthority _ _).trans (hgranted _)).trans (.postWhere _ _ _)).trans
            (.answer _ _ _ _ _ _)
      · split
        · exact .refuse s p ticket _
        · split
          · exact .refuse s p ticket _
          · unfold State.queueClaim
            refine SameEntries.trans ?_ (.answer _ _ _ _ _ _)
            split
            all_goals
              exact (SameEntries.mapAuthority _ _).trans
                (.of_eq (State.post_schedule _ _ _) (State.post_lines _ _ _)
                  (State.attached_post _ _ · _))
  | release =>
    change SameEntries s (State.releaseTaken p ticket s)
    unfold State.releaseTaken
    split
    · exact (SameEntries.fillVacancy s p _).trans (.answer _ _ _ _ _ _)
    · split
      · exact (SameEntries.withdraw s p).trans (.answer _ _ _ _ _ _)
      · exact .refuse s p ticket _
  | renew =>
    change SameEntries s (State.renewTaken p pl ticket s)
    unfold State.renewTaken
    split
    · exact .refuse s p ticket _
    · split
      · exact .refuse s p ticket _
      · split
        · exact .refuse s p ticket _
        · exact (SameEntries.mapAuthority _ _).trans (.answer _ _ _ _ _ _)
  | queryAuthority => exact .answer s p ticket _ _ _
  | setGrace =>
    change SameEntries s (State.graceTaken p pl ticket s)
    unfold State.graceTaken
    dsimp only
    split
    · exact .refuse s p ticket _
    · exact (SameEntries.mapAuthority _ _).trans (.answer _ _ _ _ _ _)
  | setCapture =>
    change SameEntries s (State.setCaptureTaken p pl ticket s)
    unfold State.setCaptureTaken
    split
    · exact .refuse s p ticket _
    · exact (SameEntries.mapCapture _ _).trans (.answer _ _ _ _ _ _)
  | subscribe =>
    change SameEntries s (State.subscribeTaken p pl ticket s)
    unfold State.subscribeTaken
    split
    · exact .refuse s p ticket _
    · exact (SameEntries.mapCapture _ _).trans (.answer _ _ _ _ _ _)
  | readCaptures =>
    change SameEntries s (State.readTaken p pl ticket s)
    unfold State.readTaken
    split
    · exact .refuse s p ticket _
    · exact (SameEntries.mapCapture _ _).trans (.answer _ _ _ _ _ _)
  | fetchNotices =>
    change SameEntries s (State.fetchTaken p pl ticket s)
    unfold State.fetchTaken
    split
    · exact .refuse s p ticket _
    · exact .answer s p ticket _ _ _
  | ackNotices =>
    change SameEntries s (State.ackTaken p pl ticket s)
    unfold State.ackTaken
    dsimp only
    split
    · exact (SameEntries.mapQueue _ _ _).trans (.answer _ _ _ _ _ _)
    · exact .refuse s p ticket _

end Sys2Proof.Machine

namespace Sys2Proof.Machine

/-! ### One entry of a detaching port (R50, R73) -/

/-- Another record of an entry with its owner and its lines is no change for the lines and the lists. -/
theorem State.mapEntry_entriesFreed (s : State) (i : SlotIx) (f : Entry → Entry)
    (howner : ∀ e, (f e).owner = e.owner) (hlines : ∀ e, (f e).lines = e.lines) :
    EntriesFreed s (s.mapSchedule fun c => c.mapEntry i f) := by
  refine .unfreed (fun j => ?_) rfl rfl
  rw [State.mapSchedule_schedule, Schedule.mapEntry_entryAt]
  split
  · simp only [Option.map_map, Function.comp_def, howner, hlines]
  · rfl

/-- An entry that meets its orphan policy is freed or stays with its owner and its lines. -/
theorem State.orphanOne_entriesFreed (s : State) (i : SlotIx) : EntriesFreed s (s.orphanOne i) := by
  unfold State.orphanOne
  split
  · exact .unfreed (fun _ => rfl) rfl rfl
  · split
    · exact s.mapEntry_entriesFreed i _ (fun _ => rfl) fun _ => rfl
    · split
      · exact s.mapEntry_entriesFreed i _ (fun _ => rfl) fun _ => rfl
      · exact s.freeEntry_entriesFreed i

/-! ### A property that every step keeps -/

/-- A property of the part that the procedures of the schedule keep, each taken alone: the places where a
command changes the schedule, the references of lines or a session. -/
structure ScheduleInvariant (P : State → Prop) : Prop where
  same : ∀ {s t}, SameEntries s t → P s → P t
  openSession : ∀ s p, P s → P (s.openSession p)
  closeSession : ∀ s p, P s → P (s.mapPort p fun i => { i with session := .detached })
  orphan : ∀ s i, (∀ e, s.schedule.entryAt i = some e → s.attached e.owner = false) →
    P s → P (s.orphanOne i)
  takeStep : ∀ s w now, now ≤ maxNow → s.schedule.pass = none → P s → P (s.takeStep w now)
  create : ∀ s p i pl f, s.schedule.pass = none → decodeAdd pl = some f →
    s.addRefusal p f = none → s.schedule.freeSlot = some i → P s → P (s.createEntry p i f)
  free : ∀ s i, P s → P (s.freeEntry i)
  hold : ∀ s i e, s.schedule.entryAt i = some e → e.state = .scheduled → P s →
    P (s.mapSchedule fun c => (c.leaveDueList i).mapEntry i fun x => { x with state := .held })
  resume : ∀ s i e, s.schedule.entryAt i = some e → e.state = .held → P s →
    P (s.mapSchedule fun c => (c.mapEntry i fun x => { x with state := .scheduled }).place i)
  quota : ∀ s q n, n ≤ 64 → s.schedule.usage.get q ≤ n → P s →
    P (s.mapSchedule fun c => { c with quota := c.quota.set q n })
  policy : ∀ s (f : PolicyFields),
    ¬ ((s.lines.get f.line).mode = .shared ∧ f.mode = .exclusive
      ∧ 1 < (s.lines.get f.line).referencingPorts) →
    P s → P (s.mapLine f.line (Line.setPolicy f))
  reset : ∀ s cause, P s → P (s.beginReset cause)
  handOver : ∀ s n stamp, P s → P (s.handOver n stamp)
  expire : ∀ s i e, s.sweepHead = some i → s.schedule.entryAt i = some e → P s →
    P (s.expireEntry i e)
  sweep : ∀ s v, (∀ m, v = some m → s.schedule.pass = none ∧ m = s.schedule.dueList) → P s →
    P (s.mapSchedule fun c => { c with sweep := v })
  pass : ∀ s a b, s.schedule.pass = some a → b.cancelled = a.cancelled → b.age ≤ 100 → P s →
    P (s.mapSchedule fun c => { c with pass := some b })
  endPass : ∀ s a, s.schedule.pass = some a → (∀ i, s.schedule.cancelPendingAt i = false) → P s →
    P (s.mapSchedule fun c => { c with pass := none, dueList := rebuildByKey c.dueAt c.dueList })
  age : ∀ s a, s.schedule.pass = some a → P s → a.age ≤ 100

namespace ScheduleInvariant

variable {P : State → Prop} (inv : ScheduleInvariant P) {s : State}

include inv

/-! #### The requests -/

theorem freeAndTell (i : SlotIx) (reason : CancelReason) (h : P s) : P (s.freeAndTell i reason) := by
  obtain ⟨hschedule, hlines⟩ := s.freeAndTell_freed i reason
  refine inv.same (.of_eq hschedule hlines fun q => ?_) (inv.free s i h)
  rw [State.attached_congr (s.freeAndTell_ports i reason), State.attached_congr (s.freeEntry_ports i)]

theorem freeAll (is : List SlotIx) (h : P s) : P (s.freeAll is) := by
  unfold State.freeAll
  induction is generalizing s with
  | nil => exact h
  | cons i is ih => exact ih (inv.free s i h)

theorem purge (p q : Port) (h : P s) : P (s.purge p q) := by
  unfold State.purge
  generalize s.schedule.slotsWhere _ = is
  induction is generalizing s with
  | nil => exact h
  | cons i is ih =>
    refine ih ?_
    split
    · exact inv.free s i h
    · exact inv.freeAndTell i .purged h

/-- The entries of a port that has just closed its session meet their orphan policies one by one (R50). -/
theorem orphanEntries (p : Port) (hp : s.attached p = false) (h : P s) : P (s.orphanEntries p) := by
  have howned : ∀ i ∈ s.schedule.slotsWhere fun e => e.owner = p, ∀ e,
      s.schedule.entryAt i = some e → s.attached e.owner = false := fun i hi e he => by
    obtain ⟨x, hx, howner⟩ := (Schedule.mem_slotsWhere _ _ _).mp hi
    cases he.symm.trans hx
    rw [of_decide_eq_true howner]
    exact hp
  unfold State.orphanEntries
  generalize s.schedule.slotsWhere _ = is at howned
  induction is generalizing s with
  | nil => exact h
  | cons i is ih =>
    have hattached := State.attached_congr (s.orphanOne_ports i)
    refine ih ((hattached p).trans hp) (inv.orphan s i (howned i List.mem_cons_self) h)
      fun j hj e he => ?_
    have hkept := (s.orphanOne_entriesFreed i).kept j
    rw [he, Option.map_some] at hkept
    obtain ⟨x, hx, hpair⟩ := Option.map_eq_some_iff.mp (hkept.resolve_left (nomatch ·)).symm
    rw [hattached, ← (Prod.mk.inj hpair).1]
    exact howned j (List.mem_cons_of_mem i hj) x hx

theorem detach (p : Port) (h : P s) : P (s.detach p) := by
  have hclosed := inv.closeSession s p h
  have hattached : (s.mapPort p fun i => { i with session := .detached }).attached p = false := by
    rw [State.attached, State.mapPort_ports, Table.get_upd_self]
    rfl
  have hsame := ((SameEntries.mapQueue (s.mapPort p fun i => { i with session := .detached }) p
    NoticeQueue.detach).trans (.mapCapture _ fun c => c.detach p)).trans (.detachAuthority _ p)
  exact inv.orphanEntries p ((hsame.attached p).trans hattached) (inv.same hsame hclosed)

theorem answer (p : Port) (k : BitVec 16) (st : Status) (pl : List Byte) (fr : Option EntryName)
    (h : P s) : P (s.answer p k st pl fr) := inv.same (.answer s p k st pl fr) h

theorem refuse (p : Port) (k : BitVec 16) (h : P s) (st : Status) : P (s.refuse p k st) :=
  inv.same (.refuse s p k st) h

theorem addTaken (p : Port) (pl : List Byte) (k : BitVec 16) (h : P s) :
    P (State.addTaken p pl k s) := by
  unfold State.addTaken
  split
  · exact inv.refuse p k h _
  · next hpass =>
    split
    · exact inv.refuse p k h _
    · next f hf =>
      split
      · exact inv.refuse p k h _
      · exact inv.refuse p k h _
      · next i hgood hslot =>
        exact inv.answer _ _ _ _ _
          (inv.create s p i pl f (Option.not_isSome_iff_eq_none.mp hpass) hf hgood hslot h)

theorem stepTaken (p : Port) (pl : List Byte) (k : BitVec 16) (h : P s) :
    P (State.stepTaken p pl k s) := by
  unfold State.stepTaken
  split
  · exact inv.refuse p k h _
  · next target _ =>
    split
    · exact inv.refuse p k h _
    · next hpass =>
      split
      · exact inv.refuse p k h _
      · next now hnow =>
        exact inv.takeStep s _ now (target.newNow_le _ now hnow)
          (Option.not_isSome_iff_eq_none.mp hpass) h

theorem quotaTaken (p : Port) (pl : List Byte) (k : BitVec 16) (h : P s) :
    P (State.quotaTaken p pl k s) := by
  unfold State.quotaTaken
  split
  · exact inv.refuse p k h _
  · next q n hread =>
    split
    · exact inv.refuse p k h _
    · next huse =>
      have hn : n ≤ 64 := by
        unfold decodeQuota at hread
        simp only [Option.bind_eq_bind, Option.bind_eq_some_iff, Option.ite_none_right_eq_some,
          Option.some.injEq, Prod.mk.injEq] at hread
        obtain ⟨_, _, hle, _, rfl⟩ := hread
        exact hle
      exact inv.answer _ _ _ _ _ (inv.quota s q n hn (Nat.not_lt.mp huse) h)

/-- Every request keeps the property, once it has reached the block of its kind. -/
theorem taken (k : Kind) (p : Port) (pl : List Byte) (ticket : BitVec 16) (h : P s) :
    P (k.taken p pl ticket s) := by
  by_cases hk : k ∉ entryKinds
  · exact inv.same (k.taken_sameEntries hk p pl ticket s) h
  cases k with
  | attach =>
    change P (State.attachTaken p ticket s)
    unfold State.attachTaken
    split
    · exact inv.refuse p ticket h _
    · exact inv.answer _ _ _ _ _ (inv.openSession s p h)
  | detach =>
    refine inv.answer _ _ _ _ _ (inv.same (.mapPort _ p _ fun _ => rfl) (inv.detach p h))
  | step => exact inv.stepTaken p pl ticket h
  | entryAdd => exact inv.addTaken p pl ticket h
  | entryCancel =>
    exact s.ownEntry_induction P p pl ticket _ (inv.refuse p ticket h) fun i e _ _ _ =>
      inv.answer _ _ _ _ _ (inv.free s i h)
  | entryHold =>
    refine s.ownEntry_induction P p pl ticket _ (inv.refuse p ticket h) fun i e _ he _ => ?_
    split
    · next hstate => exact inv.answer _ _ _ _ _ (inv.hold s i e he hstate h)
    · exact inv.refuse p ticket h _
    · exact inv.refuse p ticket h _
  | entryResume =>
    refine s.ownEntry_induction P p pl ticket _ (inv.refuse p ticket h) fun i e _ he _ => ?_
    split
    · next hstate => exact inv.answer _ _ _ _ _ (inv.resume s i e he hstate h)
    · exact inv.refuse p ticket h _
    · exact inv.refuse p ticket h _
  | setQuota => exact inv.quotaTaken p pl ticket h
  | purgePort =>
    change P (State.purgeTaken p pl ticket s)
    unfold State.purgeTaken
    split
    · exact inv.refuse p ticket h _
    · split
      · exact inv.refuse p ticket h _
      · exact inv.answer _ _ _ _ _ (inv.purge p _ h)
  | setLinePolicy =>
    change P (State.policyTaken p pl ticket s)
    unfold State.policyTaken
    split
    · exact inv.refuse p ticket h _
    · next f _ =>
      dsimp only
      split
      · exact inv.refuse p ticket h _
      · next hfree => exact inv.answer _ _ _ _ _ (inv.policy s f hfree h)
  | _ => exact absurd (by decide) hk

theorem frame (p : Port) (bytes : List Byte) (f : PortIf → PortIf)
    (hf : ∀ i, (f i).session = i.session) (h : P s) : P (s.frame p bytes f) :=
  s.frame_keeps P p bytes f hf h (fun t _ hg => inv.same (.mapPort t p _ hg))
    fun _ _ => inv.same (.of_eq rfl rfl fun _ => rfl)

theorem request (k : Kind) (a : Arrival) (tag : Byte) (pl : List Byte) (h : P s) :
    P (s.request k a.port a.lags tag pl (k.block a.port pl)) := by
  refine s.request_keeps P k a.port a.lags tag pl _ h (fun t _ hg => inv.same (.mapPort t _ _ hg))
    (fun _ _ => inv.same (.of_eq rfl rfl fun _ => rfl)) fun ticket t ht => ?_
  unfold Kind.block
  split
  · unfold State.privileged
    split
    · exact inv.taken k a.port pl ticket ht
    · exact inv.refuse a.port ticket ht _
  · exact inv.taken k a.port pl ticket ht

/-! #### The events -/

theorem closeIfDone (h : P s) : P s.closeIfDone := by
  unfold State.closeIfDone
  split
  · exact h
  · exact inv.sweep s none (fun _ c => nomatch c) h

theorem openSweep (h : P s) : P s.openSweep := by
  have hsweep := s.openSweep_sweep
  rw [State.openSweep_frame]
  refine inv.sweep s s.openSweep.schedule.sweep (fun m hm => ?_) h
  rw [hsweep] at hm
  split at hm
  · next i js hpass hdue =>
    split at hm
    · exact ⟨hpass, (Option.some.inj hm).symm.trans hdue.symm⟩
    · cases hm
  · cases hm

theorem takeExpiry (h : P s) : P s.takeExpiry := by
  unfold State.takeExpiry
  split
  · exact inv.closeIfDone h
  · next i hhead =>
    split
    · exact inv.closeIfDone h
    · next e he => exact inv.closeIfDone (inv.expire s i e hhead he h)

theorem completePass (h : P s) : P s.completePass := by
  cases hpass : s.schedule.pass with
  | none => rwa [State.completePass_noPass s hpass]
  | some a =>
    have hfreed : P (s.passFreed a) := inv.freeAll _ (inv.answer _ _ _ _ _ h)
    have hnone (i : SlotIx) : (s.passFreed a).schedule.cancelPendingAt i = false := by
      unfold Schedule.cancelPendingAt
      rw [Schedule.entryAt, State.passFreed_slot]
      split
      · rfl
      · next hnot => exact Bool.eq_false_iff.mpr hnot
    have hsame : (s.passFreed a).schedule.pass = some a := by
      have hkeep : ∀ (is : List SlotIx) (t : State),
          (t.freeAll is).schedule.pass = t.schedule.pass := fun is => by
        unfold State.freeAll
        induction is with
        | nil => exact fun _ => rfl
        | cons i is ih =>
          refine fun t => (ih _).trans ?_
          unfold State.freeEntry
          split <;> rfl
      exact (hkeep _ _).trans hpass
    have hended := inv.endPass (s.passFreed a) a hsame hnone hfreed
    rw [State.completePass_eq s hpass]
    split
    · exact inv.openSweep hended
    · exact hended

theorem tellAdvance (h : P s) : P s.tellAdvance := by
  unfold State.tellAdvance
  split
  · next a hpass => exact inv.pass s a _ hpass rfl (inv.age s a hpass h) h
  · exact inv.openSweep h

theorem advance (h : P s) : P s.advance := by
  have hadvanced := inv.same (.advancedState s) h
  rw [State.advance_eq]
  split
  · exact inv.tellAdvance hadvanced
  · exact hadvanced

theorem countMicrosecond (hover : ¬ Overdue s) (h : P s) : P s.countMicrosecond := by
  have hdivided : P (s.mapTime Timebase.divide) := inv.same (.mapTime s _) h
  have haged : P ((s.mapTime Timebase.divide).mapSchedule Schedule.agePass) := by
    cases hpass : s.schedule.pass with
    | none =>
      have hsame : s.schedule.agePass = s.schedule := by
        rw [Schedule.agePass, hpass, Option.map_none, ← hpass]
      exact inv.same (SameEntries.of_eq (s := s.mapTime Timebase.divide) hsame rfl fun _ => rfl)
        hdivided
    | some a =>
      have hage : a.age + 1 ≤ 100 := by
        unfold Overdue at hover
        rw [hpass] at hover
        exact Nat.not_le.mp hover
      have haging : (s.mapTime Timebase.divide).mapSchedule Schedule.agePass =
          (s.mapTime Timebase.divide).mapSchedule fun c =>
            { c with pass := some { a with age := a.age + 1 } } := by
        unfold State.mapSchedule Schedule.agePass
        rw [State.mapTime_schedule, hpass, Option.map_some]
      rw [haging]
      exact inv.pass (s.mapTime Timebase.divide) a _ hpass rfl hage hdivided
  exact inv.same (.mapCapture _ _) haged

theorem microsecond (h : P s) : P s.microsecond := by
  have hready (t : State) (hover : ¬ Overdue t) (ht : P t) : P t.microsecond := by
    rw [State.microsecond_notOverdue t hover]
    split
    · exact inv.countMicrosecond hover ht
    · exact inv.advance (inv.countMicrosecond hover ht)
  by_cases hover : Overdue s
  · rw [State.microsecond_overdue s hover]
    exact hready _ s.not_overdue_completePass_noted
      (inv.same (.noted _) (inv.completePass h))
  · exact hready s hover h

theorem takeEdge (n : InputIx) (d : Edge) (h : P s) : P (s.takeEdge n d) := by
  have hcapture (f : Capture → Capture) : P (s.mapCapture f) := inv.same (.mapCapture s f) h
  unfold State.takeEdge
  split
  · exact h
  · split
    · unfold State.acceptEdge
      dsimp only
      have hover := inv.handOver _ n s.timebase.now (hcapture fun c =>
        { c with
          sequence := (s.newCapture n d).seq
          inputs := c.inputs.upd n fun x => { x with level := levelAfter d, sinceLast := some 0 } })
      have hnotices : ∀ (r : CaptureRecord) (c : Schedule) (is : List SlotIx) (u : State),
          SameEntries u (is.foldl (State.postTriggered r c) u) := fun r c is => by
        induction is with
        | nil => exact .refl
        | cons i is ih =>
          intro u
          refine SameEntries.trans ?_ (ih _)
          rw [State.postTriggered_frame]
          exact .of_eq rfl rfl fun _ => rfl
      refine inv.same (.of_eq (State.storeCapture_schedule _ _) (State.storeCapture_lines _ _)
        (State.attached_congr (State.storeCapture_ports _ _))) ?_
      exact inv.same (hnotices _ _ _ _) hover
    · exact hcapture _

theorem event (f : State → State) (hf : ∀ t, P t → P (f t)) (h : P s) : P (s.event f) := by
  unfold State.event
  split
  · exact h
  · exact hf _ (inv.same (.noted s) h)

theorem resetPort (p : Port) (h : P s) : P (s.resetPort p) := by
  have hnoted := inv.same (.noted s) h
  unfold State.resetPort
  split
  · exact inv.same (.mapPort s p _ fun _ => rfl) h
  · dsimp only
    refine inv.same (.mapPort _ p PortIf.clear fun _ => rfl) ?_
    split
    · exact inv.detach p hnoted
    · exact hnoted

/-! #### The other frames, and every command -/

theorem pollTaken (p : Port) (lags : List Nat) (n : Nat) (h : P s) : P (s.pollTaken p lags n) := by
  unfold State.pollTaken
  split
  all_goals exact inv.frame p _ _ (fun _ => rfl) h

theorem repeatTaken (p : Port) (lags : List Nat) (n : Nat) (h : P s) :
    P (s.repeatTaken p lags n) := by
  unfold State.repeatTaken
  split
  · exact inv.frame p _ _ (fun _ => rfl) h
  · exact inv.frame p _ _ (fun _ => rfl) h
  · split
    all_goals exact inv.frame p _ _ (fun _ => rfl) h

theorem pollNotTaken (p : Port) (lags : List Nat) (n : Nat) (h : P s) :
    P (s.pollNotTaken p lags n) := by
  have hframe := inv.frame p (s.statusBytes p lags 1 ++ s.freeBytes n) id (fun _ => rfl) h
  exact inv.same (SameEntries.of_eq (s := s.frame p _ id) rfl rfl fun _ => rfl) hframe

theorem badKind {t : State} (a : Arrival) (tag kind : Byte) (pl : List Byte) (h : P s)
    (e : execBadKind a tag kind pl s = .next t) : P t := by
  unfold execBadKind at e
  split at e
  · cases e
  · cases e
    unfold State.receive
    split
    · exact inv.frame _ _ _ (fun _ => rfl) h
    · split
      · exact inv.frame _ _ _ (fun _ => rfl) h
      · split
        · exact inv.frame _ _ _ (fun _ => rfl) h
        all_goals exact inv.same (.refuse _ _ _ _) (inv.frame _ _ _ (fun _ => rfl) h)

theorem faultyFrame {t : State} (a : Arrival) (bytes : List Byte) (h : P s)
    (e : execFaultyFrame a bytes s = .next t) : P t := by
  unfold execFaultyFrame at e
  split at e
  · cases e
    exact h
  · cases e
  · cases e
    split
    · exact inv.frame _ _ _ (fun _ => rfl) h
    · exact inv.frame _ _ _ (fun _ => rfl) h

theorem endReset (rank1 rank0 : Bool) (levels : InputSet) (h : P s) :
    P (s.endReset rank1 rank0 levels) := by
  unfold State.endReset
  split
  · exact inv.same (SameEntries.of_eq (s := s) rfl rfl fun _ => rfl) h
  · exact h

/-- Every command keeps the property. -/
theorem exec_keeps {t : State} (c : Instr) (h : P s) (e : exec c s = .next t) : P t := by
  cases c with
  | attach a tag pl => cases e; exact inv.request .attach a tag pl h
  | detach a tag pl => cases e; exact inv.request .detach a tag pl h
  | setAttention a tag pl => cases e; exact inv.request .setAttention a tag pl h
  | queryTime a tag pl => cases e; exact inv.request .queryTime a tag pl h
  | start a tag pl => cases e; exact inv.request .start a tag pl h
  | stop a tag pl => cases e; exact inv.request .stop a tag pl h
  | step a tag pl => cases e; exact inv.request .step a tag pl h
  | slew a tag pl => cases e; exact inv.request .slew a tag pl h
  | entryAdd a tag pl => cases e; exact inv.request .entryAdd a tag pl h
  | entryCancel a tag pl => cases e; exact inv.request .entryCancel a tag pl h
  | entryHold a tag pl => cases e; exact inv.request .entryHold a tag pl h
  | entryResume a tag pl => cases e; exact inv.request .entryResume a tag pl h
  | entryQuery a tag pl => cases e; exact inv.request .entryQuery a tag pl h
  | nextQuery a tag pl => cases e; exact inv.request .nextQuery a tag pl h
  | entryList a tag pl => cases e; exact inv.request .entryList a tag pl h
  | setQuota a tag pl => cases e; exact inv.request .setQuota a tag pl h
  | purgePort a tag pl => cases e; exact inv.request .purgePort a tag pl h
  | lineQuery a tag pl => cases e; exact inv.request .lineQuery a tag pl h
  | setLinePolicy a tag pl => cases e; exact inv.request .setLinePolicy a tag pl h
  | forceLine a tag pl => cases e; exact inv.request .forceLine a tag pl h
  | claim a tag pl => cases e; exact inv.request .claim a tag pl h
  | release a tag pl => cases e; exact inv.request .release a tag pl h
  | renew a tag pl => cases e; exact inv.request .renew a tag pl h
  | queryAuthority a tag pl => cases e; exact inv.request .queryAuthority a tag pl h
  | setGrace a tag pl => cases e; exact inv.request .setGrace a tag pl h
  | setCapture a tag pl => cases e; exact inv.request .setCapture a tag pl h
  | subscribe a tag pl => cases e; exact inv.request .subscribe a tag pl h
  | readCaptures a tag pl => cases e; exact inv.request .readCaptures a tag pl h
  | fetchNotices a tag pl => cases e; exact inv.request .fetchNotices a tag pl h
  | ackNotices a tag pl => cases e; exact inv.request .ackNotices a tag pl h
  | badKind a tag kind pl => exact inv.badKind a tag kind pl h e
  | poll a clocked =>
    cases e
    split
    · exact inv.pollNotTaken _ _ _ h
    · exact inv.pollTaken _ _ _ h
  | repeatFrame a clocked =>
    cases e
    split
    · exact inv.pollNotTaken _ _ _ h
    · exact inv.repeatTaken _ _ _ h
  | faultyFrame a bytes => exact inv.faultyFrame a bytes h e
  | portReset p => cases e; exact inv.resetPort p h
  | portResetRelease p =>
    cases e
    exact inv.same (.mapPort _ p _ fun _ => rfl)
      (inv.same (SameEntries.of_eq (s := s) rfl rfl fun _ => rfl) h)
  | fullReset cause => cases e; exact inv.reset s cause h
  | fullResetEnd rank1 rank0 levels => cases e; exact inv.endReset rank1 rank0 levels h
  | referenceMicrosecond => cases e; exact inv.event _ (fun _ => inv.microsecond) h
  | referenceMillisecond => cases e; exact inv.event _ (fun t => inv.same (.millisecond t)) h
  | slewDone =>
    cases e
    refine inv.event _ (fun t ht => ?_) h
    split
    · exact inv.microsecond ht
    · exact ht
  | leaseExpiry =>
    cases e
    refine inv.event _ (fun t ht => ?_) h
    split
    · exact inv.same (.millisecond t) ht
    · exact ht
  | graceExpiry =>
    cases e
    refine inv.event _ (fun t ht => ?_) h
    split
    · exact inv.same (.millisecond t) ht
    · exact ht
  | captureEdge n edge => cases e; exact inv.event _ (fun _ => inv.takeEdge n edge) h
  | expiry => cases e; exact inv.event _ (fun _ => inv.takeExpiry) h
  | pulseEnd l =>
    cases e
    refine inv.event _ (fun t ht => ?_) h
    split
    · refine inv.same (s := t) ⟨rfl, fun k => ?_, fun _ => rfl⟩ ht
      rw [State.mapLine_lines, Table.get_upd]
      split
      · next hl => rw [hl]; rfl
      · rfl
    · exact ht
  | passComplete => cases e; exact inv.event _ (fun _ => inv.completePass) h

/-- Every step keeps the property. -/
theorem step_keeps {t : State} (h : P s) (e : step s = .next t) : P t := by
  unfold step at e
  split at e
  · next c rest _ =>
    have htaken : SameEntries s { s with pending := rest } :=
      .of_eq rfl rfl fun _ => rfl
    exact inv.exec_keeps c (inv.same htaken h) e
  · split at e
    · exact inv.exec_keeps _ h e
    · cases e
      unfold State.refclkPeriod
      split
      · exact h
      · exact inv.same (.mapTime s _) h

end ScheduleInvariant

end Sys2Proof.Machine

/-! PROOFS. The due list and the waiting lists through every step (R30, R31, R51). -/

namespace Sys2Proof.Machine

/-! ### What a readable ENTRY_ADD holds (R35) -/

/-- The fields of a readable ENTRY_ADD are in range (R35). -/
structure AddFields.Wf (f : AddFields) : Prop where
  time : f.time ≤ maxNow
  input : f.trigger = .onCapture ↔ f.input.isSome = true
  actions : f.actions.length ≤ 4 ∧ (f.actions.map LineAction.line).Nodup
  widths : ∀ a ∈ f.actions,
    if a.kind = .pulse then ∃ w ∈ a.width, 1 ≤ w ∧ w ≤ 1048575 else a.width = none

/-- A line action has a width exactly where it is a PULSE, and then one in range (R35). -/
theorem decodeAction_width (pl : List Byte) (j : Nat) (a : LineAction)
    (h : decodeAction pl j = some a) :
    if a.kind = .pulse then ∃ w ∈ a.width, 1 ≤ w ∧ w ≤ 1048575 else a.width = none := by
  unfold decodeAction at h
  simp only [Option.bind_eq_bind, Option.bind_eq_some_iff] at h
  obtain ⟨line, -, kind, -, h⟩ := h
  cases kind with
  | pulse =>
    simp only [Option.ite_none_right_eq_some, Option.some.injEq] at h
    obtain ⟨hwidth, rfl⟩ := h
    exact (if_pos rfl).mpr ⟨_, rfl, hwidth⟩
  | assert | release | invert =>
    cases h
    exact (if_neg nofun).mpr rfl

/-- The input is read for ON_CAPTURE alone (R35). -/
theorem addInput_isSome (pl : List Byte) (trigger : Trigger) (input : Option InputIx)
    (h : addInput pl trigger = some input) : trigger = .onCapture ↔ input.isSome = true := by
  cases trigger with
  | absolute | offset =>
    cases h
    exact iff_of_false nofun Bool.false_ne_true
  | onCapture =>
    obtain ⟨n, -, rfl⟩ := Option.map_eq_some_iff.mp h
    exact iff_of_true rfl rfl

theorem decodeAdd_wf (pl : List Byte) (f : AddFields) (h : decodeAdd pl = some f) : f.Wf := by
  rw [decodeAdd_eq] at h
  simp only [Option.bind_eq_some_iff] at h
  obtain ⟨trigger, -, input, hinput, late, -, hrest⟩ := h
  unfold addRest at hrest
  simp only [Option.bind_eq_some_iff, Option.ite_none_left_eq_some, Option.some.injEq] at hrest
  obtain ⟨_, -, _, -, _, -, _, -, -, hcount, actions, hread, hnodup, -, rfl⟩ := hrest
  have hread := mapM_some _ _ _ hread
  have hlength := hread.length_eq
  rw [List.length_range] at hlength
  refine ⟨?_, addInput_isSome pl trigger input hinput, ⟨?_, not_not.mp hnodup⟩, fun a ha => ?_⟩
  · have hlt := natAt_lt pl 1 6
    change natAt pl 1 6 ≤ maxNow
    unfold maxNow
    omega
  · change actions.length ≤ 4
    omega
  · obtain ⟨k, hk, hget⟩ := List.mem_iff_getElem.mp (show a ∈ actions from ha)
    have hstep := hread.get (i := k) (by rw [List.length_range]; omega) hk
    rw [List.get_eq_getElem, List.get_eq_getElem, hget] at hstep
    exact decodeAction_width pl _ a hstep

/-- A new entry waits exactly where its trigger is ON_CAPTURE, that is where it has an input (R38). -/
theorem AddFields.Wf.state_waiting {f : AddFields} (h : f.Wf) :
    f.state = .waiting ↔ f.input.isSome = true := by
  rw [← h.input]
  unfold AddFields.state
  cases f.trigger <;> simp

theorem AddFields.state_scheduled (f : AddFields) : f.state = .scheduled ↔ f.state ≠ .waiting := by
  unfold AddFields.state
  cases f.trigger <;> simp

/-! ### The schedule after one expiry (R55 to R61) -/

/-- An entry that has left the due list is freed as one that has not. -/
theorem Schedule.free_leaveDueList (c : Schedule) (i : SlotIx) (p : Port) :
    (c.leaveDueList i).free i p = c.free i p := by
  unfold Schedule.free Schedule.leaveWaiting Schedule.leaveDueList
  simp [Function.comp_def, List.filter_filter]

/-- The schedule of an entry that goes on after its expiry (R55, R59). -/
def Schedule.repeatEntry (c : Schedule) (i : SlotIx) (due left skipped : Nat) : Schedule :=
  ((c.leaveDueList i).mapEntry i fun x => x.repeated due left skipped).place i

/-- What the expiry of an entry that goes on leaves of the schedule (R55 to R59). -/
theorem State.expireEntry_schedule_again (s : State) (i : SlotIx) (e : Entry) {due left skipped : Nat}
    (hnext : repetition (s.schedule.dueAt i) e.period e.repeatsLeft s.timebase.now =
      .again due left skipped) :
    (s.expireEntry i e).schedule = s.schedule.repeatEntry i due left skipped := by
  unfold State.expireEntry
  dsimp only
  rw [hnext]
  dsimp only
  rw [State.postFired_schedule, State.mapSchedule_schedule, State.lineActions_schedule]
  rfl

/-- What the expiry of an entry that ends leaves of the schedule (R58, R61). -/
theorem State.expireEntry_schedule_ends (s : State) (i : SlotIx) (e : Entry) {skipped : Nat}
    {range : Bool} (he : s.schedule.entryAt i = some e)
    (hnext : repetition (s.schedule.dueAt i) e.period e.repeatsLeft s.timebase.now =
      .ends skipped range) :
    (s.expireEntry i e).schedule = s.schedule.free i e.owner := by
  have hfreed (u : State) (hu : u.schedule = s.schedule.leaveDueList i) :
      (u.freeEntry i).schedule = s.schedule.free i e.owner := by
    rw [State.freeEntry_some u i e (by rw [hu]; exact he), hu, Schedule.free_leaveDueList]
  unfold State.expireEntry
  dsimp only
  rw [hnext]
  dsimp only
  split
  · rw [State.postCancelled_schedule]
    exact hfreed _ (by rw [State.postFired_schedule, State.lineActions_schedule]; rfl)
  · exact hfreed _ (by rw [State.postFired_schedule, State.lineActions_schedule]; rfl)

/-! ### The lists through each procedure -/

/-- A HELD entry stands in no list, and leaving the due list is all that ENTRY_HOLD does to it (R41). -/
theorem ListsWf.hold {s : State} (h : ListsWf s) {i : SlotIx} {e : Entry}
    (he : s.schedule.entryAt i = some e) (hstate : e.state = .scheduled) :
    ListsWf (s.mapSchedule fun c =>
      (c.leaveDueList i).mapEntry i fun x => { x with state := .held }) := by
  have hentry (j : SlotIx) :
      (((s.schedule.leaveDueList i).mapEntry i fun x => { x with state := .held }).entryAt j) =
        if i = j then some { e with state := .held } else s.schedule.entryAt j := by
    rw [Schedule.mapEntry_entryAt]
    by_cases hj : i = j
    · subst hj
      rw [if_pos rfl, if_pos rfl, Schedule.entryAt, Schedule.leaveDueList_slots]
      exact congrArg (Option.map _) he
    · rw [if_neg hj, if_neg hj, Schedule.entryAt, Schedule.leaveDueList_slots]
      rfl
  refine h.replaced he hentry nofun (List.Perm.refl _) (fun hp => ?_) (fun n => ?_) rfl rfl
  · refine Schedule.ordered_congr ((h.ordered hp).filter _) fun j hj => ?_
    exact Schedule.dueAt_congr ((hentry j).trans (if_neg fun c => (mem_filter_ne.mp hj).2 c.symm))
  · exact (filter_ne_eq_self (h.not_mem_waiting n he (by simp [hstate]))).symm

/-- An entry that stands in no due list is placed in it, with another record (R30). -/
theorem ListsWf.placed {s : State} (h : ListsWf s) {i : SlotIx} {old e : Entry} {d : Schedule}
    (hs : s.schedule.entryAt i = some old)
    (hentry : ∀ j, d.entryAt j = if i = j then some e else s.schedule.entryAt j)
    (hstate : e.state = .scheduled)
    (hdue : d.dueList = s.schedule.dueList.filter (· ≠ i))
    (hwaiting : ∀ n, d.waiting.get n = (s.schedule.waiting.get n).filter (· ≠ i))
    (hsweep : d.sweep = s.schedule.sweep.map fun m => m.filter (· ≠ i))
    (hpass : d.pass = s.schedule.pass) : ListsWf (s.mapSchedule fun _ => d.place i) := by
  refine h.replaced hs hentry (by rw [hstate]; nofun) ?_ (fun hp => ?_) hwaiting hsweep hpass
  · rw [if_pos hstate, ← hdue]
    exact d.place_perm i
  · refine d.place_ordered i hp ?_
    rw [hdue]
    refine Schedule.ordered_congr ((h.ordered (hpass ▸ hp)).filter _) fun j hj => ?_
    exact Schedule.dueAt_congr ((hentry j).trans (if_neg fun c => (mem_filter_ne.mp hj).2 c.symm))

/-- ENTRY_RESUME places a HELD entry (R42). -/
theorem ListsWf.resume {s : State} (h : ListsWf s) {i : SlotIx} {e : Entry}
    (he : s.schedule.entryAt i = some e) (hstate : e.state = .held) :
    ListsWf (s.mapSchedule fun c =>
      (c.mapEntry i fun x => { x with state := .scheduled }).place i) := by
  have hnotDue : i ∉ s.schedule.dueList := h.not_mem_dueList he (by rw [hstate]; nofun)
  refine h.placed (d := s.schedule.mapEntry i fun x => { x with state := .scheduled })
    (e := { e with state := .scheduled }) he (fun j => ?_) rfl
    (filter_ne_eq_self hnotDue).symm (fun n => ?_) ?_ rfl
  · rw [Schedule.mapEntry_entryAt]
    split
    · next hj => rw [← hj, he]; rfl
    · rfl
  · exact (filter_ne_eq_self (h.not_mem_waiting n he (by simp [hstate]))).symm
  · rw [Schedule.mapEntry_sweep]
    cases hm : s.schedule.sweep with
    | none => rfl
    | some m =>
      exact congrArg some (filter_ne_eq_self fun c => hnotDue ((h.sweep m hm).2 i c)).symm

/-- An expiry keeps the lists well formed (R55 to R61). -/
theorem ListsWf.expire {s : State} (h : ListsWf s) {i : SlotIx} {e : Entry}
    (hhead : s.sweepHead = some i) (he : s.schedule.entryAt i = some e) :
    ListsWf (s.expireEntry i e) := by
  obtain ⟨-, -, hdue, -⟩ := (s.sweepHead_some i).mp hhead
  have hstate : e.state = .scheduled := by
    obtain ⟨x, hx, hscheduled⟩ := h.scheduled_of_mem (List.mem_of_mem_head? hdue)
    cases he.symm.trans hx
    exact hscheduled
  cases hnext : repetition (s.schedule.dueAt i) e.period e.repeatsLeft s.timebase.now with
  | ends skipped range =>
    refine (h.freeEntry i).of_schedule_eq ?_
    rw [s.expireEntry_schedule_ends i e he hnext, State.freeEntry_some s i e he]
  | again due left skipped =>
    refine ListsWf.of_schedule_eq (h.placed (e := e.repeated due left skipped)
      (d := (s.schedule.leaveDueList i).mapEntry i fun x => x.repeated due left skipped) he
      (fun j => ?_) hstate rfl (fun n => ?_) rfl rfl) (s.expireEntry_schedule_again i e hnext)
    · rw [Schedule.mapEntry_entryAt, Schedule.entryAt, Schedule.leaveDueList_slots]
      split
      · next hj => rw [← hj]; exact congrArg (Option.map _) he
      · rfl
    · exact (filter_ne_eq_self (h.not_mem_waiting n he (by simp [hstate]))).symm

/-- A new entry takes its place in the due list or in a waiting list (R38). -/
theorem ListsWf.create {s : State} (h : ListsWf s) (p : Port) (i : SlotIx) (f : AddFields)
    (hpass : s.schedule.pass = none) (hf : f.Wf) (hfree : s.schedule.entryAt i = none) :
    ListsWf (s.createEntry p i f) := by
  have hwaits : (f.entry p s.timebase.now).state = .waiting ↔ f.input.isSome = true :=
    hf.state_waiting
  have hnotDue : i ∉ s.schedule.dueList := fun c => by
    obtain ⟨x, hx, -⟩ := h.scheduled_of_mem c
    exact nomatch hfree.symm.trans hx
  have hentry {d : Schedule} (hd : d.slots = s.schedule.slots.upd i fun sl =>
      { sl with entry := some (f.entry p s.timebase.now) }) (j : SlotIx) :
      d.entryAt j = if i = j then some (f.entry p s.timebase.now) else s.schedule.entryAt j := by
    rw [Schedule.entryAt, hd, Table.get_upd]
    split <;> rfl
  have hkept {d : Schedule} (hd : d.slots = s.schedule.slots.upd i fun sl =>
      { sl with entry := some (f.entry p s.timebase.now) }) :
      s.schedule.dueList.Pairwise fun j k => d.dueAt j ≤ d.dueAt k :=
    Schedule.ordered_congr (h.ordered hpass) fun j hj =>
      Schedule.dueAt_congr ((hentry hd j).trans (if_neg fun (c : i = j) => hnotDue (c ▸ hj)))
  unfold State.createEntry
  cases hinput : f.input with
  | some n =>
    have hstate := hwaits.mpr (by rw [hinput]; rfl)
    refine h.inserted i (f.entry p s.timebase.now) hfree (hentry rfl) ?_ (fun _ => hkept rfl)
      (fun _ => by rw [AddFields.entry, hinput]; rfl) (fun m => ?_) rfl rfl
    · rw [if_neg (by rw [hstate]; nofun)]
      exact List.Perm.refl _
    · have hm : (f.entry p s.timebase.now).input = some m ↔ n = m := by
        rw [AddFields.entry, hinput, Option.some.injEq]
      simp only [hstate, hm, true_and]
      rw [Schedule.enlist, Table.get_upd]
      split
      · next e => rw [e]
      · rfl
  | none =>
    have hstate : (f.entry p s.timebase.now).state ≠ .waiting := fun c => by
      have hsome := hwaits.mp c
      rw [hinput] at hsome
      cases hsome
    have hscheduled : (f.entry p s.timebase.now).state = .scheduled :=
      f.state_scheduled.mpr hstate
    refine h.inserted i (f.entry p s.timebase.now) hfree (hentry rfl) ?_ (fun hp => ?_)
      (fun c => absurd c hstate) (fun m => ?_) rfl rfl
    · rw [if_pos hscheduled]
      exact Schedule.place_perm _ i
    · exact Schedule.place_ordered _ i hp (hkept rfl)
    · exact (if_neg fun c => hstate c.1).symm

/-- What the lists read of an entry after a step: it stays, or an entry that does not wait is freed
(R63 to R66). -/
theorem steppedSlot_standing (delta : Int) (sl : Slot) :
    (steppedSlot delta sl).entry.map (fun e => (e.state, e.input)) =
        sl.entry.map (fun e => (e.state, e.input))
      ∨ (steppedSlot delta sl).entry = none ∧ sl.entry.map Entry.state ≠ some .waiting := by
  cases he : sl.entry with
  | none => exact .inl (by rw [steppedSlot_empty delta sl he, he])
  | some e =>
    cases hr : stepReason delta e with
    | none =>
      left
      rw [steppedSlot_kept delta sl e he hr]
      split
      · rfl
      · rw [he]
    | some r =>
      right
      rw [steppedSlot_freed delta sl e r he hr]
      refine ⟨rfl, fun c => ?_⟩
      have hstate : e.state = .waiting := Option.some.inj c
      simp [stepReason, hstate] at hr

/-- A step thins the due list and closes the sweep (R52, R63). -/
theorem ListsWf.takeStep {s : State} (h : ListsWf s) (w : Waiter) (now : Nat) :
    ListsWf (s.takeStep w now) := by
  have hschedule := s.takeStep_schedule_of_listsWf w now h
  have hstand (i : SlotIx) := steppedSlot_standing
    ((now : Int) - (s.timebase.now : Int)) (s.schedule.slots.get i)
  simp only [← s.takeStep_slot w now] at hstand
  generalize s.takeStep w now = t at hschedule hstand
  have hsame {i : SlotIx} {x : Entry} (hx : t.schedule.entryAt i = some x) :
      ∃ e, s.schedule.entryAt i = some e ∧ e.state = x.state ∧ e.input = x.input := by
    rcases hstand i with hmap | ⟨hnone, -⟩
    · change (t.schedule.entryAt i).map _ = (s.schedule.entryAt i).map _ at hmap
      rw [hx, Option.map_some, eq_comm, Option.map_eq_some_iff] at hmap
      obtain ⟨e, he, hpair⟩ := hmap
      exact ⟨e, he, Prod.mk.inj hpair⟩
    · exact nomatch hx.symm.trans hnone
  have hpass : t.schedule.pass ≠ none := by rw [hschedule]; nofun
  have hdue : t.schedule.dueList =
      s.schedule.dueList.filter fun i => (t.schedule.entryAt i).isSome :=
    congrArg Schedule.dueList hschedule
  have hwaiting : t.schedule.waiting = s.schedule.waiting := by rw [hschedule]
  refine ⟨hdue ▸ h.dueOnce.filter _, fun i => ?_, fun n => hwaiting ▸ h.waitingOnce n, fun n i => ?_,
    fun i x hx hw => ?_, fun c => absurd c hpass, fun m hm => ?_, fun a ha => ?_⟩
  · rw [hdue, List.mem_filter, h.due]
    cases hx : t.schedule.entryAt i with
    | none => exact iff_of_false (fun c => Bool.false_ne_true c.2) nofun
    | some x =>
      obtain ⟨e, he, hstate, -⟩ := hsame hx
      rw [he, Option.map_some, Option.map_some, hstate]
      exact and_iff_left rfl
  · rw [hwaiting, h.waiting]
    rcases hstand i with hmap | ⟨hnone, hnot⟩
    · exact Eq.to_iff (congrArg (· = _) hmap.symm)
    · refine iff_of_false (fun c => hnot ?_) fun c => ?_
      · obtain ⟨e, he, hpair⟩ := Option.map_eq_some_iff.mp c
        change (s.schedule.entryAt i).map _ = _
        rw [he, Option.map_some, (Prod.mk.inj hpair).1]
      · rw [Schedule.entryAt, hnone] at c
        cases c
  · obtain ⟨e, he, hstate, hinput⟩ := hsame hx
    rw [← hinput]
    exact h.inputs i e he (hstate.trans hw)
  · rw [hschedule] at hm
    cases hm
  · rw [hschedule] at ha
    cases ha
    refine ⟨?_, Nat.zero_le _⟩
    exact List.countP_le_length.trans (by rw [indices, List.length_finRange])

/-! ### The hand-over of a waiting list (R32) -/

/-- The part with slots put back at the head of the waiting list of an input: a hand-over that has still to
take them. -/
def State.awaiting (s : State) (n : InputIx) (is : List SlotIx) : State :=
  s.mapSchedule fun c => { c with waiting := c.waiting.upd n (is ++ ·) }

theorem State.awaiting_waiting (s : State) (n : InputIx) (is : List SlotIx) (m : InputIx) :
    (s.awaiting n is).schedule.waiting.get m =
      if n = m then is ++ s.schedule.waiting.get n else s.schedule.waiting.get m :=
  Table.get_upd _ _ _ _

/-- The waiting lists once the first slot that is put back has gone. -/
theorem ListsWf.awaiting_tail {s : State} {n : InputIx} {i : SlotIx} {is : List SlotIx}
    (h : ListsWf (s.awaiting n (i :: is))) {t : State}
    (ht : ∀ m, t.schedule.waiting.get m = (s.schedule.waiting.get m).filter (· ≠ i)) (m : InputIx) :
    (t.awaiting n is).schedule.waiting.get m =
      ((s.awaiting n (i :: is)).schedule.waiting.get m).filter (· ≠ i) := by
  have honce := h.waitingOnce n
  rw [State.awaiting_waiting, if_pos rfl, List.cons_append, List.nodup_cons] at honce
  obtain ⟨hnot, -⟩ := honce
  rw [State.awaiting_waiting, State.awaiting_waiting, ht, ht]
  split
  · rw [List.cons_append, List.filter_cons_of_neg (by simp), List.filter_append,
      filter_ne_eq_self fun c => hnot (List.mem_append_left _ c)]
  · rfl

/-- One entry of the list is handed over (R32). -/
theorem ListsWf.handOverOne {s : State} {n : InputIx} {i : SlotIx} {is : List SlotIx} (stamp : Nat)
    (h : ListsWf (s.awaiting n (i :: is))) : ListsWf ((s.handOverOne stamp i).awaiting n is) := by
  have hmem : i ∈ (s.awaiting n (i :: is)).schedule.waiting.get n := by
    rw [State.awaiting_waiting, if_pos rfl]
    exact List.mem_append_left _ List.mem_cons_self
  obtain ⟨e, he, hstate, hinput⟩ := h.waiting_of_mem hmem
  have hnotDue := h.not_mem_dueList he (by rw [hstate]; nofun)
  have hnotWaiting (m : InputIx) (hm : m ≠ n) : i ∉ s.schedule.waiting.get m := fun c => by
    refine h.not_mem_waiting m he (fun hw => hm ?_) ?_
    · exact (Option.some.inj (hinput.symm.trans hw.2)).symm
    · rwa [State.awaiting_waiting, if_neg fun e => hm e.symm]
  have honce := h.waitingOnce n
  rw [State.awaiting_waiting, if_pos rfl, List.cons_append, List.nodup_cons] at honce
  obtain ⟨hnot, -⟩ := honce
  have he' : s.schedule.entryAt i = some e := he
  unfold State.handOverOne
  rw [he']
  dsimp only
  split
  · have hschedule : (s.freeAndTell i .timeRange).schedule = s.schedule.free i e.owner := by
      rw [(s.freeAndTell_freed i .timeRange).1, State.freeEntry_some s i e he']
    refine h.evicted i (fun j => ?_) ?_ (h.awaiting_tail fun m => ?_) ?_ ?_
    · change (s.freeAndTell i .timeRange).schedule.entryAt j = _
      rw [hschedule, Schedule.free_entryAt]
      rfl
    · change (s.freeAndTell i .timeRange).schedule.dueList = _
      rw [hschedule, Schedule.free_dueList]
      rfl
    · rw [hschedule, Schedule.free_waiting, Table.get_map]
    · change (s.freeAndTell i .timeRange).schedule.sweep = _
      rw [hschedule, Schedule.free_sweep]
      rfl
    · change (s.freeAndTell i .timeRange).schedule.pass = _
      rw [hschedule, Schedule.free_pass]
      rfl
  · let x : Entry := { e with due := some (stamp + e.captureOffset.getD 0), state := .scheduled }
    let d : Schedule := s.schedule.mapEntry i fun x =>
      { x with due := some (stamp + e.captureOffset.getD 0), state := .scheduled }
    let u : State := (s.mapSchedule fun _ => d).awaiting n is
    refine ListsWf.of_schedule_eq (s := (s.awaiting n (i :: is)).mapSchedule fun _ =>
      u.schedule.place i) (h.placed (e := x) he (fun j => ?_) rfl (filter_ne_eq_self hnotDue).symm
        (h.awaiting_tail (t := s.mapSchedule fun _ => d) fun m => ?_) ?_ rfl) rfl
    · change d.entryAt j = _
      rw [Schedule.mapEntry_entryAt]
      split
      · next hj => rw [← hj, he']; rfl
      · rfl
    · refine (filter_ne_eq_self ?_).symm
      by_cases hm : m = n
      · subst hm
        exact fun c => hnot (List.mem_append_right _ c)
      · exact hnotWaiting m hm
    · change s.schedule.sweep = s.schedule.sweep.map _
      cases hs : s.schedule.sweep with
      | none => rfl
      | some w =>
        exact congrArg some (filter_ne_eq_self fun c => hnotDue ((h.sweep w hs).2 i c)).symm

/-- No slot put back is no change. -/
theorem State.awaiting_nil (s : State) (n : InputIx) : (s.awaiting n []).schedule = s.schedule := by
  have hwaiting : (s.awaiting n []).schedule.waiting = s.schedule.waiting :=
    Table.ext_get fun m => by
      rw [State.awaiting_waiting]
      split
      · next hm => rw [hm, List.nil_append]
      · rfl
  change { s.schedule with waiting := (s.awaiting n []).schedule.waiting } = s.schedule
  rw [hwaiting]

/-- The part with the waiting list of an input emptied, as a hand-over begins (R32). -/
def State.emptied (s : State) (n : InputIx) : State :=
  s.mapSchedule fun c => { c with waiting := c.waiting.set n [] }

/-- As a hand-over begins, the whole list is still to be taken. -/
theorem State.emptied_awaiting (s : State) (n : InputIx) :
    ((s.emptied n).awaiting n (s.schedule.waiting.get n)).schedule = s.schedule := by
  have hwaiting : (s.schedule.waiting.set n []).upd n (s.schedule.waiting.get n ++ ·) =
      s.schedule.waiting := Table.ext_get fun m => by
    rw [Table.get_upd, Table.get_set_self, List.append_nil]
    split
    · next hm => rw [hm]
    · next hm => rw [Table.get_set_ne _ hm]
  change { s.schedule with
    waiting := (s.schedule.waiting.set n []).upd n (s.schedule.waiting.get n ++ ·) } = s.schedule
  rw [hwaiting]

theorem ListsWf.handOver {s : State} (h : ListsWf s) (n : InputIx) (stamp : Nat) :
    ListsWf (s.handOver n stamp) := by
  have hloop (is : List SlotIx) (u : State) (hu : ListsWf (u.awaiting n is)) :
      ListsWf (is.foldl (State.handOverOne stamp) u) := by
    induction is generalizing u with
    | nil => exact hu.of_schedule_eq (u.awaiting_nil n).symm
    | cons i is ih => exact ih _ (hu.handOverOne stamp)
  exact hloop _ _ (h.of_schedule_eq (s.emptied_awaiting n))

/-! ### Every step -/

/-- A change of the entries that the lists do not read keeps them well formed. -/
theorem ListsWf.of_entries {s t : State} (h : ListsWf s)
    (hentry : ∀ i, (t.schedule.entryAt i).map Entry.standing =
      (s.schedule.entryAt i).map Entry.standing)
    (hrest : t.schedule = { s.schedule with slots := t.schedule.slots }) : ListsWf t := by
  have hpass : t.schedule.pass = s.schedule.pass := by rw [hrest]
  have hdue : t.schedule.dueList = s.schedule.dueList := by rw [hrest]
  refine h.of_standing hentry hdue (by rw [hrest]) (fun hp => hpass ▸ hp) (fun m hm => ?_)
    fun a ha => h.pass a (hpass ▸ ha)
  rw [hpass, hdue]
  exact h.sweep m (by rw [hrest] at hm; exact hm)

/-- An entry once port `p` has attached: an orphan of `p` is re-adopted (R179). -/
def Entry.readopted (p : Port) (e : Entry) : Entry :=
  if e.readoptable p then { e with orphaned := false } else e

/-- The entries after an attach (R179). -/
theorem State.openSession_entryAt (s : State) (p : Port) (i : SlotIx) :
    (s.openSession p).schedule.entryAt i = (s.schedule.entryAt i).map (Entry.readopted p) :=
  congrArg Slot.entry (Table.get_map _ _ i)

/-- No list reads whether an entry is an orphan (R179). -/
theorem ListsWf.openSession {s : State} (h : ListsWf s) (p : Port) : ListsWf (s.openSession p) := by
  refine h.of_entries (fun i => ?_) rfl
  have hstanding (e : Entry) : (e.readopted p).standing = e.standing := by
    unfold Entry.readopted
    split <;> rfl
  rw [s.openSession_entryAt, Option.map_map]
  exact congrArg (Option.map · _) (funext hstanding)

theorem ListsWf.mapEntry {s : State} (h : ListsWf s) (i : SlotIx) (f : Entry → Entry)
    (hf : ∀ e, (f e).standing = e.standing) : ListsWf (s.mapSchedule fun c => c.mapEntry i f) := by
  refine h.of_entries (fun j => ?_) rfl
  rw [State.mapSchedule_schedule, Schedule.mapEntry_entryAt]
  split
  · rw [Option.map_map]
    exact congrArg (Option.map · _) (funext hf)
  · rfl

theorem ListsWf.orphanOne {s : State} (h : ListsWf s) (i : SlotIx) : ListsWf (s.orphanOne i) := by
  unfold State.orphanOne
  split
  · exact h
  · split
    · exact h.mapEntry i _ fun _ => rfl
    · split
      · exact h.mapEntry i _ fun _ => rfl
      · exact h.freeEntry i

/-- The completion of a pass puts the due list in order (R69, R74). -/
theorem ListsWf.endPass {s : State} (h : ListsWf s) {a : Pass} (hpass : s.schedule.pass = some a) :
    ListsWf (s.mapSchedule fun c =>
      { c with pass := none, dueList := rebuildByKey c.dueAt c.dueList }) := by
  have hperm := rebuildByKey_perm s.schedule.dueAt s.schedule.dueList
  exact {
    dueOnce := hperm.nodup_iff.mpr h.dueOnce
    due := fun i => hperm.mem_iff.trans (h.due i)
    waitingOnce := h.waitingOnce
    waiting := h.waiting
    inputs := h.inputs
    ordered := fun _ => rebuildByKey_ordered _ _
    sweep := fun m hm => nomatch hpass.symm.trans (h.sweep m hm).1
    pass := nofun }

theorem scheduleInvariant_listsWf : ScheduleInvariant ListsWf where
  same hsame h := h.of_schedule_eq hsame.schedule
  openSession _ p h := h.openSession p
  closeSession _ _ h := h.of_schedule_eq rfl
  orphan _ i _ h := h.orphanOne i
  takeStep _ w now _ _ h := h.takeStep w now
  create s p i pl f hpass hread _ hslot h :=
    h.create p i f hpass (decodeAdd_wf pl f hread) (s.schedule.freeSlot_some i hslot).1
  free _ i h := h.freeEntry i
  hold _ _ _ he hstate h := h.hold he hstate
  resume _ _ _ he hstate h := h.resume he hstate
  quota _ _ _ _ _ h := h.of_standing (fun _ => rfl) rfl rfl id h.sweep h.pass
  policy _ _ _ h := h.of_schedule_eq rfl
  reset _ _ _ := listsWf_reset.of_schedule_eq rfl
  handOver _ n stamp h := h.handOver n stamp
  expire _ _ _ hhead he h := h.expire hhead he
  sweep _ v hv h := h.of_standing (fun _ => rfl) rfl rfl id
    (fun m hm => ⟨(hv m hm).1, fun i hi => (hv m hm).2 ▸ hi⟩) h.pass
  pass s a b hpass hcancelled hage h := h.of_standing (fun _ => rfl) rfl rfl nofun
    (fun m hm => nomatch hpass.symm.trans (h.sweep m hm).1)
    fun x hx => by
      cases hx
      exact ⟨hcancelled ▸ (h.pass a hpass).1, hage⟩
  endPass _ _ hpass _ h := h.endPass hpass
  age _ a hpass h := (h.pass a hpass).2

/-- Settles O59: the lists are a property that every procedure of the schedule keeps. -/
theorem stepsKeepTheLists : Obligations.StepsKeepTheLists := by
  unfold Obligations.StepsKeepTheLists
  intro s t h hstep
  exact scheduleInvariant_listsWf.step_keeps h hstep

end Sys2Proof.Machine

/-! PROOFS. What usage, references and exclusive holders count, once entries have left or one has come (R33, R87 to R89). -/

namespace Sys2Proof.Machine

/-! ### Counts of entries -/

/-- A count of entries is a sum over the slots. -/
theorem Schedule.count_eq_sum (c : Schedule) (test : Entry → Bool) :
    c.count test =
      ((indices 64).map fun i => (c.entryAt i).elim 0 fun e => if test e then 1 else 0).sum := by
  unfold Schedule.count Schedule.slotsWhere
  rw [← List.countP_eq_length_filter, countP_eq_sum]
  congr 1
  refine List.map_congr_left fun i _ => ?_
  cases c.entryAt i <;> rfl

/-- The entries of `s` that a test selects are those still there in `t` and those that are gone. -/
theorem EntriesKept.count_add {s t : State} (h : EntriesKept s t) (test : Entry → Bool)
    (htest : OfOwnerAndLines fun e => if test e then 1 else 0) :
    s.schedule.count test =
      t.schedule.count test + goneWeight (fun e => if test e then 1 else 0) s t := by
  rw [Schedule.count_eq_sum, Schedule.count_eq_sum, goneWeight, ← List.sum_map_add]
  congr 1
  refine List.map_congr_left fun i _ => ?_
  unfold gone
  cases hs : s.schedule.entryAt i with
  | none => rw [h.none hs]; rfl
  | some e =>
    cases ht : t.schedule.entryAt i with
    | none => simp
    | some x =>
      obtain ⟨howner, hlines⟩ := h.some hs ht
      simpa using htest e x howner.symm hlines.symm

/-- A new entry in a FREE slot is one more where the test selects it. -/
theorem Schedule.count_inserted {s t : State} {i : SlotIx} {e : Entry} (test : Entry → Bool)
    (htest : OfOwnerAndLines fun e => if test e then 1 else 0)
    (hfree : s.schedule.entryAt i = none)
    (hentry : ∀ j, t.schedule.entryAt j = if i = j then some e else s.schedule.entryAt j) :
    t.schedule.count test = s.schedule.count test + if test e then 1 else 0 := by
  have hself : t.schedule.entryAt i = some e := (hentry i).trans (if_pos rfl)
  have hkept : EntriesKept t s := fun j => by
    by_cases hj : i = j
    · exact .inl (hj ▸ hfree)
    · exact .inr (by rw [hentry, if_neg hj])
  rw [hkept.count_add test htest, goneWeight_single _ hself fun j => ?_]
  rw [gone, hentry]
  by_cases hj : i = j
  · subst hj
    simp [hfree]
  · simp [hj]

/-- Weights that agree on the entries of `s` weigh alike. -/
theorem goneWeight_congr {s t : State} {v w : Entry → Nat}
    (h : ∀ i e, s.schedule.entryAt i = some e → v e = w e) : goneWeight v s t = goneWeight w s t := by
  unfold goneWeight
  congr 1
  refine List.map_congr_left fun i _ => ?_
  cases hs : s.schedule.entryAt i with
  | none => rfl
  | some e => simp only [Option.elim_some, h i e hs]

theorem OfOwnerAndLines.ownerTest (p : Port) :
    OfOwnerAndLines fun e => if decide (e.owner = p) = true then 1 else 0 := fun e x ho _ => by
  simp only [ho]

theorem OfOwnerAndLines.refTest (p : Port) (l : LineIx) :
    OfOwnerAndLines fun e => if (decide (e.owner = p) && decide (l ∈ e.lines)) = true then 1 else 0 :=
  fun e x ho hl => by simp only [ho, hl]

/-- How many references of a port to a line are gone, counted by entries: no entry names a line twice. -/
theorem EntriesWf.freedRefs_eq {s t : State} (h : EntriesWf s) (p : Port) (l : LineIx) :
    freedRefs s t p l = goneWeight
      (fun e => if (decide (e.owner = p) && decide (l ∈ e.lines)) = true then 1 else 0) s t := by
  rw [freedRefs_eq_goneWeight]
  refine goneWeight_congr fun i e he => ?_
  by_cases ho : e.owner = p
  · by_cases hl : l ∈ e.lines
    · simp only [ho, hl, decide_true, Bool.and_self, if_true]
      exact List.count_eq_one_of_mem (h.entries i e he).actions.2 hl
    · simp only [ho, hl, decide_true, decide_false, Bool.and_false, Bool.false_eq_true, if_true,
        if_false]
      exact List.count_eq_zero.mpr hl
  · simp only [ho, decide_false, Bool.false_and, Bool.false_eq_true, if_false]

/-! ### The counts of a part whose entries have left, changed or come -/

/-- Entries that leave by R28, and others that keep their owner and their lines, leave usage and references
exact (R33, R87 to R89). -/
theorem EntriesWf.of_uncounted {s t : State} (h : EntriesWf s) (hkept : EntriesKept s t)
    (hun : Uncounted s t) (hquota : t.schedule.quota = s.schedule.quota)
    (hmode : ∀ l, (t.lines.get l).mode = (s.lines.get l).mode)
    (hentries : ∀ i e, t.schedule.entryAt i = some e → EntryWf t e) : EntriesWf t where
  entries := hentries
  usage p := by
    have hsplit := hkept.count_add _ (.ownerTest p)
    have husage := h.usage p
    have hleft := hun.usage p
    simp only [decide_eq_true_eq] at hsplit
    rw [countP_freedOf] at hleft
    omega
  quota p := by
    obtain ⟨hle, hmax⟩ := h.quota p
    have hleft := hun.usage p
    rw [hquota]
    exact ⟨by omega, hmax⟩
  refs l p := by
    have hsplit := hkept.count_add _ (.refTest p l)
    have hrefs := h.refs l p
    have hleft := hun.refs l p
    rw [h.freedRefs_eq] at hleft
    omega
  shared l hm := by
    rw [hun.holders l, h.shared l ((hmode l).symm.trans hm)]
  exclusive l p hm := by
    have hsplit := hkept.count_add _ (.refTest p l)
    have hrefs := h.refs l p
    have hold := h.exclusive l p ((hmode l).symm.trans hm)
    rw [← h.freedRefs_eq] at hsplit
    rw [hun.refs l p, hun.holders l]
    cases hx : (s.lines.get l).exclHolder with
    | none =>
      rw [hx] at hold
      have hzero : ¬ 0 < (s.lines.get l).refs.get p := fun c => nomatch hold.mp c
      exact iff_of_false (by omega) nofun
    | some q =>
      rw [hx, Option.some.injEq] at hold
      dsimp only
      by_cases hq : q = p
      · subst hq
        have hpos := hold.mpr rfl
        split
        · exact iff_of_false (by omega) nofun
        · exact iff_of_true (by omega) rfl
      · have hzero : ¬ 0 < (s.lines.get l).refs.get p := fun c => hq (hold.mp c)
        refine iff_of_false (by omega) ?_
        split
        · nofun
        · exact fun c => hq (Option.some.inj c)

/-- Entries that keep their owner and their lines, where usage, quotas and references stay, leave them
exact. -/
theorem EntriesWf.of_unfreed {s t : State} (h : EntriesWf s)
    (hsame : ∀ i, (t.schedule.entryAt i).map (fun e => (e.owner, e.lines)) =
      (s.schedule.entryAt i).map fun e => (e.owner, e.lines))
    (husage : t.schedule.usage = s.schedule.usage) (hquota : t.schedule.quota = s.schedule.quota)
    (hcounts : ∀ l : LineIx, (t.lines.get l).counts = (s.lines.get l).counts)
    (hentries : ∀ i e, t.schedule.entryAt i = some e → EntryWf t e) : EntriesWf t := by
  have hgone (i : SlotIx) : gone s t i = false := gone_eq_false (hsame i)
  have hline (l : LineIx) : (t.lines.get l).mode = (s.lines.get l).mode
      ∧ (t.lines.get l).refs = (s.lines.get l).refs
      ∧ (t.lines.get l).exclHolder = (s.lines.get l).exclHolder := by
    simpa [Line.counts] using hcounts l
  refine h.of_uncounted (fun i => .inr (hsame i)) ⟨fun q => ?_, fun l q => ?_, fun l => ?_⟩ hquota
    (fun l => (hline l).1) hentries
  · rw [countP_freedOf, goneWeight_eq_zero _ hgone, husage]
    rfl
  · rw [freedRefs_eq_goneWeight, goneWeight_eq_zero _ hgone, (hline l).2.1]
    rfl
  · rw [(hline l).2.2]
    cases (s.lines.get l).exclHolder with
    | none => rfl
    | some q => simp [freedRefs_eq_goneWeight, goneWeight_eq_zero _ hgone]

/-- An entry's own fields depend on the state by the pass and the sessions alone. -/
theorem EntryWf.congr {s t : State} {e : Entry} (h : EntryWf s e)
    (hpass : s.schedule.pass.isSome = true → t.schedule.pass.isSome = true)
    (hattached : s.attached e.owner = false → t.attached e.owner = false) : EntryWf t e where
  due := h.due
  waiting := h.waiting
  counts := h.counts
  actions := h.actions
  widths := h.widths
  cancelPending c := ⟨hpass (h.cancelPending c).1, (h.cancelPending c).2⟩
  orphaned c := ⟨hattached (h.orphaned c).1, (h.orphaned c).2⟩

/-- The same entries, counts and sessions are well formed alike. -/
theorem EntriesWf.same {s t : State} (h : EntriesWf s) (hsame : SameEntries s t) : EntriesWf t := by
  have hs := hsame.schedule
  refine h.of_unfreed (fun i => by rw [hs]) (by rw [hs]) (by rw [hs]) hsame.counts fun i e he => ?_
  rw [hs] at he
  exact (h.entries i e he).congr (by rw [hs]; exact id) (hsame.attached e.owner).trans

/-- Another record of one entry, with its owner and its lines, and any change of the lists. -/
theorem EntriesWf.mapEntry {s t : State} (h : EntriesWf s) (i : SlotIx) (f : Entry → Entry)
    (hslots : t.schedule.slots = (s.schedule.mapEntry i f).slots)
    (hsame : ∀ e, (f e).owner = e.owner ∧ (f e).lines = e.lines)
    (husage : t.schedule.usage = s.schedule.usage) (hquota : t.schedule.quota = s.schedule.quota)
    (hpass : t.schedule.pass = s.schedule.pass)
    (hcounts : ∀ l : LineIx, (t.lines.get l).counts = (s.lines.get l).counts)
    (hattached : ∀ q, t.attached q = s.attached q)
    (hf : ∀ e, s.schedule.entryAt i = some e → EntryWf s (f e)) : EntriesWf t := by
  have hentry (j : SlotIx) : t.schedule.entryAt j =
      if i = j then (s.schedule.entryAt j).map f else s.schedule.entryAt j := by
    rw [← Schedule.mapEntry_entryAt, Schedule.entryAt, Schedule.entryAt, hslots]
  refine h.of_unfreed (fun j => ?_) husage hquota hcounts fun j e he => ?_
  · rw [hentry]
    split
    · simp only [Option.map_map, Function.comp_def, (hsame _).1, (hsame _).2]
    · rfl
  · have hwf : EntryWf s e := by
      rw [hentry] at he
      split at he
      · next hj =>
        subst hj
        obtain ⟨x, hx, rfl⟩ := Option.map_eq_some_iff.mp he
        exact hf x hx
      · exact h.entries j e he
    exact hwf.congr (by rw [hpass]; exact id) (hattached e.owner).trans

/-- A change of the lists alone leaves the entries alone. -/
theorem EntriesWf.of_lists {s t : State} (h : EntriesWf s)
    (hslots : t.schedule.slots = s.schedule.slots)
    (husage : t.schedule.usage = s.schedule.usage) (hquota : t.schedule.quota = s.schedule.quota)
    (hpass : s.schedule.pass.isSome = true → t.schedule.pass.isSome = true)
    (hcounts : ∀ l : LineIx, (t.lines.get l).counts = (s.lines.get l).counts)
    (hattached : ∀ q, t.attached q = s.attached q) : EntriesWf t := by
  have hentry (j : SlotIx) : t.schedule.entryAt j = s.schedule.entryAt j := by
    rw [Schedule.entryAt, hslots]
    rfl
  refine h.of_unfreed (fun j => by rw [hentry]) husage hquota hcounts fun j e he => ?_
  exact (h.entries j e ((hentry j).symm.trans he)).congr hpass (hattached e.owner).trans

/-- Freeing an entry leaves the others well formed and counted (R28). -/
theorem EntriesWf.freeEntry {s : State} (h : EntriesWf s) (i : SlotIx) :
    EntriesWf (s.freeEntry i) := by
  have hfreed := s.freeEntry_entriesFreed i
  refine h.of_uncounted hfreed.kept (hfreed.uncounted rfl rfl (fun _ => rfl) fun _ => rfl)
    hfreed.quota (fun l => by rw [(hfreed.lines l).frame]) fun j e he => ?_
  cases hs : s.schedule.entryAt i with
  | none =>
    rw [State.freeEntry_none s i hs] at he ⊢
    exact h.entries j e he
  | some x =>
    rw [s.freeEntry_entryAt hs] at he
    split at he
    · cases he
    · refine (h.entries j e he).congr (fun c => ?_)
        (State.attached_congr (s.freeEntry_ports i) e.owner).trans
      rw [State.freeEntry_some s i x hs, Schedule.free_pass]
      exact c

end Sys2Proof.Machine

/-! PROOFS. Usage, quotas, references and the entries' own fields through every step (R26, R33, R87, R88). -/

namespace Sys2Proof.Machine

/-! ### A new entry (R38) -/

/-- A check that is followed by others is passed exactly where it and they are. -/
theorem ite_some_eq_none {α : Type} {c : Prop} [Decidable c] {x : α} {o : Option α} :
    (if c then some x else o) = none ↔ ¬ c ∧ o = none := by
  by_cases h : c <;> simp [h]

/-- What the checks of R34 ensure of a good ENTRY_ADD: room in the quota, no line that another port holds,
and a due in range. -/
theorem State.addRefusal_none {s : State} {p : Port} {f : AddFields} (h : s.addRefusal p f = none) :
    s.schedule.usage.get p < s.schedule.quota.get p
      ∧ (∀ a ∈ f.actions, (s.lines.get a.line).mode = .exclusive →
          (s.lines.get a.line).exclHolder = none ∨ (s.lines.get a.line).exclHolder = some p)
      ∧ (f.trigger = .offset → s.timebase.now + f.time ≤ maxNow) := by
  unfold State.addRefusal at h
  simp only [ite_some_eq_none] at h
  obtain ⟨-, -, hlines, hquota, -, htime⟩ := h
  refine ⟨Nat.not_le.mp hquota, fun a ha hm => ?_, fun ht => ?_⟩
  · have hfree := List.any_eq_false.mp (Bool.eq_false_iff.mpr hlines) a ha
    simp only [hm, decide_true, Bool.true_and, ne_eq, Bool.and_eq_true, decide_eq_true_eq, not_and,
      not_not] at hfree
    exact or_iff_not_imp_left.mpr hfree
  · rw [ht] at htime
    exact Nat.not_lt.mp (ite_some_eq_none.mp htime).1

/-- What a creation leaves of the schedule beside the lists (R38). -/
theorem State.createEntry_schedule (s : State) (p : Port) (i : SlotIx) (f : AddFields) :
    (s.createEntry p i f).schedule =
      { s.schedule with
        slots := s.schedule.slots.upd i fun sl =>
          { sl with entry := some (f.entry p s.timebase.now) }
        usage := s.schedule.usage.upd p (· + 1)
        dueList := (s.createEntry p i f).schedule.dueList
        waiting := (s.createEntry p i f).schedule.waiting } := by
  unfold State.createEntry Schedule.enlist
  cases f.input <;> rfl

theorem State.createEntry_entryAt (s : State) (p : Port) (i : SlotIx) (f : AddFields) (j : SlotIx) :
    (s.createEntry p i f).schedule.entryAt j =
      if i = j then some (f.entry p s.timebase.now) else s.schedule.entryAt j := by
  rw [State.createEntry_schedule, Schedule.entryAt, Table.get_upd]
  split <;> rfl

/-- A new entry's own fields are in range (R26, R38). -/
theorem AddFields.Wf.entryWf {f : AddFields} (hf : f.Wf) (t : State) (p : Port) (now : Nat)
    (hoffset : f.trigger = .offset → now + f.time ≤ maxNow) : EntryWf t (f.entry p now) where
  due d hd := by
    change f.due now = some d at hd
    unfold AddFields.due at hd
    cases ht : f.trigger with
    | absolute =>
      rw [ht] at hd
      cases hd
      exact hf.time
    | offset =>
      rw [ht] at hd
      cases hd
      exact hoffset ht
    | onCapture =>
      rw [ht] at hd
      cases hd
  waiting := by
    change f.state = .waiting ↔ f.due now = none
    unfold AddFields.state AddFields.due
    cases f.trigger <;> simp
  counts := ⟨Nat.zero_le _, Nat.zero_le _⟩
  actions := hf.actions
  widths := hf.widths
  cancelPending := nofun
  orphaned := nofun

/-- A line that an entry of port `p` comes to reference (R88). -/
theorem Line.addRef_exclusive {l : Line} {p : Port} (hm : l.mode = .exclusive)
    (hfree : l.exclHolder = none ∨ l.exclHolder = some p)
    (h : ∀ q, 0 < l.refs.get q ↔ l.exclHolder = some q) (q : Port) :
    0 < (l.addRef p).refs.get q ↔ (l.addRef p).exclHolder = some q := by
  have hholder : (l.addRef p).exclHolder = some p := by
    unfold Line.addRef
    rcases hfree with hx | hx <;> simp [hx, hm]
  rw [hholder, Line.addRef, Table.get_upd]
  by_cases hq : p = q
  · subst hq
    exact iff_of_true (by rw [if_pos rfl]; exact Nat.succ_pos _) rfl
  · rw [if_neg hq, h q]
    rcases hfree with hx | hx
    · simp [hx, hq]
    · rw [hx]

theorem EntriesWf.create {s : State} (h : EntriesWf s) (p : Port) (i : SlotIx) {f : AddFields}
    (hf : f.Wf) (hgood : s.addRefusal p f = none) (hfree : s.schedule.entryAt i = none) :
    EntriesWf (s.createEntry p i f) := by
  obtain ⟨hquota, hlines, hoffset⟩ := State.addRefusal_none hgood
  have hnodup := hf.actions.2
  have hentry := s.createEntry_entryAt p i f
  have hschedule := s.createEntry_schedule p i f
  have husage (q : Port) : (s.createEntry p i f).schedule.usage.get q =
      s.schedule.usage.get q + if p = q then 1 else 0 := by
    rw [hschedule, Table.get_upd]
    split
    · next hq => rw [hq]
    · rfl
  have hline (l : LineIx) : (s.createEntry p i f).lines.get l =
      if l ∈ f.actions.map LineAction.line then (s.lines.get l).addRef p else s.lines.get l :=
    addRefs_get p f.actions s.lines l hnodup
  have hmode (l : LineIx) : ((s.createEntry p i f).lines.get l).mode = (s.lines.get l).mode := by
    rw [hline]
    split <;> rfl
  exact {
    entries := fun j e he => by
      rw [hentry] at he
      split at he
      · cases he
        exact hf.entryWf _ p _ hoffset
      · refine (h.entries j e he).congr (fun c => ?_) id
        rw [hschedule]
        exact c
    usage := fun q => by
      rw [husage, Schedule.count_inserted _ (.ownerTest q) hfree hentry, h.usage q]
      by_cases hq : p = q <;> simp [AddFields.entry, hq]
    quota := fun q => by
      obtain ⟨hle, hmax⟩ := h.quota q
      have hsame : (s.createEntry p i f).schedule.quota = s.schedule.quota := by rw [hschedule]
      rw [husage, hsame]
      refine ⟨?_, hmax⟩
      split
      · next hq => exact hq ▸ hquota
      · exact hle
    refs := fun l q => by
      rw [Schedule.count_inserted _ (.refTest q l) hfree hentry, ← h.refs l q, hline]
      by_cases hl : l ∈ f.actions.map LineAction.line
      · rw [if_pos hl, Line.addRef, Table.get_upd]
        by_cases hq : p = q
        · subst hq
          simp [AddFields.entry, Entry.lines, hl]
        · simp [AddFields.entry, hq]
      · rw [if_neg hl]
        simp [AddFields.entry, Entry.lines, hl]
    shared := fun l hm => by
      have hold := h.shared l ((hmode l).symm.trans hm)
      have hmode' : (s.lines.get l).mode = .shared := (hmode l).symm.trans hm
      rw [hline]
      split
      · simp [Line.addRef, hold, hmode']
      · exact hold
    exclusive := fun l q hm => by
      have hmode' : (s.lines.get l).mode = .exclusive := (hmode l).symm.trans hm
      rw [hline]
      split
      · next hl =>
        obtain ⟨a, ha, rfl⟩ := List.mem_map.mp hl
        exact Line.addRef_exclusive hmode' (hlines a ha hmode') (fun q => h.exclusive _ q hmode') q
      · exact h.exclusive l q hmode' }

/-! ### A change of mode (R90, R92) -/

/-- Where at most one port references a line, `onlyReference` is that port (R92). -/
theorem Line.onlyReference_eq_some {l : Line} (h : l.referencingPorts ≤ 1) (p : Port) :
    l.onlyReference = some p ↔ 0 < l.refs.get p := by
  unfold Line.referencingPorts at h
  rw [List.countP_eq_length_filter] at h
  have hmem : p ∈ allPorts.filter (fun q => decide (0 < l.refs.get q)) ↔ 0 < l.refs.get p := by
    rw [List.mem_filter, decide_eq_true_iff]
    exact and_iff_right (List.mem_finRange p)
  unfold Line.onlyReference
  rw [← List.head?_filter, ← hmem]
  generalize allPorts.filter _ = ps at h
  match ps, h with
  | [], _ => simp
  | [q], _ => simp [eq_comm]

/-- SET_LINE_POLICY names as holder the one port with references (R92). -/
theorem EntriesWf.setPolicy {s : State} (h : EntriesWf s) (f : PolicyFields)
    (hfree : ¬ ((s.lines.get f.line).mode = .shared ∧ f.mode = .exclusive
      ∧ 1 < (s.lines.get f.line).referencingPorts)) :
    EntriesWf (s.mapLine f.line (Line.setPolicy f)) := by
  have hline (l : LineIx) : (s.mapLine f.line (Line.setPolicy f)).lines.get l =
      if f.line = l then (s.lines.get l).setPolicy f else s.lines.get l := by
    rw [State.mapLine_lines, Table.get_upd]
    split
    · next hl => rw [hl]
    · rfl
  exact {
    entries := fun i e he => (h.entries i e he).congr id id
    usage := h.usage
    quota := h.quota
    refs := fun l p => by
      refine Eq.trans ?_ (h.refs l p)
      rw [hline]
      split <;> rfl
    shared := fun l hm => by
      rw [hline] at hm ⊢
      split at hm
      · next hl =>
        change f.mode = .shared at hm
        rw [if_pos hl]
        change (s.lines.get l).holderAfter f.mode = none
        rw [hm]
        unfold Line.holderAfter
        cases (s.lines.get l).mode <;> rfl
      · next hl =>
        rw [if_neg hl]
        exact h.shared l hm
    exclusive := fun l p hm => by
      rw [hline] at hm ⊢
      split at hm
      · next hl =>
        subst hl
        change f.mode = .exclusive at hm
        rw [if_pos rfl]
        change 0 < (s.lines.get f.line).refs.get p
          ↔ (s.lines.get f.line).holderAfter f.mode = some p
        rw [hm, Line.holderAfter.eq_def]
        cases hold : (s.lines.get f.line).mode with
        | shared =>
          exact (Line.onlyReference_eq_some
            (Nat.not_lt.mp fun c => hfree ⟨hold, hm, c⟩) p).symm
        | exclusive => exact h.exclusive f.line p hold
      · next hl =>
        rw [if_neg hl]
        exact h.exclusive l p hm }

/-! ### Sessions (R50, R179) -/

/-- No entry is both an orphan and cancel_pending: their orphan policies differ (R50, R73). -/
theorem EntryWf.not_both {s : State} {e : Entry} (h : EntryWf s e) (ho : e.orphaned = true) :
    e.cancelPending = false :=
  Bool.eq_false_iff.mpr fun hc => nomatch (h.orphaned ho).2.symm.trans (h.cancelPending hc).2

/-- Attach changes the session of its port alone. -/
theorem State.attached_openSession_ne (s : State) {p q : Port} (hq : p ≠ q) :
    (s.openSession p).attached q = s.attached q :=
  congrArg (fun i : PortIf => decide (i.session = .attached)) (Table.get_upd_ne _ hq _)

/-- An attach re-adopts every orphan of its port (R179). -/
theorem EntriesWf.openSession {s : State} (h : EntriesWf s) (p : Port) :
    EntriesWf (s.openSession p) := by
  have hsame (e : Entry) :
      ((e.readopted p).owner, (e.readopted p).lines) = (e.owner, e.lines) := by
    unfold Entry.readopted
    split <;> rfl
  refine h.of_unfreed (fun i => ?_) rfl rfl (fun _ => rfl) fun i x hx => ?_
  · rw [s.openSession_entryAt, Option.map_map]
    exact congrArg (Option.map · _) (funext hsame)
  · rw [s.openSession_entryAt] at hx
    obtain ⟨e, he, rfl⟩ := Option.map_eq_some_iff.mp hx
    have hwf := h.entries i e he
    unfold Entry.readopted
    split
    · exact ⟨hwf.due, hwf.waiting, hwf.counts, hwf.actions, hwf.widths, hwf.cancelPending, nofun⟩
    · next hnot =>
      refine ⟨hwf.due, hwf.waiting, hwf.counts, hwf.actions, hwf.widths, hwf.cancelPending,
        fun ho => ⟨?_, (hwf.orphaned ho).2⟩⟩
      have howner : p ≠ e.owner := fun c => hnot (by
        simp [Entry.readoptable, c, ho, hwf.not_both ho])
      exact (s.attached_openSession_ne howner).trans (hwf.orphaned ho).1

/-- The end of a session makes no entry an orphan by itself (R50, R182). -/
theorem EntriesWf.closeSession {s : State} (h : EntriesWf s) (p : Port) :
    EntriesWf (s.mapPort p fun i => { i with session := .detached }) := by
  refine h.of_unfreed (fun _ => rfl) rfl rfl (fun _ => rfl) fun i e he => ?_
  refine (h.entries i e he).congr id fun hdetached => ?_
  by_cases hp : p = e.owner
  · rw [State.attached, State.mapPort_ports, hp, Table.get_upd_self]
    rfl
  · rwa [State.attached, State.mapPort_ports, Table.get_upd_ne _ hp]

/-- An entry of a port that is not attached meets its orphan policy (R50, R73). -/
theorem EntriesWf.orphanOne {s : State} (h : EntriesWf s) (i : SlotIx)
    (hdetached : ∀ e, s.schedule.entryAt i = some e → s.attached e.owner = false) :
    EntriesWf (s.orphanOne i) := by
  unfold State.orphanOne
  split
  · exact h
  · next e he =>
    have hwf := h.entries i e he
    split
    · next hpolicy =>
      refine h.mapEntry i _ rfl (fun _ => ⟨rfl, rfl⟩) rfl rfl rfl (fun _ => rfl) (fun _ => rfl)
        fun x hx => ?_
      cases he.symm.trans hx
      exact ⟨hwf.due, hwf.waiting, hwf.counts, hwf.actions, hwf.widths, hwf.cancelPending,
        fun _ => ⟨hdetached e he, hpolicy⟩⟩
    · next hpolicy =>
      split
      · next hpass =>
        refine h.mapEntry i _ rfl (fun _ => ⟨rfl, rfl⟩) rfl rfl rfl (fun _ => rfl) (fun _ => rfl)
          fun x hx => ?_
        cases he.symm.trans hx
        exact ⟨hwf.due, hwf.waiting, hwf.counts, hwf.actions, hwf.widths,
          fun _ => ⟨by rw [hpass]; rfl, hpolicy⟩, hwf.orphaned⟩
      · exact h.freeEntry i

/-! ### Steps and the pass (R63 to R74) -/

/-- A SHIFT that frees no entry moves its due within the range of Now (R64, R66). -/
theorem shifted_due_le {delta : Int} {e : Entry} (hkept : stepReason delta e = none)
    (hshift : e.state ≠ .waiting ∧ e.stepPolicy = .shift) :
    ((e.due.getD 0 : Int) + delta).toNat ≤ maxNow := by
  have hrange : 0 ≤ (e.due.getD 0 : Int) + delta ∧ (e.due.getD 0 : Int) + delta ≤ maxNow := by
    unfold stepReason at hkept
    obtain ⟨hstate, hpolicy⟩ := hshift
    rw [hpolicy] at hkept
    cases hs : e.state with
    | waiting => exact absurd hs hstate
    | scheduled | held =>
      rw [hs] at hkept
      simpa using hkept
  omega

/-- A step keeps the own fields of the entries that it does not free (R63 to R66). -/
theorem EntryWf.stepped {s : State} {delta : Int} {sl : Slot} {x : Entry}
    (h : ∀ e, sl.entry = some e → EntryWf s e) (hx : (steppedSlot delta sl).entry = some x) :
    EntryWf s x := by
  cases he : sl.entry with
  | none =>
    rw [steppedSlot_empty delta sl he, he] at hx
    cases hx
  | some e =>
    have hwf := h e he
    cases hr : stepReason delta e with
    | some r =>
      rw [steppedSlot_freed delta sl e r he hr] at hx
      cases hx
    | none =>
      rw [steppedSlot_kept delta sl e he hr] at hx
      split at hx
      · next hshift =>
        cases hx
        refine ⟨fun d hd => ?_, iff_of_false hshift.1 nofun, hwf.counts, hwf.actions, hwf.widths,
          hwf.cancelPending, hwf.orphaned⟩
        cases hd
        exact shifted_due_le hr hshift
      · cases he.symm.trans hx
        exact hwf

/-- A slot after a step holds no entry, or one with the owner and the lines that were there. -/
theorem State.takeStep_entriesKept (s : State) (w : Waiter) (now : Nat) :
    EntriesKept s (s.takeStep w now) := fun i => by
  rw [Schedule.entryAt, s.takeStep_slot w now i]
  rcases s.schedule.stepReason_cases ((now : Int) - (s.timebase.now : Int)) i with
    ⟨e, r, he, hr⟩ | hkeeps
  · exact .inl (congrArg Slot.entry (steppedSlot_freed _ _ e r he hr))
  · exact .inr (steppedSlot_owner_lines _ _ hkeeps)

theorem EntriesWf.takeStep {s : State} (h : EntriesWf s) (hlists : ListsWf s) (w : Waiter)
    (now : Nat) : EntriesWf (s.takeStep w now) := by
  have hschedule := s.takeStep_schedule_of_listsWf w now hlists
  refine h.of_uncounted (s.takeStep_entriesKept w now) (s.takeStep_uncounted w now)
    (by rw [hschedule]) (fun l => by rw [s.takeStep_line w now l]) fun i x hx => ?_
  rw [Schedule.entryAt, s.takeStep_slot w now i] at hx
  refine (EntryWf.stepped (h.entries i) hx).congr (fun _ => ?_)
    (State.attached_congr (s.takeStep_ports w now) x.owner).trans
  rw [hschedule]
  rfl

/-- The end of a pass leaves no cancel_pending entry (R73, R74). -/
theorem EntriesWf.endPass {s : State} (h : EntriesWf s)
    (hnone : ∀ i, s.schedule.cancelPendingAt i = false) :
    EntriesWf (s.mapSchedule fun c =>
      { c with pass := none, dueList := rebuildByKey c.dueAt c.dueList }) := by
  refine h.of_unfreed (fun _ => rfl) rfl rfl (fun _ => rfl) fun i e he => ?_
  have hwf := h.entries i e he
  have hpending : e.cancelPending = false := by
    have := hnone i
    rw [Schedule.cancelPendingAt, show s.schedule.entryAt i = some e from he] at this
    exact this
  exact ⟨hwf.due, hwf.waiting, hwf.counts, hwf.actions, hwf.widths,
    fun c => (nomatch hpending.symm.trans c), hwf.orphaned⟩

/-! ### Placing an entry, holding it and its expiry (R32, R41, R42, R55 to R61) -/

/-- An entry that is no longer WAITING, with its due in range, and any change of the lists. -/
theorem EntriesWf.replaced {s t : State} (h : EntriesWf s) (i : SlotIx) (f : Entry → Entry)
    (ht : t = s.mapSchedule fun c =>
      { c.mapEntry i f with
        dueList := t.schedule.dueList, waiting := t.schedule.waiting, sweep := t.schedule.sweep })
    (hsame : ∀ e, (f e).owner = e.owner ∧ (f e).lines = e.lines)
    (hf : ∀ e, s.schedule.entryAt i = some e → EntryWf s (f e)) : EntriesWf t := by
  refine h.mapEntry i f ?_ hsame ?_ ?_ ?_ (fun l => ?_) (fun q => ?_) hf
  all_goals rw [ht]; rfl

theorem EntriesWf.hold {s : State} (h : EntriesWf s) {i : SlotIx} {e : Entry}
    (he : s.schedule.entryAt i = some e) (hstate : e.state = .scheduled) :
    EntriesWf (s.mapSchedule fun c =>
      (c.leaveDueList i).mapEntry i fun x => { x with state := .held }) := by
  refine h.replaced i (fun x => { x with state := .held }) rfl (fun _ => ⟨rfl, rfl⟩) fun x hx => ?_
  cases he.symm.trans hx
  have hwf := h.entries i e he
  have hdue : e.due ≠ none := fun c => nomatch hstate.symm.trans (hwf.waiting.mpr c)
  exact ⟨hwf.due, iff_of_false nofun hdue, hwf.counts, hwf.actions, hwf.widths, hwf.cancelPending,
    hwf.orphaned⟩

theorem EntriesWf.resume {s : State} (h : EntriesWf s) {i : SlotIx} {e : Entry}
    (he : s.schedule.entryAt i = some e) (hstate : e.state = .held) :
    EntriesWf (s.mapSchedule fun c =>
      (c.mapEntry i fun x => { x with state := .scheduled }).place i) := by
  refine h.replaced i (fun x => { x with state := .scheduled }) rfl (fun _ => ⟨rfl, rfl⟩)
    fun x hx => ?_
  cases he.symm.trans hx
  have hwf := h.entries i e he
  have hdue : e.due ≠ none := fun c => nomatch hstate.symm.trans (hwf.waiting.mpr c)
  exact ⟨hwf.due, iff_of_false nofun hdue, hwf.counts, hwf.actions, hwf.widths, hwf.cancelPending,
    hwf.orphaned⟩

/-- A taken entry is SCHEDULED with a due in range, or freed (R32). -/
theorem EntriesWf.handOverOne {s : State} (h : EntriesWf s) (stamp : Nat) (i : SlotIx) :
    EntriesWf (s.handOverOne stamp i) := by
  unfold State.handOverOne
  split
  · exact h
  · next e he =>
    dsimp only
    split
    · unfold State.freeAndTell
      rw [he]
      exact (h.freeEntry i).same (.postCancelled _ e _ _)
    · next hrange =>
      refine h.replaced i (fun x =>
        { x with due := some (stamp + e.captureOffset.getD 0), state := .scheduled }) rfl
        (fun _ => ⟨rfl, rfl⟩) fun x hx => ?_
      cases he.symm.trans hx
      have hwf := h.entries i e he
      refine ⟨fun d hd => ?_, iff_of_false nofun nofun, hwf.counts, hwf.actions, hwf.widths,
        hwf.cancelPending, hwf.orphaned⟩
      cases hd
      exact Nat.not_lt.mp hrange

theorem EntriesWf.handOver {s : State} (h : EntriesWf s) (n : InputIx) (stamp : Nat) :
    EntriesWf (s.handOver n stamp) := by
  have hloop (is : List SlotIx) (u : State) (hu : EntriesWf u) :
      EntriesWf (is.foldl (State.handOverOne stamp) u) := by
    induction is generalizing u with
    | nil => exact hu
    | cons i is ih => exact ih _ (hu.handOverOne stamp i)
  exact hloop _ _ (h.of_lists rfl rfl rfl id (fun _ => rfl) fun _ => rfl)

/-- Line actions are no part of what the entries count (R79 to R82). -/
theorem SameEntries.lineActions (s : State) (h : Handle) (e : Entry) :
    SameEntries s (s.lineActions h e) := by
  refine ⟨s.lineActions_schedule h e, fun l => ?_, s.attached_lineActions h e⟩
  unfold State.lineActions
  induction e.actions generalizing s with
  | nil => rfl
  | cons a as ih =>
    rw [List.foldl_cons, ih, State.lineAction_line]
    split
    · rw [Line.apply_frame]
      rfl
    · rfl

/-- A next due lies within the range of Now (R58). -/
theorem repetition_again {due period left now next after skipped : Nat}
    (h : repetition due period left now = .again next after skipped) : next ≤ maxNow := by
  unfold repetition at h
  dsimp only at h
  split at h
  · cases h
  · split at h
    · cases h
    · split at h
      · cases h
      · split at h
        · cases h
        · next hrange =>
          cases h
          exact Nat.not_lt.mp hrange

/-- An expiry keeps the entries well formed and counted (R55 to R61). -/
theorem EntriesWf.expire {s : State} (h : EntriesWf s) {i : SlotIx} {e : Entry}
    (he : s.schedule.entryAt i = some e) (hstate : e.state = .scheduled) :
    EntriesWf (s.expireEntry i e) := by
  have hleft : EntriesWf (s.mapSchedule fun c => c.leaveDueList i) :=
    h.of_lists rfl rfl rfl id (fun _ => rfl) fun _ => rfl
  have hacted := hleft.same (.lineActions _ (s.schedule.handleAt i) e)
  have hfired (u : State) (d k : Nat) (final range : Bool) :
      SameEntries u (u.postFired e (s.schedule.handleAt i) d k final range) :=
    .of_eq (u.postFired_schedule _ _ _ _ _ _) (u.postFired_lines _ _ _ _ _ _)
      (State.attached_congr (u.postFired_ports _ _ _ _ _ _))
  unfold State.expireEntry
  dsimp only
  cases hnext : repetition (s.schedule.dueAt i) e.period e.repeatsLeft s.timebase.now with
  | ends skipped range =>
    have hfreed := (hacted.same (hfired _ (s.schedule.dueAt i) skipped true range)).freeEntry i
    dsimp only
    split
    · exact hfreed.same (.postCancelled _ e _ _)
    · exact hfreed
  | again due left skipped =>
    refine EntriesWf.same ?_ (hfired _ _ _ _ _)
    refine hacted.replaced i (fun x => x.repeated due left skipped) rfl (fun _ => ⟨rfl, rfl⟩)
      fun x hx => ?_
    rw [State.lineActions_schedule] at hx
    cases he.symm.trans hx
    have hwf := hacted.entries i e (by rw [State.lineActions_schedule]; exact he)
    refine ⟨fun d hd => ?_, iff_of_false (fun c => nomatch hstate.symm.trans c) nofun,
      ⟨saturate_le _, saturate_le _⟩, hwf.actions, hwf.widths, hwf.cancelPending, hwf.orphaned⟩
    cases hd
    exact repetition_again hnext

/-! ### Every step -/

/-- A quota that its port does not exceed (R47). -/
theorem EntriesWf.setQuota {s : State} (h : EntriesWf s) (q : Port) (n : Nat) (hn : n ≤ 64)
    (huse : s.schedule.usage.get q ≤ n) :
    EntriesWf (s.mapSchedule fun c => { c with quota := c.quota.set q n }) where
  entries i e he := (h.entries i e he).congr id id
  usage := h.usage
  quota p := by
    change s.schedule.usage.get p ≤ (s.schedule.quota.set q n).get p
      ∧ (s.schedule.quota.set q n).get p ≤ 64
    rw [Table.get_set]
    split
    · next hp => exact ⟨hp ▸ huse, hn⟩
    · exact h.quota p
  refs := h.refs
  shared := h.shared
  exclusive := h.exclusive

/-- After a full reset no port is attached, as at power on (R188). -/
theorem State.attached_beginReset (s : State) (cause : ResetCause) (q : Port) :
    (s.beginReset cause).attached q = State.reset.attached q := by
  have hport : (s.beginReset cause).ports.get q = .reset (s.ports.get q).inReset :=
    Table.get_map _ _ q
  rw [State.attached, State.attached, hport, reset_port]
  rfl

theorem scheduleInvariant_entriesWf : ScheduleInvariant fun s => ListsWf s ∧ EntriesWf s where
  same hsame h := ⟨h.1.of_schedule_eq hsame.schedule, h.2.same hsame⟩
  openSession _ p h := ⟨h.1.openSession p, h.2.openSession p⟩
  closeSession _ p h := ⟨h.1.of_schedule_eq rfl, h.2.closeSession p⟩
  orphan _ i hdetached h := ⟨h.1.orphanOne i, h.2.orphanOne i hdetached⟩
  takeStep _ w now _ _ h := ⟨h.1.takeStep w now, h.2.takeStep h.1 w now⟩
  create s p i pl f hpass hread hgood hslot h :=
    have hfree := (s.schedule.freeSlot_some i hslot).1
    have hf := decodeAdd_wf pl f hread
    ⟨h.1.create p i f hpass hf hfree, h.2.create p i hf hgood hfree⟩
  free _ i h := ⟨h.1.freeEntry i, h.2.freeEntry i⟩
  hold _ _ _ he hstate h := ⟨h.1.hold he hstate, h.2.hold he hstate⟩
  resume _ _ _ he hstate h := ⟨h.1.resume he hstate, h.2.resume he hstate⟩
  quota s q n hn huse h :=
    ⟨scheduleInvariant_listsWf.quota s q n hn huse h.1, h.2.setQuota q n hn huse⟩
  policy _ f hfree h := ⟨h.1.of_schedule_eq rfl, h.2.setPolicy f hfree⟩
  reset s cause _ :=
    ⟨listsWf_reset.of_schedule_eq rfl, EntriesWf.of_lists (t := s.beginReset cause) entriesWf_reset rfl rfl rfl id
      (fun _ => rfl) (s.attached_beginReset cause)⟩
  handOver _ n stamp h := ⟨h.1.handOver n stamp, h.2.handOver n stamp⟩
  expire s i e hhead he h := by
    obtain ⟨-, -, hdue, -⟩ := (s.sweepHead_some i).mp hhead
    obtain ⟨x, hx, hstate⟩ := h.1.scheduled_of_mem (List.mem_of_mem_head? hdue)
    cases he.symm.trans hx
    exact ⟨h.1.expire hhead he, h.2.expire he hstate⟩
  sweep s v hv h := ⟨scheduleInvariant_listsWf.sweep s v hv h.1,
    h.2.of_lists rfl rfl rfl id (fun _ => rfl) fun _ => rfl⟩
  pass s a b hpass hcancelled hage h :=
    ⟨scheduleInvariant_listsWf.pass s a b hpass hcancelled hage h.1,
      h.2.of_lists rfl rfl rfl (fun _ => rfl) (fun _ => rfl) fun _ => rfl⟩
  endPass _ _ hpass hnone h := ⟨h.1.endPass hpass, h.2.endPass hnone⟩
  age _ a hpass h := (h.1.pass a hpass).2

/-- Settles O60: with the lists, the entries are a property that every procedure of the schedule keeps. -/
theorem stepsKeepTheEntries : Obligations.StepsKeepTheEntries := by
  unfold Obligations.StepsKeepTheEntries
  intro s t hlists h hstep
  exact (scheduleInvariant_entriesWf.step_keeps ⟨hlists, h⟩ hstep).2

end Sys2Proof.Machine

/-! PROOFS. The requests that name an entry by its handle, and SET_QUOTA: checks, refusals and what they change (R25, R39, R41, R42, R47). -/

namespace Sys2Proof.Machine

variable (s : State)

/-! ### The checks on a handle (R25) -/

/-- A number below 256 is read back from its byte (R191). -/
theorem toNat_natByte {n : Nat} (h : n < 256) : (natByte n).toNat = n := by
  rw [natByte, BitVec.toNat_ofNat]
  exact Nat.mod_eq_of_lt h

/-- A value is read back from its byte (R191). -/
theorem finOfByte_natByte {n : Nat} (hn : n ≤ 256) (i : Fin n) :
    finOfByte n (natByte i.val) = some i := by
  have hi : (natByte i.val).toNat = i.val := toNat_natByte (i.isLt.trans_le hn)
  unfold finOfByte
  rw [dif_pos (hi.trans_lt i.isLt)]
  exact congrArg some (Fin.ext hi)

/-- The slot that a handle names. -/
theorem finOfByte_handle (i : SlotIx) (tag : Byte) :
    finOfByte 64 (byteAt [natByte i.val, tag] 0) = some i := finOfByte_natByte (by decide) i

/-- A handle whose slot is FREE or bears another tag is stale (R25). -/
theorem State.handleCheck_stale (p : Port) (i : SlotIx) (tag : Byte) (k : BitVec 16)
    (block : SlotIx → Entry → State)
    (h : s.schedule.entryAt i = none ∨ (s.schedule.slots.get i).tag ≠ tag) :
    s.handleCheck p [natByte i.val, tag] k block = s.refuse p k .staleHandle := by
  unfold State.handleCheck
  rw [finOfByte_handle]
  dsimp only
  cases he : s.schedule.entryAt i with
  | none => rfl
  | some e => exact if_neg (h.resolve_left fun c => nomatch he.symm.trans c)

/-- A good handle reaches its entry (R25). -/
theorem State.handleCheck_good (p : Port) {i : SlotIx} {tag : Byte} {e : Entry} (k : BitVec 16)
    (block : SlotIx → Entry → State) (he : s.schedule.entryAt i = some e)
    (htag : (s.schedule.slots.get i).tag = tag) :
    s.handleCheck p [natByte i.val, tag] k block = block i e := by
  unfold State.handleCheck
  rw [finOfByte_handle]
  dsimp only
  rw [he]
  exact if_pos htag

/-- Outside a pass a stale handle is refused to its owner's requests too (R39). -/
theorem State.ownEntry_stale (p : Port) (i : SlotIx) (tag : Byte) (k : BitVec 16)
    (block : SlotIx → Entry → State) (hpass : s.schedule.pass = none)
    (h : s.schedule.entryAt i = none ∨ (s.schedule.slots.get i).tag ≠ tag) :
    s.ownEntry p [natByte i.val, tag] k block = s.refuse p k .staleHandle := by
  unfold State.ownEntry
  rw [hpass]
  exact s.handleCheck_stale p i tag k _ h

/-- Outside a pass a good handle reaches the entry of its owner (R39). -/
theorem State.ownEntry_good (p : Port) {i : SlotIx} {tag : Byte} {e : Entry} (k : BitVec 16)
    (block : SlotIx → Entry → State) (hpass : s.schedule.pass = none)
    (he : s.schedule.entryAt i = some e) (htag : (s.schedule.slots.get i).tag = tag) :
    s.ownEntry p [natByte i.val, tag] k block =
      if e.owner = p then block i e else s.refuse p k .notOwner := by
  unfold State.ownEntry
  rw [hpass]
  exact s.handleCheck_good p k _ he htag

/-- The requests that carry a handle. -/
def handleKinds : List Kind := [.entryCancel, .entryHold, .entryResume, .entryQuery]

/-- A stale handle is refused, whatever the request (R25). -/
theorem State.taken_staleHandle (k : Kind) (hk : k ∈ handleKinds) (p : Port) (i : SlotIx)
    (tag : Byte) (ticket : BitVec 16) (hpass : k ≠ .entryQuery → s.schedule.pass = none)
    (h : s.schedule.entryAt i = none ∨ (s.schedule.slots.get i).tag ≠ tag) :
    k.taken p [natByte i.val, tag] ticket s = s.refuse p ticket .staleHandle := by
  simp only [handleKinds, List.mem_cons, List.not_mem_nil, or_false] at hk
  rcases hk with rfl | rfl | rfl | rfl
  · exact s.ownEntry_stale p i tag ticket _ (hpass nofun) h
  · exact s.ownEntry_stale p i tag ticket _ (hpass nofun) h
  · exact s.ownEntry_stale p i tag ticket _ (hpass nofun) h
  · exact s.handleCheck_stale p i tag ticket _ h

/-- The entry of another port is refused, to the authority holder ENTRY_QUERY alone excepted (R39, R44). -/
theorem State.taken_notOwner (k : Kind) (hk : k ∈ handleKinds) (p : Port) {i : SlotIx} {tag : Byte}
    {e : Entry} (ticket : BitVec 16) (hpass : k ≠ .entryQuery → s.schedule.pass = none)
    (he : s.schedule.entryAt i = some e) (htag : (s.schedule.slots.get i).tag = tag)
    (howner : e.owner ≠ p) (hholder : k = .entryQuery → s.holder ≠ some p) :
    k.taken p [natByte i.val, tag] ticket s = s.refuse p ticket .notOwner := by
  have hown (block : SlotIx → Entry → State) (hp : s.schedule.pass = none) :
      s.ownEntry p [natByte i.val, tag] ticket block = s.refuse p ticket .notOwner :=
    (s.ownEntry_good p ticket block hp he htag).trans (if_neg howner)
  simp only [handleKinds, List.mem_cons, List.not_mem_nil, or_false] at hk
  rcases hk with rfl | rfl | rfl | rfl
  · exact hown _ (hpass nofun)
  · exact hown _ (hpass nofun)
  · exact hown _ (hpass nofun)
  · refine (s.handleCheck_good p ticket _ he htag).trans (if_neg ?_)
    exact fun c => c.elim howner (hholder rfl)

/-- ENTRY_HOLD on its owner's entry (R41). -/
theorem State.holdTaken_good (p : Port) {i : SlotIx} {tag : Byte} {e : Entry} (k : BitVec 16)
    (hpass : s.schedule.pass = none) (he : s.schedule.entryAt i = some e)
    (htag : (s.schedule.slots.get i).tag = tag) (howner : e.owner = p) :
    State.holdTaken p [natByte i.val, tag] k s =
      if e.state = .scheduled then
        (s.mapSchedule fun c =>
          (c.leaveDueList i).mapEntry i fun x => { x with state := .held }).answer p k .ok
            (leBytes 6 (e.due.getD 0))
      else s.refuse p k .badState := by
  unfold State.holdTaken
  rw [s.ownEntry_good p k _ hpass he htag, if_pos howner]
  cases e.state <;> rfl

/-- ENTRY_RESUME on its owner's entry (R42). -/
theorem State.resumeTaken_good (p : Port) {i : SlotIx} {tag : Byte} {e : Entry} (k : BitVec 16)
    (hpass : s.schedule.pass = none) (he : s.schedule.entryAt i = some e)
    (htag : (s.schedule.slots.get i).tag = tag) (howner : e.owner = p) :
    State.resumeTaken p [natByte i.val, tag] k s =
      if e.state = .held then
        (s.mapSchedule fun c =>
          (c.mapEntry i fun x => { x with state := .scheduled }).place i).answer p k .ok
            (leBytes 6 (e.due.getD 0) ++ [boolByte (e.due.getD 0 ≤ s.timebase.now)])
      else s.refuse p k .badState := by
  unfold State.resumeTaken
  rw [s.ownEntry_good p k _ hpass he htag, if_pos howner]
  cases e.state <;> rfl

/-- Settles O33: the handle, the owner and the state are checked in this order. -/
theorem handlesAreChecked : Obligations.HandlesAreChecked := by
  unfold Obligations.HandlesAreChecked
  intro p lags tag k i slotTag s hready hatt hk hpass refused
  have hadm : Admitted s p k := ⟨hatt, fun hpriv => by
    simp only [List.mem_cons, List.not_mem_nil, or_false] at hk
    rcases hk with rfl | rfl | rfl | rfl <;> exact absurd hpriv (by decide)⟩
  let pl : List Byte := [natByte i.val, slotTag]
  let u : State := s.takeRequest p lags tag k.code pl
  have hlen : k.takesLength pl.length = true := by
    simp only [List.mem_cons, List.not_mem_nil, or_false] at hk
    rcases hk with rfl | rfl | rfl | rfl <;> rfl
  have hrefused (st : Status) (h : k.taken p pl (s.ports.get p).nextTicket u =
      u.refuse p (s.ports.get p).nextTicket st) : refused st := by
    refine (exec_admitted s p lags tag k pl hready hadm hlen).trans (congrArg _ (h.trans ?_))
    exact s.refuse_takeRequest p lags tag k.code pl st
  refine ⟨fun hstale => hrefused _ (u.taken_staleHandle k hk p i slotTag _ hpass hstale),
    fun e he htag => ⟨fun howner hholder => ?_, fun howner hhold hstate => ?_,
      fun howner hresume hstate => ?_⟩⟩
  · exact hrefused _ (u.taken_notOwner k hk p _ hpass he htag howner hholder)
  · subst hhold
    exact hrefused _ ((u.holdTaken_good p _ (hpass nofun) he htag howner).trans (if_neg hstate))
  · subst hresume
    exact hrefused _ ((u.resumeTaken_good p _ (hpass nofun) he htag howner).trans (if_neg hstate))

/-! ### ENTRY_CANCEL (R28, R39) -/

/-- A dropped reference, written out (R87, R89). -/
theorem Line.dropRef_eq_unreferenced (p : Port) (l : Line) : l.dropRef p = l.unreferenced p := by
  unfold Line.dropRef Line.unreferenced Table.upd
  simp only [Nat.sub_eq_zero_iff_le]

/-- What freeing an entry leaves of schedule and lines (R28). -/
theorem State.freeEntry_freed {i : SlotIx} {e : Entry} (he : s.schedule.entryAt i = some e)
    (hn : e.lines.Nodup) : Freed s (s.freeEntry i) i e := by
  rw [State.freeEntry_some s i e he]
  refine ⟨rfl, fun l => ?_⟩
  rw [← Line.dropRef_eq_unreferenced]
  exact dropRefs_get e.owner e.actions s.lines l hn

/-- The response payload of an ENTRY_CANCEL (R39, R193). -/
def State.cancelPayload (i : SlotIx) (e : Entry) : List Byte :=
  [e.state.code] ++ leBytes 2 e.fired ++ leBytes 2 e.missed
    ++ [natByte (s.pulsesBegun (s.schedule.handleAt i))]

/-- Settles O34: the free of R28, and the answer that names what was freed. -/
theorem entryCancelFreesTheEntry : Obligations.EntryCancelFreesTheEntry := by
  unfold Obligations.EntryCancelFreesTheEntry
  intro p lags tag i e s hready hatt hpass he howner hn h
  let u : State := s.takeRequest p lags tag 0x31 [natByte i.val, h.tag]
  have hexec : exec (.entryCancel ⟨p, lags⟩ tag [natByte i.val, h.tag]) s =
      .next (State.cancelTaken p [natByte i.val, h.tag] (s.ports.get p).nextTicket u) :=
    exec_admitted s p lags tag .entryCancel _ hready ⟨hatt, fun c => absurd c (by decide)⟩ rfl
  have hfreed : Freed u (u.freeEntry i) i e := u.freeEntry_freed he hn
  have hsweep : (u.freeEntry i).schedule.sweep =
      s.schedule.sweep.map fun m => m.filter (· ≠ i) := by
    rw [State.freeEntry_some u i e he]
    rfl
  have htaken := (u.ownEntry_good p (s.ports.get p).nextTicket
    (fun i e => (u.freeEntry i).answer p (s.ports.get p).nextTicket .ok (u.cancelPayload i e)
      (some { handle := u.schedule.handleAt i, label := e.label })) hpass he rfl).trans
    (if_pos howner)
  refine ⟨_, hexec.trans (congrArg _ htaken), ?_, hfreed, hsweep⟩
  rw [State.answer_asked s (u.freeEntry i) p lags tag 0x31 2 .ok _ (u.freeEntry_ports i) (.inl rfl),
    State.freeEntry_frame]
  rfl

/-! ### ENTRY_HOLD and ENTRY_RESUME (R41, R42) -/

/-- The slots after a change of one entry that is there. -/
theorem Schedule.mapEntry_slots_some (c : Schedule) {i : SlotIx} {e : Entry} (f : Entry → Entry)
    (he : c.entryAt i = some e) :
    (c.mapEntry i f).slots = c.slots.set i { tag := (c.slots.get i).tag, entry := some (f e) } := by
  rw [Schedule.mapEntry_slots, Table.upd, show (c.slots.get i).entry = some e from he]
  rfl

/-- Outside a pass an entry that is placed stands behind every entry of no greater due (R30). -/
theorem Schedule.place_dueList_noPass (c : Schedule) {i : SlotIx} (upTo : SlotIx → Bool)
    (hpass : c.pass = none)
    (hupTo : ∀ j ∈ c.dueList, decide (c.dueAt j ≤ c.dueAt i) = upTo j) :
    (c.place i).dueList = c.dueList.takeWhile upTo ++ i :: c.dueList.dropWhile upTo := by
  rw [Schedule.place_dueList, hpass]
  dsimp only
  rw [placeByKey_eq]
  generalize c.dueList = is at hupTo
  have hsame : is.takeWhile (fun j => decide (c.dueAt j ≤ c.dueAt i)) = is.takeWhile upTo
      ∧ is.dropWhile (fun j => decide (c.dueAt j ≤ c.dueAt i)) = is.dropWhile upTo := by
    induction is with
    | nil => exact ⟨rfl, rfl⟩
    | cons j js ih =>
      obtain ⟨htake, hdrop⟩ := ih fun k hk => hupTo k (List.mem_cons_of_mem j hk)
      simp only [List.takeWhile_cons, List.dropWhile_cons, hupTo j List.mem_cons_self, htake, hdrop,
        and_self]
  rw [hsame.1, hsame.2]

/-- Settles O35: HOLD takes the entry out of the due list, RESUME places it there again. -/
theorem entryHoldAndResume : Obligations.EntryHoldAndResume := by
  unfold Obligations.EntryHoldAndResume
  intro p lags tag i e s hready hatt hpass hlists he howner due slotTag upTo
  refine ⟨fun hstate => ?_, fun hstate => ?_⟩
  · let u : State := s.takeRequest p lags tag 0x32 [natByte i.val, slotTag]
    have hexec := exec_admitted s p lags tag .entryHold [natByte i.val, slotTag] hready
      ⟨hatt, fun c => absurd c (by decide)⟩ rfl
    have htaken := (u.holdTaken_good p (s.ports.get p).nextTicket hpass he rfl howner).trans
      (if_pos hstate)
    have hslots : ((s.schedule.leaveDueList i).mapEntry i fun x => { x with state := .held }).slots =
        s.schedule.slots.set i { tag := slotTag, entry := some { e with state := .held } } :=
      (s.schedule.leaveDueList i).mapEntry_slots_some _ he
    refine hexec.trans (congrArg _ (htaken.trans ?_))
    rw [State.answer_asked s _ p lags tag 0x32 2 .ok _ rfl (.inl rfl), ← hslots]
    rfl
  · let u : State := s.takeRequest p lags tag 0x33 [natByte i.val, slotTag]
    let c : Schedule := s.schedule.mapEntry i fun x => { x with state := .scheduled }
    have hexec := exec_admitted s p lags tag .entryResume [natByte i.val, slotTag] hready
      ⟨hatt, fun c => absurd c (by decide)⟩ rfl
    have htaken := (u.resumeTaken_good p (s.ports.get p).nextTicket hpass he rfl howner).trans
      (if_pos hstate)
    have hslots : c.slots =
        s.schedule.slots.set i { tag := slotTag, entry := some { e with state := .scheduled } } :=
      s.schedule.mapEntry_slots_some _ he
    have hdueAt (j : SlotIx) : c.dueAt j = s.schedule.dueAt j := by
      rw [Schedule.dueAt, Schedule.mapEntry_entryAt, Schedule.dueAt]
      split
      · rw [Option.bind_map]
        rfl
      · rfl
    have hdue : s.schedule.dueAt i = due := by
      rw [Schedule.dueAt, he]
      rfl
    have hplaced : (c.place i).dueList =
        s.schedule.dueList.takeWhile upTo ++ i :: s.schedule.dueList.dropWhile upTo :=
      c.place_dueList_noPass upTo hpass fun j _ => by rw [hdueAt, hdueAt, hdue]
    refine hexec.trans (congrArg _ (htaken.trans ?_))
    rw [State.answer_asked s _ p lags tag 0x33 2 .ok _ rfl (.inl rfl), ← hslots, ← hplaced]
    rfl

/-! ### SET_QUOTA (R47) -/

/-- SET_QUOTA with the fields that have been read (R47). -/
theorem State.quotaTaken_read (p : Port) {q : Port} {n : Nat} {pl : List Byte} (k : BitVec 16)
    (h : decodeQuota pl = some (q, n)) :
    State.quotaTaken p pl k s =
      if n < s.schedule.usage.get q then s.refuse p k .quotaBelowUse
      else
        (s.mapSchedule fun c => { c with quota := c.quota.set q n }).answer p k .ok
          [natByte (s.schedule.quota.get q), natByte (s.schedule.usage.get q)] := by
  unfold State.quotaTaken
  rw [h]

/-- Settles O37: the fields are read back and the usage decides. -/
theorem setQuotaSetsOneQuota : Obligations.SetQuotaSetsOneQuota := by
  unfold Obligations.SetQuotaSetsOneQuota
  intro p q lags tag n s hready hadm hn
  have hexec : exec (.setQuota ⟨p, lags⟩ tag [natByte q.val, natByte n]) s =
      .next (State.quotaTaken p [natByte q.val, natByte n] (s.ports.get p).nextTicket
        (s.takeRequest p lags tag 0x37 [natByte q.val, natByte n])) :=
    exec_admitted s p lags tag .setQuota _ hready hadm rfl
  have hread : decodeQuota [natByte q.val, natByte n] = some (q, n) := by
    have hq : finOfByte 3 (byteAt [natByte q.val, natByte n] 0) = some q :=
      finOfByte_natByte (by decide) q
    have hbyte : (byteAt [natByte q.val, natByte n] 1).toNat = n := toNat_natByte (by omega)
    unfold decodeQuota
    rw [hq, hbyte]
    exact if_pos hn
  refine ⟨fun huse => ?_, fun huse => ?_⟩
  · refine hexec.trans (congrArg _ ((State.quotaTaken_read _ p _ hread).trans
      ((if_neg (Nat.not_lt.mpr huse)).trans ?_)))
    rw [State.answer_asked s _ p lags tag 0x37 2 .ok _ rfl (.inl rfl)]
    rfl
  · refine hexec.trans (congrArg _ ((State.quotaTaken_read _ p _ hread).trans
      ((if_pos huse).trans ?_)))
    exact s.refuse_takeRequest p lags tag 0x37 _ .quotaBelowUse

end Sys2Proof.Machine

/-! PROOFS. ENTRY_ADD: the order of its checks, and the entry that it creates (R34, R38). -/

namespace Sys2Proof.Machine

variable (s : State)

/-! ### The checks of ENTRY_ADD (R34) -/

/-- An ENTRY_ADD that fails a check is refused with its status (R34). -/
theorem State.addTaken_refused (p : Port) {pl : List Byte} {f : AddFields} {st : Status}
    (k : BitVec 16) (hpass : s.schedule.pass = none) (hread : decodeAdd pl = some f)
    (h : s.addRefusal p f = some st) : State.addTaken p pl k s = s.refuse p k st := by
  unfold State.addTaken
  rw [hpass, hread, if_neg (by nofun)]
  dsimp only
  rw [h]

/-- An ENTRY_ADD that passes its checks creates the entry in the lowest FREE slot (R38). -/
theorem State.addTaken_good (p : Port) {pl : List Byte} {f : AddFields} {i : SlotIx}
    (k : BitVec 16) (hpass : s.schedule.pass = none) (hread : decodeAdd pl = some f)
    (h : s.addRefusal p f = none) (hslot : s.schedule.freeSlot = some i) :
    State.addTaken p pl k s = (s.createEntry p i f).answer p k .ok (s.addPayload i f) := by
  unfold State.addTaken
  rw [hpass, hread, if_neg (by nofun)]
  dsimp only
  rw [h, hslot]

/-- A test on a list of actions that all its parts decide. -/
theorem any_and_iff (as : List LineAction) (test : LineAction → Bool) (P : LineAction → Prop)
    (h : ∀ a, test a = true ↔ P a) : as.any test = true ↔ ∃ a ∈ as, P a := by
  rw [List.any_eq_true]
  exact exists_congr fun a => and_congr_right fun _ => h a

/-- Checks 9 and 10 of R34, on the due of a new entry. -/
def AddFields.dueRefusal (f : AddFields) (now : Nat) : Option Status :=
  match f.trigger with
  | .absolute => if !f.allowLate && f.time ≤ now then some .pastDue else none
  | .offset => if maxNow < now + f.time then some .timeRange else none
  | .onCapture => none

theorem AddFields.dueRefusal_past (f : AddFields) (now : Nat)
    (h : f.trigger = .absolute ∧ f.allowLate = false ∧ f.time ≤ now) :
    f.dueRefusal now = some .pastDue := by
  obtain ⟨ht, hlate, htime⟩ := h
  unfold AddFields.dueRefusal
  rw [ht]
  exact if_pos (by simp [hlate, htime])

theorem AddFields.dueRefusal_beyond (f : AddFields) (now : Nat)
    (h : f.trigger = .offset ∧ maxNow < now + f.time) : f.dueRefusal now = some .timeRange := by
  unfold AddFields.dueRefusal
  rw [h.1]
  exact if_pos h.2

theorem AddFields.dueRefusal_none (f : AddFields) (now : Nat)
    (hpast : ¬ (f.trigger = .absolute ∧ f.allowLate = false ∧ f.time ≤ now))
    (hbeyond : ¬ (f.trigger = .offset ∧ maxNow < now + f.time)) : f.dueRefusal now = none := by
  unfold AddFields.dueRefusal
  cases ht : f.trigger with
  | absolute => exact if_neg fun c => hpast ⟨ht, by simpa using c⟩
  | offset => exact if_neg fun c => hbeyond ⟨ht, c⟩
  | onCapture => rfl

/-- Settles O32: the conditions of the checks, in their order. -/
theorem entryAddChecksInOrder : Obligations.EntryAddChecksInOrder := by
  unfold Obligations.EntryAddChecksInOrder
  intro p lags tag pl f s hready hadm hlen hpass hread refused wide denied inUse overQuota full past
    beyond
  have hrefused {st : Status} (h : s.addRefusal p f = some st) : refused st := by
    refine (exec_admitted s p lags tag .entryAdd pl hready hadm hlen).trans (congrArg _ ?_)
    refine ((s.takeRequest p lags tag 0x30 pl).addTaken_refused p _ hpass hread h).trans ?_
    exact s.refuse_takeRequest p lags tag 0x30 pl st
  have hwide : (f.period ≠ 0 ∧ (f.actions.any fun a =>
      a.kind = .pulse && f.period ≤ a.width.getD 0) = true) ↔ wide :=
    and_congr_right fun _ => any_and_iff _ _ _ fun a => by simp
  have hdenied : (f.actions.any fun a => !hasBit (s.lines.get a.line).writerMask p) = true
      ↔ denied := any_and_iff _ _ _ fun a => by simp [hasBit]
  have hinUse : (f.actions.any fun a =>
      (s.lines.get a.line).mode = .exclusive && (s.lines.get a.line).exclHolder ≠ none
        && (s.lines.get a.line).exclHolder ≠ some p) = true ↔ inUse :=
    any_and_iff _ _ _ fun a => by simp [and_assoc]
  have hfull : s.schedule.freeSlot = none ↔ full := s.schedule.freeSlot_none
  have hchain : s.addRefusal p f =
      if f.period ≠ 0 ∧ (f.actions.any fun a =>
        a.kind = .pulse && f.period ≤ a.width.getD 0) = true then some .badWidth
      else if (f.actions.any fun a => !hasBit (s.lines.get a.line).writerMask p) = true then
        some .lineDenied
      else if (f.actions.any fun a =>
          (s.lines.get a.line).mode = .exclusive && (s.lines.get a.line).exclHolder ≠ none
            && (s.lines.get a.line).exclHolder ≠ some p) = true then some .lineInUse
      else if overQuota then some .quotaExceeded
      else if s.schedule.freeSlot = none then some .tableFull
      else f.dueRefusal s.timebase.now := rfl
  have pastWide (hw : ¬ wide) := hchain.trans (if_neg (mt hwide.mp hw))
  have pastDenied (hw : ¬ wide) (hd : ¬ denied) :=
    (pastWide hw).trans (if_neg (mt hdenied.mp hd))
  have pastInUse (hw : ¬ wide) (hd : ¬ denied) (hu : ¬ inUse) :=
    (pastDenied hw hd).trans (if_neg (mt hinUse.mp hu))
  have pastQuota (hw : ¬ wide) (hd : ¬ denied) (hu : ¬ inUse) (hq : ¬ overQuota) :=
    (pastInUse hw hd hu).trans (if_neg hq)
  have pastFull (hw : ¬ wide) (hd : ¬ denied) (hu : ¬ inUse) (hq : ¬ overQuota) (hf : ¬ full) :=
    (pastQuota hw hd hu hq).trans (if_neg (mt hfull.mp hf))
  exact ⟨fun h => hrefused (hchain.trans (if_pos (hwide.mpr h))),
    fun hw h => hrefused ((pastWide hw).trans (if_pos (hdenied.mpr h))),
    fun hw hd h => hrefused ((pastDenied hw hd).trans (if_pos (hinUse.mpr h))),
    fun hw hd hu h => hrefused ((pastInUse hw hd hu).trans (if_pos h)),
    fun hw hd hu hq h => hrefused ((pastQuota hw hd hu hq).trans (if_pos (hfull.mpr h))),
    fun hw hd hu hq hf h => hrefused
      ((pastFull hw hd hu hq hf).trans (f.dueRefusal_past _ h)),
    fun hw hd hu hq hf _ h => hrefused
      ((pastFull hw hd hu hq hf).trans (f.dueRefusal_beyond _ h)),
    fun hw hd hu hq hf hp h => (pastFull hw hd hu hq hf).trans (f.dueRefusal_none _ hp h)⟩

/-! ### The entry that is created (R38) -/

/-- The record of a new entry, written out (R26, R38). -/
theorem AddFields.state_eq (f : AddFields) :
    f.state = if f.trigger = .onCapture then .waiting else .scheduled := by
  unfold AddFields.state
  cases f.trigger <;> rfl

/-- A new entry takes the lowest FREE slot (R23). -/
theorem Schedule.freeSlot_eq_some (c : Schedule) {i : SlotIx} (hfree : c.entryAt i = none)
    (hlow : ∀ j : SlotIx, j < i → c.entryAt j ≠ none) : c.freeSlot = some i := by
  cases hslot : c.freeSlot with
  | none => exact absurd hfree (c.freeSlot_none.mp hslot i)
  | some j =>
    obtain ⟨hj, hjlow⟩ := c.freeSlot_some j hslot
    rcases lt_trichotomy i j with hlt | rfl | hlt
    · exact absurd hfree (hjlow i hlt)
    · rfl
    · exact absurd hj (hlow j hlt)

/-- A schedule with a new entry in a slot, in no list as yet (R38 steps 2 and 3). -/
def Schedule.addEntry (c : Schedule) (i : SlotIx) (e : Entry) : Schedule :=
  { c with
    usage := c.usage.upd e.owner (· + 1)
    slots := c.slots.upd i fun sl => { sl with entry := some e } }

theorem Schedule.addEntry_entryAt (c : Schedule) (i j : SlotIx) (e : Entry) :
    (c.addEntry i e).entryAt j = if i = j then some e else c.entryAt j := by
  rw [Schedule.entryAt, Schedule.addEntry, Table.get_upd]
  split <;> rfl

theorem State.createEntry_enlist (p : Port) (i : SlotIx) (f : AddFields) :
    (s.createEntry p i f).schedule =
      (s.schedule.addEntry i (f.entry p s.timebase.now)).enlist i f.input := rfl

/-- The due list after a creation, outside a pass (R30, R38). -/
theorem State.createEntry_dueList (p : Port) {i : SlotIx} {f : AddFields} (hlists : ListsWf s)
    (hpass : s.schedule.pass = none) (hfree : s.schedule.entryAt i = none) (hf : f.Wf) :
    (s.createEntry p i f).schedule.dueList =
      if f.trigger = .onCapture then s.schedule.dueList
      else
        s.schedule.dueList.takeWhile
            (fun j => decide (s.schedule.dueAt j ≤ (f.due s.timebase.now).getD 0))
          ++ i :: s.schedule.dueList.dropWhile
            (fun j => decide (s.schedule.dueAt j ≤ (f.due s.timebase.now).getD 0)) := by
  rw [State.createEntry_enlist, Schedule.enlist.eq_def]
  cases hinput : f.input with
  | some n =>
    rw [if_pos (hf.input.mpr (by rw [hinput]; rfl))]
    rfl
  | none =>
    have hnot : f.trigger ≠ .onCapture := fun c => by
      have hsome := hf.input.mp c
      rw [hinput] at hsome
      cases hsome
    rw [if_neg hnot]
    refine Schedule.place_dueList_noPass _ _ hpass fun j hj => ?_
    have hne : i ≠ j := fun c => by
      obtain ⟨x, hx, -⟩ := hlists.scheduled_of_mem hj
      exact nomatch (c ▸ hfree).symm.trans hx
    have hother : (s.schedule.addEntry i (f.entry p s.timebase.now)).dueAt j =
        s.schedule.dueAt j :=
      Schedule.dueAt_congr ((s.schedule.addEntry_entryAt i j _).trans (if_neg hne))
    have hself : (s.schedule.addEntry i (f.entry p s.timebase.now)).dueAt i =
        (f.due s.timebase.now).getD 0 := by
      rw [Schedule.dueAt, Schedule.addEntry_entryAt, if_pos rfl]
      rfl
    rw [hother, hself]

/-- The waiting lists after a creation (R31, R38). -/
theorem State.createEntry_waiting (p : Port) (i : SlotIx) (f : AddFields) :
    (s.createEntry p i f).schedule.waiting =
      match f.input with
      | some n => s.schedule.waiting.set n (s.schedule.waiting.get n ++ [i])
      | none => s.schedule.waiting := by
  rw [State.createEntry_enlist, Schedule.enlist.eq_def]
  cases f.input <;> rfl

/-- The response payload of an ENTRY_ADD, written out (R38, R193). -/
theorem State.addPayload_eq (i : SlotIx) (f : AddFields) :
    s.addPayload i f =
      [natByte i.val, (s.schedule.slots.get i).tag, if f.trigger = .onCapture then 2 else 1]
        ++ leBytes 6 ((f.due s.timebase.now).getD 0) := by
  have hcode : f.state.code = if f.trigger = .onCapture then 2 else 1 := by
    unfold AddFields.state
    cases f.trigger <;> rfl
  rw [State.addPayload, hcode]
  rfl

/-- Settles O31: the checks are passed, and the entry is created in the lowest FREE slot. -/
theorem entryAddCreatesTheEntry : Obligations.EntryAddCreatesTheEntry := by
  unfold Obligations.EntryAddCreatesTheEntry
  intro p lags tag pl f i s hready hadm hlen hpass hlists hread hgood hfree hlow due upTo
  let u : State := s.takeRequest p lags tag 0x30 pl
  have hf := decodeAdd_wf pl f hread
  have hslot := s.schedule.freeSlot_eq_some hfree hlow
  have hexec := exec_admitted s p lags tag .entryAdd pl hready hadm hlen
  have htaken := u.addTaken_good p (s.ports.get p).nextTicket hpass hread hgood hslot
  have hdueList := u.createEntry_dueList p (hlists.of_schedule_eq rfl) hpass hfree hf
  have hwaiting := u.createEntry_waiting p i f
  refine ⟨_, hexec.trans (congrArg _ htaken), ?_, ?_, fun l => ?_⟩
  · rw [State.answer_asked s (u.createEntry p i f) p lags tag 0x30 pl.length .ok _ rfl (.inl rfl),
      State.addPayload_eq]
    rfl
  · change (u.createEntry p i f).schedule = _
    rw [u.createEntry_schedule, hdueList, hwaiting, AddFields.entry, AddFields.state_eq]
    rfl
  · exact addRefs_get p f.actions s.lines l hf.actions.2

end Sys2Proof.Machine

/-! PROOFS. The queries of the schedule: the entry record, NEXT_QUERY and ENTRY_LIST (R44 to R46, R194). -/

namespace Sys2Proof.Machine

variable (s : State)

/-! ### The entry record (R194) -/

theorem length_leBytes (k v : Nat) : (leBytes k v).length = k := by
  induction k generalizing v with
  | zero => rfl
  | succ k ih => rw [leBytes, List.length_cons, ih]

/-- The flags of an entry in a byte, bit 0 first (R194). -/
theorem flagByte_five (a b c d e : Bool) :
    flagByte [a, b, c, d, e] =
      BitVec.ofNat 8 ((if a then 1 else 0) + (if b then 2 else 0) + (if c then 4 else 0)
        + (if d then 8 else 0) + if e then 16 else 0) := by
  revert a b c d e
  decide

theorem length_actionBytes (a : LineAction) : (actionBytes a).length = 5 := by
  rw [actionBytes, List.length_cons, List.length_cons, length_leBytes]

/-- The action places of an entry fill 5 bytes each (R194). -/
theorem length_flatMap_actionBytes (as : List LineAction) :
    (as.flatMap actionBytes).length = 5 * as.length := by
  rw [List.length_flatMap, List.map_congr_left fun a _ => length_actionBytes a, List.map_const',
    List.sum_replicate_nat, Nat.mul_comm]

/-- The record of an entry with at most four actions has 52 bytes (R194). -/
theorem length_entryRecord (h : Handle) (e : Entry) (ha : e.actions.length ≤ 4) :
    (entryRecord h e).length = 52 := by
  unfold entryRecord handleBytes labelBytes padTo
  simp only [List.length_append, List.length_cons, List.length_nil, length_leBytes,
    length_flatMap_actionBytes, List.length_replicate]
  omega

/-! ### NEXT_QUERY and ENTRY_LIST (R45, R46) -/

/-- The entries of a port from a slot on, tested slot by slot (R46). -/
theorem Schedule.ownedFrom_eq (c : Schedule) (p : Port) (start : SlotIx) :
    c.ownedFrom p start =
      (indices 64).filter fun j =>
        decide (start ≤ j) && ((c.entryAt j).map Entry.owner == some p) := by
  unfold Schedule.ownedFrom Schedule.slotsWhere
  rw [List.filter_filter]
  congr 1
  funext j
  cases c.entryAt j with
  | none => rfl
  | some e => simp [Bool.beq_eq_decide_eq]

/-- Where an ENTRY_LIST goes on (R46). -/
theorem continuation_eq (is : List SlotIx) :
    natByte (continuation is) =
      if is.length ≤ 16 then 64
      else natByte (match is[15]? with | some j => j.val + 1 | none => 64) := by
  unfold continuation
  by_cases h : is.length ≤ 16
  · rw [if_pos h]
    exact congrArg natByte (if_neg (Nat.not_lt.mpr h))
  · rw [if_neg h]
    exact congrArg natByte (if_pos (Nat.not_le.mp h))

/-- Settles O36: each query answers what it reads. -/
theorem scheduleQueriesAnswer : Obligations.ScheduleQueriesAnswer := by
  unfold Obligations.ScheduleQueriesAnswer
  intro p lags tag i s hready hatt c number mine one bit place record
  have hrecord (e : Entry) : entryRecord (c.handleAt i) e = record e := by
    have hplaces : e.actions.flatMap place = e.actions.flatMap actionBytes := rfl
    have hlabel : labelBytes e.label =
        leBytes 2 (match e.label with | some w => w.toNat | none => 0) := by
      cases e.label <;> rfl
    unfold entryRecord
    rw [flagByte_five, padTo, length_flatMap_actionBytes, ← hplaces, hlabel, ← List.append_assoc]
    rfl
  refine ⟨fun e he hmay => ⟨?_, fun ha => ?_⟩, fun hpass => ?_, fun hpass => ?_⟩
  · let u : State := s.takeRequest p lags tag 0x34 [natByte i.val, (c.slots.get i).tag]
    have hexec := exec_admitted s p lags tag .entryQuery [natByte i.val, (c.slots.get i).tag] hready
      ⟨hatt, fun c => absurd c (by decide)⟩ rfl
    refine hexec.trans (congrArg _ ?_)
    refine (u.handleCheck_good p _ _ he rfl).trans ((if_pos hmay).trans ?_)
    rw [← hrecord]
    exact s.answer_takeRequest p lags tag 0x34 _ _ .ok (.inl rfl)
  · rw [← hrecord]
    exact length_entryRecord _ e ha
  · have hexec := exec_admitted s p lags tag .nextQuery [] hready
      ⟨hatt, fun c => absurd c (by decide)⟩ rfl
    refine hexec.trans (congrArg _ ?_)
    have hpass' : ¬ s.schedule.pass.isSome = true := by rw [hpass]; nofun
    refine (if_neg hpass').trans ?_
    refine (s.answer_takeRequest p lags tag 0x35 [] s.nextPayload .ok (.inl rfl)).trans ?_
    refine congrArg (answeredState s p lags tag 0x35 0 .ok) ?_
    have hempty : boolByte s.schedule.dueList.isEmpty = if c.dueList = [] then 1 else 0 := by
      change boolByte s.schedule.dueList.isEmpty = if s.schedule.dueList = [] then 1 else 0
      cases s.schedule.dueList <;> rfl
    rw [State.nextPayload, hempty, List.append_assoc, List.append_assoc]
    rfl
  · have hexec := exec_admitted s p lags tag .entryList [natByte i.val] hready
      ⟨hatt, fun c => absurd c (by decide)⟩ rfl
    have hpass' : ¬ s.schedule.pass.isSome = true := by rw [hpass]; nofun
    have hread : finOfByte 64 (byteAt [natByte i.val] 0) = some i := finOfByte_natByte (by decide) i
    have hmine : c.ownedFrom p i = mine := c.ownedFrom_eq p i
    refine hexec.trans (congrArg _ ((if_neg hpass').trans ?_))
    rw [hread]
    refine (s.answer_takeRequest p lags tag 0x36 _ (c.listPayload p i) .ok (.inl rfl)).trans ?_
    refine congrArg (answeredState s p lags tag 0x36 1 .ok) ?_
    rw [Schedule.listPayload, hmine, continuation_eq, List.length_take]
    rfl

end Sys2Proof.Machine

/-! PROOFS. The payload of an ENTRY_ADD is read back as it was laid out (R35, R191 to R193). -/

namespace Sys2Proof.Machine

/-! ### Numbers and places in a payload (R191) -/

/-- A number is read back from its little-endian bytes (R191). -/
theorem leNat_leBytes {k v : Nat} (h : v < 256 ^ k) : leNat (leBytes k v) = v := by
  induction k generalizing v with
  | zero =>
    rw [Nat.pow_zero] at h
    exact (Nat.lt_one_iff.mp h).symm
  | succ k ih =>
    have hdiv : v / 256 < 256 ^ k := Nat.div_lt_of_lt_mul (by rwa [Nat.pow_succ, Nat.mul_comm] at h)
    rw [leBytes, leNat, ih hdiv, BitVec.toNat_ofNat]
    exact Nat.mod_add_div v 256

/-- Little-endian bytes, one by one (R191). -/
theorem leBytes_eq_map (k v : Nat) :
    leBytes k v = (List.range k).map fun j => BitVec.ofNat 8 (v / 256 ^ j) := by
  induction k generalizing v with
  | zero => rfl
  | succ k ih =>
    rw [leBytes, ih, List.range_succ_eq_map, List.map_cons, List.map_map, Nat.pow_zero, Nat.div_one]
    congr 1
    refine List.map_congr_left fun j _ => ?_
    rw [Function.comp_apply, Nat.pow_succ', Nat.div_div_eq_div_mul]

theorem byteAt_drop (pl : List Byte) (m k : Nat) : byteAt (pl.drop m) k = byteAt pl (m + k) := by
  rw [byteAt, byteAt, List.getD_eq_getElem?_getD, List.getD_eq_getElem?_getD, List.getElem?_drop]

theorem natAt_drop (pl : List Byte) (m k n : Nat) : natAt (pl.drop m) k n = natAt pl (m + k) n := by
  rw [natAt, natAt, List.drop_drop]

/-- Places of five bytes each are skipped one by one. -/
theorem drop_flatMap {α : Type} (g : α → List Byte) (hg : ∀ a, (g a).length = 5) (as : List α)
    (j : Nat) : (as.flatMap g).drop (5 * j) = (as.drop j).flatMap g := by
  induction j generalizing as with
  | zero => rfl
  | succ j ih =>
    cases as with
    | nil => simp
    | cons a as =>
      rw [List.flatMap_cons, List.drop_succ_cons, ← ih, Nat.mul_succ, Nat.add_comm,
        ← List.drop_drop, ← hg a, List.drop_left]

/-- A read at each place of a list gives the list. -/
theorem mapM_range' {α : Type} (g : Nat → Option α) (as : List α) (k : Nat)
    (h : ∀ j a, as[j]? = some a → g (k + j) = some a) :
    (List.range' k as.length).mapM g = some as := by
  induction as generalizing k with
  | nil => rfl
  | cons a as ih =>
    have hhead : g k = some a := h 0 a rfl
    rw [List.length_cons, List.range'_succ, List.mapM_cons, hhead,
      ih (k + 1) fun j b hb => by rw [Nat.add_right_comm]; exact h (j + 1) b hb]
    rfl

/-! ### The values of one byte (R191, R192) -/

theorem Trigger.ofByte_code (t : Trigger) : Trigger.ofByte t.code = some t := by
  cases t <;> rfl

theorem StepPolicy.ofByte_code (t : StepPolicy) : StepPolicy.ofByte t.code = some t := by
  cases t <;> rfl

theorem OrphanPolicy.ofByte_code (t : OrphanPolicy) : OrphanPolicy.ofByte t.code = some t := by
  cases t <;> rfl

theorem ActionKind.ofByte_code (t : ActionKind) : ActionKind.ofByte t.code = some t := by
  cases t <;> rfl

theorem boolOfByte_boolByte (b : Bool) : boolOfByte (boolByte b) = some b := by
  cases b <;> rfl

/-! ### The payload -/

/-- The first 22 bytes of the payload of an ENTRY_ADD, the bytes that are not examined given (R193). -/
def AddFields.head (f : AddFields) (input late : Byte) (noLabel : Nat) : List Byte :=
  [f.trigger.code] ++ leBytes 6 f.time
    ++ [(match f.input with | some n => natByte n.val | none => input),
        (if f.trigger = .absolute then boolByte f.allowLate else late)]
    ++ leBytes 4 f.period ++ leBytes 2 f.repeats
    ++ [f.stepPolicy.code, f.orphanPolicy.code, boolByte f.notify, boolByte f.label.isSome]
    ++ leBytes 2 (match f.label with | some w => w.toNat | none => noLabel)
    ++ [natByte f.actions.length]

/-- The place of an action in the payload of an ENTRY_ADD (R193). -/
def LineAction.place (noWidth : LineAction → Nat) (a : LineAction) : List Byte :=
  [natByte a.line.val, a.kind.code]
    ++ leBytes 3 (match a.width with | some w => w | none => noWidth a)

/-- An action is read back from its place (R35, R193). -/
theorem decodeAction_place (head : List Byte) (noWidth : LineAction → Nat) (as : List LineAction)
    (hhead : head.length = 22) (j : Nat) (a : LineAction) (ha : as[j]? = some a)
    (hwidth : if a.kind = .pulse then ∃ w ∈ a.width, 1 ≤ w ∧ w ≤ 1048575 else a.width = none) :
    decodeAction (head ++ as.flatMap (LineAction.place noWidth)) j = some a := by
  obtain ⟨rest, hrest⟩ : ∃ rest, as.drop j = a :: rest := by
    obtain ⟨hj, rfl⟩ := List.getElem?_eq_some_iff.mp ha
    exact ⟨_, List.drop_eq_getElem_cons hj⟩
  have hdrop : (head ++ as.flatMap (LineAction.place noWidth)).drop (22 + 5 * j) =
      a.place noWidth ++ rest.flatMap (LineAction.place noWidth) := by
    rw [← hhead, ← List.drop_drop, List.drop_left, drop_flatMap _ (fun _ => rfl), hrest,
      List.flatMap_cons]
  have hline : finOfByte 16 (byteAt (head ++ as.flatMap (LineAction.place noWidth)) (22 + 5 * j)) =
      some a.line := by
    rw [← Nat.add_zero (22 + 5 * j), ← byteAt_drop, hdrop]
    exact finOfByte_natByte (by decide) a.line
  have hkind : ActionKind.ofByte
      (byteAt (head ++ as.flatMap (LineAction.place noWidth)) (22 + 5 * j + 1)) = some a.kind := by
    rw [← byteAt_drop, hdrop]
    exact a.kind.ofByte_code
  have hread : natAt (head ++ as.flatMap (LineAction.place noWidth)) (22 + 5 * j + 2) 3 =
      leNat (leBytes 3 (match a.width with | some w => w | none => noWidth a)) := by
    rw [← natAt_drop, hdrop]
    rfl
  obtain ⟨line, kind, width⟩ := a
  unfold decodeAction
  dsimp only
  rw [hline, hkind, hread]
  cases kind with
  | pulse =>
    obtain ⟨w, hw, hlow, hhigh⟩ := (if_pos rfl).mp hwidth
    cases hw
    dsimp only
    rw [leNat_leBytes (by omega)]
    exact if_pos ⟨hlow, hhigh⟩
  | assert | release | invert =>
    have hnone : width = none := (if_neg nofun).mp hwidth
    rw [hnone]
    rfl

/-- The payload of an ENTRY_ADD, laid out as its table says (R193). -/
def AddFields.bytes (f : AddFields) (input late : Byte) (noLabel : Nat)
    (noWidth : LineAction → Nat) : List Byte :=
  f.head input late noLabel ++ f.actions.flatMap (LineAction.place noWidth)

section
variable (f : AddFields) (input late : Byte) (noLabel : Nat) (noWidth : LineAction → Nat)

/-- The input is examined for ON_CAPTURE alone (R35). -/
theorem addInput_bytes (h : f.input.isSome = true ↔ f.trigger = .onCapture) :
    addInput (f.bytes input late noLabel noWidth) f.trigger = some f.input := by
  have hbyte : byteAt (f.bytes input late noLabel noWidth) 7 =
      match f.input with | some n => natByte n.val | none => input := rfl
  have hnone (ht : f.trigger ≠ .onCapture) : f.input = none :=
    Option.not_isSome_iff_eq_none.mp fun c => ht (h.mp c)
  unfold addInput
  cases ht : f.trigger with
  | absolute | offset => rw [hnone (by rw [ht]; nofun)]
  | onCapture =>
    obtain ⟨n, hn⟩ := Option.isSome_iff_exists.mp (h.mpr ht)
    rw [hbyte, hn]
    exact congrArg (Option.map some) (finOfByte_natByte (by decide) n)

/-- The allow_late is examined for ABSOLUTE alone (R35). -/
theorem addAllowLate_bytes (h : f.trigger ≠ .absolute → f.allowLate = false) :
    addAllowLate (f.bytes input late noLabel noWidth) f.trigger = some f.allowLate := by
  have hbyte : byteAt (f.bytes input late noLabel noWidth) 8 =
      if f.trigger = .absolute then boolByte f.allowLate else late := rfl
  unfold addAllowLate
  cases ht : f.trigger with
  | absolute =>
    rw [hbyte, if_pos ht]
    exact boolOfByte_boolByte f.allowLate
  | offset | onCapture => rw [h (by rw [ht]; nofun)]

/-- The label is read where there is one (R35, R191). -/
theorem readLabel_bytes :
    (if f.label.isSome = true then
      some (BitVec.ofNat 16 (natAt (f.bytes input late noLabel noWidth) 19 2)) else none) =
      f.label := by
  have hread : natAt (f.bytes input late noLabel noWidth) 19 2 =
      leNat (leBytes 2 (match f.label with | some w => w.toNat | none => noLabel)) := rfl
  cases hl : f.label with
  | none => rfl
  | some w =>
    rw [hread, hl]
    dsimp only
    rw [leNat_leBytes (by have := w.isLt; omega), BitVec.ofNat_toNat, BitVec.setWidth_eq]
    rfl

/-- The actions are read one by one (R35). -/
theorem readActions_bytes
    (hwidths : ∀ a ∈ f.actions,
      if a.kind = .pulse then ∃ w ∈ a.width, 1 ≤ w ∧ w ≤ 1048575 else a.width = none) :
    (List.range f.actions.length).mapM (decodeAction (f.bytes input late noLabel noWidth)) =
      some f.actions := by
  rw [List.range_eq_range']
  refine mapM_range' _ f.actions 0 fun j a ha => ?_
  rw [Nat.zero_add]
  exact decodeAction_place _ noWidth f.actions rfl j a ha (hwidths a (List.mem_of_getElem? ha))

/-- The one-byte fields that every ENTRY_ADD has (R193). -/
theorem readBytes_bytes (hcount : f.actions.length ≤ 4) :
    Trigger.ofByte (byteAt (f.bytes input late noLabel noWidth) 0) = some f.trigger
      ∧ StepPolicy.ofByte (byteAt (f.bytes input late noLabel noWidth) 15) = some f.stepPolicy
      ∧ OrphanPolicy.ofByte (byteAt (f.bytes input late noLabel noWidth) 16) =
          some f.orphanPolicy
      ∧ boolOfByte (byteAt (f.bytes input late noLabel noWidth) 17) = some f.notify
      ∧ boolOfByte (byteAt (f.bytes input late noLabel noWidth) 18) = some f.label.isSome
      ∧ (byteAt (f.bytes input late noLabel noWidth) 21).toNat = f.actions.length :=
  ⟨f.trigger.ofByte_code, f.stepPolicy.ofByte_code, f.orphanPolicy.ofByte_code,
    boolOfByte_boolByte f.notify, boolOfByte_boolByte f.label.isSome,
    toNat_natByte (n := f.actions.length) (by omega)⟩

/-- The numbers that every ENTRY_ADD has (R191, R193). -/
theorem readNumbers_bytes (htime : f.time ≤ maxNow) (hperiod : f.period ≤ 4294967295)
    (hrepeats : f.repeats ≤ 65535) :
    natAt (f.bytes input late noLabel noWidth) 1 6 = f.time
      ∧ natAt (f.bytes input late noLabel noWidth) 9 4 = f.period
      ∧ natAt (f.bytes input late noLabel noWidth) 13 2 = f.repeats := by
  have hreadTime : natAt (f.bytes input late noLabel noWidth) 1 6 = leNat (leBytes 6 f.time) := rfl
  have hreadPeriod : natAt (f.bytes input late noLabel noWidth) 9 4 =
      leNat (leBytes 4 f.period) := rfl
  have hreadRepeats : natAt (f.bytes input late noLabel noWidth) 13 2 =
      leNat (leBytes 2 f.repeats) := rfl
  unfold maxNow at htime
  rw [hreadTime, hreadPeriod, hreadRepeats, leNat_leBytes (by omega), leNat_leBytes (by omega),
    leNat_leBytes (by omega)]
  exact ⟨rfl, rfl, rfl⟩

theorem length_bytes :
    (f.bytes input late noLabel noWidth).length = 22 + 5 * f.actions.length := by
  have hhead : (f.head input late noLabel).length = 22 := rfl
  rw [AddFields.bytes, List.length_append, hhead, List.length_flatMap,
    List.map_congr_left fun a _ => (rfl : (a.place noWidth).length = 5), List.map_const',
    List.sum_replicate_nat, Nat.mul_comm]

end

/-- Settles O30: each field is read back from its place, and the codes are those of R192. -/
theorem entryAddPayloadIsRead : Obligations.EntryAddPayloadIsRead := by
  unfold Obligations.EntryAddPayloadIsRead
  intro f input late noLabel noWidth htime hoffset hinput hlate hperiod hrepeats hcount hnodup
    hwidths hempty
  refine ⟨?_, leBytes_eq_map, rfl, rfl, rfl, rfl, rfl, rfl, rfl, rfl, rfl, rfl, rfl, rfl, rfl⟩
  change decodeAdd (f.bytes input late noLabel noWidth) = some f
  obtain ⟨htrigger, hstep, horphan, hnotify, hlabelled, hlength⟩ :=
    readBytes_bytes f input late noLabel noWidth hcount
  obtain ⟨hreadTime, hreadPeriod, hreadRepeats⟩ :=
    readNumbers_bytes f input late noLabel noWidth htime hperiod hrepeats
  rw [decodeAdd_eq, htrigger, Option.bind_some, addInput_bytes f input late noLabel noWidth hinput,
    Option.bind_some, addAllowLate_bytes f input late noLabel noWidth hlate, Option.bind_some,
    addRest, hstep, horphan, hnotify, hlabelled, hlength, hreadTime, hreadPeriod, hreadRepeats,
    length_bytes, readActions_bytes f input late noLabel noWidth hwidths]
  simp only [Option.bind_some]
  rw [readLabel_bytes, if_neg fun c => absurd (hoffset c.1) (Nat.not_le.mpr c.2),
    if_neg fun c => c.elim (absurd hcount <| Nat.not_le.mpr ·) (absurd rfl),
    if_neg (not_not.mpr hnodup), if_neg fun c => ?_]
  obtain ⟨h0, hn⟩ := c
  rcases hempty with hne | hn'
  · exact hne (List.length_eq_zero_iff.mp h0)
  · exact nomatch hn.symm.trans hn'

end Sys2Proof.Machine

/-! PROOFS. PURGE_PORT: the entries of a port freed one by one, and what each is told (R28, R29, R48). -/

namespace Sys2Proof.Machine

variable (s : State)

/-! ### A run over different slots -/

/-- News told slot by slot: where each step tells of its own slot and leaves the others, a run over different
slots tells what the first state knows of each. -/
theorem Told.foldl {step : State → SlotIx → State}
    {news : State → Port → SlotIx → Option NoticeBody}
    (hone : ∀ t i, Told t (step t i) fun q => (news t q i).toList)
    (htime : ∀ t i, (step t i).timebase = t.timebase) (hports : ∀ t i, (step t i).ports = t.ports)
    (hslot : ∀ t i j, i ≠ j → (step t i).schedule.slots.get j = t.schedule.slots.get j)
    (hnews : ∀ t u q i, t.schedule.slots.get i = u.schedule.slots.get i → news t q i = news u q i)
    {is : List SlotIx} (hn : is.Nodup) (s : State) :
    Told s (is.foldl step s) fun q => is.filterMap (news s q) := by
  have hsame (is : List SlotIx) (t : State) : (is.foldl step t).timebase = t.timebase := by
    induction is generalizing t with
    | nil => rfl
    | cons i is ih => exact (ih _).trans (htime t i)
  induction is generalizing s with
  | nil => exact Told.none rfl
  | cons i is ih =>
    obtain ⟨hi, hn⟩ := List.nodup_cons.mp hn
    have htime' := hsame is (step s i)
    refine ((hone s i).trans (ih hn (step s i)) (by rw [htime']) (by rw [htime'])
      (State.attached_congr (hports s i))).congr fun q _ => ?_
    have hrest : is.filterMap (news (step s i) q) = is.filterMap (news s q) :=
      List.filterMap_congr fun j hj => hnews _ _ q j (hslot s i j fun c => hi (c ▸ hj))
    rw [hrest, List.filterMap_cons]
    cases news s q i <;> rfl

/-! ### Freeing several entries (R28) -/

/-- A free depends on the schedule and the lines alone. -/
theorem State.freeEntry_congr {s t : State} (hschedule : t.schedule = s.schedule)
    (hlines : t.lines = s.lines) (i : SlotIx) :
    (t.freeEntry i).schedule = (s.freeEntry i).schedule
      ∧ (t.freeEntry i).lines = (s.freeEntry i).lines := by
  cases he : s.schedule.entryAt i with
  | none =>
    rw [State.freeEntry_none s i he, State.freeEntry_none t i (by rw [hschedule, he])]
    exact ⟨hschedule, hlines⟩
  | some e =>
    rw [State.freeEntry_some s i e he, State.freeEntry_some t i e (by rw [hschedule, he])]
    exact ⟨congrArg (Schedule.free · i e.owner) hschedule, congrArg (dropRefs _ _) hlines⟩

theorem State.freeAll_congr {s t : State} (hschedule : t.schedule = s.schedule)
    (hlines : t.lines = s.lines) (is : List SlotIx) :
    (t.freeAll is).schedule = (s.freeAll is).schedule
      ∧ (t.freeAll is).lines = (s.freeAll is).lines := by
  unfold State.freeAll
  induction is generalizing s t with
  | nil => exact ⟨hschedule, hlines⟩
  | cons i is ih =>
    obtain ⟨hs, hl⟩ := State.freeEntry_congr hschedule hlines i
    exact ih hs hl

/-- What freeings leave of the sweep and of the pass (R28 step 1, R51). -/
theorem State.freeAll_sweep (is : List SlotIx) :
    (s.freeAll is).schedule.sweep =
        s.schedule.sweep.map (fun m => m.filter fun j => !gone s (s.freeAll is) j)
      ∧ (s.freeAll is).schedule.pass = s.schedule.pass := by
  unfold State.freeAll
  induction is generalizing s with
  | nil =>
    have hgone (j : SlotIx) : gone s s j = false := gone_eq_false rfl
    simp [hgone]
  | cons i is ih =>
    obtain ⟨hsweep, hpass⟩ := ih (s.freeEntry i)
    have hkept : EntriesKept (s.freeEntry i) ((s.freeEntry i).freeAll is) :=
      ((s.freeEntry i).freeAll_entriesFreed is).kept
    have hgone := gone_trans (s.freeEntry_entriesFreed i).kept hkept
    have hone : (s.freeEntry i).schedule.sweep =
          s.schedule.sweep.map (fun m => m.filter fun j => !gone s (s.freeEntry i) j)
        ∧ (s.freeEntry i).schedule.pass = s.schedule.pass := by
      cases he : s.schedule.entryAt i with
      | none =>
        have hnot (j : SlotIx) : gone s s j = false := gone_eq_false rfl
        rw [State.freeEntry_none s i he]
        simp [hnot]
      | some e =>
        simp only [s.gone_freeEntry he]
        rw [State.freeEntry_some s i e he]
        exact ⟨by simp [eq_comm], rfl⟩
    refine ⟨?_, hpass.trans hone.2⟩
    unfold State.freeAll at hgone
    rw [List.foldl_cons, hsweep, hone.1, Option.map_map]
    congr 1
    funext m
    rw [Function.comp_apply, List.filter_filter]
    congr 1
    funext j
    rw [hgone, Bool.not_or, Bool.and_comm]

/-! ### The purge (R48) -/

/-- One entry of a purge: freed, and told to its owner unless that is who asks (R48). -/
def State.purgeOne (p q : Port) (t : State) (i : SlotIx) : State :=
  if q = p then t.freeEntry i else t.freeAndTell i .purged

theorem State.purge_eq (p q : Port) :
    s.purge p q = (s.schedule.slotsWhere fun e => e.owner = q).foldl (State.purgeOne p q) s := rfl

/-- A purged entry is freed (R28). -/
theorem State.purgeOne_freed (p q : Port) (i : SlotIx) :
    (s.purgeOne p q i).schedule = (s.freeEntry i).schedule
      ∧ (s.purgeOne p q i).lines = (s.freeEntry i).lines := by
  unfold State.purgeOne
  split
  · exact ⟨rfl, rfl⟩
  · exact s.freeAndTell_freed i .purged

theorem State.purge_freed (p q : Port) :
    (s.purge p q).schedule =
        (s.freeAll (s.schedule.slotsWhere fun e => e.owner = q)).schedule
      ∧ (s.purge p q).lines =
        (s.freeAll (s.schedule.slotsWhere fun e => e.owner = q)).lines := by
  rw [State.purge_eq]
  generalize s.schedule.slotsWhere _ = is
  induction is generalizing s with
  | nil => exact ⟨rfl, rfl⟩
  | cons i is ih =>
    obtain ⟨hs, hl⟩ := s.purgeOne_freed p q i
    obtain ⟨hs', hl'⟩ := ih (s.purgeOne p q i)
    obtain ⟨hs'', hl''⟩ := State.freeAll_congr hs hl is
    exact ⟨hs'.trans hs'', hl'.trans hl''⟩

/-- The news of an entry that a purge frees (R29, R48). -/
def purgeNews (p q : Port) (s : State) (r : Port) (i : SlotIx) : Option NoticeBody :=
  if q = p then none else (s.schedule.entryAt i).bind fun e => cancelNews s .purged i e r

theorem purgeNews_congr (p q : Port) (t u : State) (r : Port) (i : SlotIx)
    (h : t.schedule.slots.get i = u.schedule.slots.get i) :
    purgeNews p q t r i = purgeNews p q u r i := by
  unfold purgeNews cancelNews Schedule.entryAt Schedule.handleAt
  rw [h]

theorem State.purgeOne_told (p q : Port) (i : SlotIx) :
    Told s (s.purgeOne p q i) fun r => (purgeNews p q s r i).toList := by
  unfold State.purgeOne purgeNews
  split
  · exact Told.none (s.freeEntry_notices i)
  · cases he : s.schedule.entryAt i with
    | none =>
      rw [State.freeAndTell, he]
      exact Told.none rfl
    | some e => exact s.freeAndTell_told i .purged e he

/-- Who is told of a purge, and of what (R48). -/
theorem State.purge_told (p q : Port) :
    Told s (s.purge p q) fun r =>
      (s.schedule.slotsWhere fun e => e.owner = q).filterMap (purgeNews p q s r) := by
  refine Told.foldl (step := State.purgeOne p q) (fun t i => t.purgeOne_told p q i)
    (fun t i => ?_) (fun t i => ?_) (fun t i j hij => ?_) (purgeNews_congr p q)
    (s.schedule.slotsWhere_nodup _) s
  · unfold State.purgeOne
    split
    · exact t.freeEntry_timebase i
    · exact t.freeAndTell_timebase i _
  · unfold State.purgeOne
    split
    · exact t.freeEntry_ports i
    · exact t.freeAndTell_ports i _
  · rw [(t.purgeOne_freed p q i).1, State.freeEntry_slot, if_neg fun c => hij c.1]

/-- The news of a purge, told slot by slot over the whole table. -/
theorem purge_news (p q r : Port) :
    (s.schedule.slotsWhere fun e => e.owner = q).filterMap (purgeNews p q s r) =
      if r = q ∧ q ≠ p then
        (indices 64).filterMap fun i =>
          match s.schedule.entryAt i with
          | none => none
          | some e =>
            if e.owner = q ∧ e.orphaned = false ∧ e.cancelPending = false then
              some (.entryCancelled (s.schedule.handleAt i) e.label .purged)
            else none
      else [] := by
  unfold Schedule.slotsWhere
  by_cases hr : r = q ∧ q ≠ p
  · obtain ⟨rfl, hq⟩ := hr
    rw [if_pos ⟨rfl, hq⟩, List.filterMap_filter]
    refine List.filterMap_congr fun i _ => ?_
    unfold purgeNews cancelNews
    cases s.schedule.entryAt i with
    | none => rfl
    | some e => by_cases ho : e.owner = r <;> simp [ho, hq]
  · rw [if_neg hr, List.filterMap_filter]
    refine List.filterMap_eq_nil_iff.mpr fun i _ => ?_
    unfold purgeNews cancelNews
    by_cases hq : q = p
    · simp [hq]
    · have hne : ¬ q = r := fun c => hr ⟨c.symm, hq⟩
      cases s.schedule.entryAt i with
      | none => rfl
      | some e => by_cases ho : e.owner = q <;> simp [ho, hne]

/-- Freeing several entries keeps usage and references exact. -/
theorem EntriesWf.freeAll {s : State} (h : EntriesWf s) (is : List SlotIx) :
    EntriesWf (s.freeAll is) := by
  unfold State.freeAll
  induction is generalizing s with
  | nil => exact h
  | cons i is ih => exact ih (h.freeEntry i)

/-- A port with no entry references no line and holds none (R87, R88). -/
theorem EntriesWf.unreferenced {s : State} (h : EntriesWf s) (q : Port)
    (hnone : ∀ i e, s.schedule.entryAt i = some e → e.owner ≠ q) (l : LineIx) :
    (s.lines.get l).refs.get q = 0 ∧ (s.lines.get l).exclHolder ≠ some q := by
  have hrefs : (s.lines.get l).refs.get q = 0 := by
    rw [h.refs, Schedule.count, List.length_eq_zero_iff, List.eq_nil_iff_forall_not_mem]
    intro i hi
    obtain ⟨e, he, htest⟩ := (Schedule.mem_slotsWhere _ _ _).mp hi
    rw [Bool.and_eq_true, decide_eq_true_iff] at htest
    exact hnone i e he htest.1
  refine ⟨hrefs, fun c => ?_⟩
  cases hm : (s.lines.get l).mode with
  | shared => exact nomatch (h.shared l hm).symm.trans c
  | exclusive => exact absurd ((h.exclusive l q hm).mpr c) (by omega)

/-- PURGE_PORT from the holder, outside a pass (R48). -/
theorem State.purgeTaken_good (p q : Port) (k : BitVec 16) (hpass : s.schedule.pass = none) :
    State.purgeTaken p [natByte q.val] k s =
      (s.purge p q).answer p k .ok [natByte (s.schedule.count fun e => e.owner = q)] := by
  have hread : finOfByte 3 (byteAt [natByte q.val] 0) = some q := finOfByte_natByte (by decide) q
  unfold State.purgeTaken
  rw [hpass, hread]
  rfl

/-- An entry of the port stands in the slot. -/
def Schedule.ownedAt (c : Schedule) (q : Port) (i : SlotIx) : Bool :=
  (c.entryAt i).map Entry.owner == some q

theorem Schedule.mem_owned (c : Schedule) (q : Port) (i : SlotIx) :
    (i ∈ c.slotsWhere (fun e => decide (e.owner = q)) ∧ (c.entryAt i).isSome = true)
      ↔ c.ownedAt q i = true := by
  rw [Schedule.mem_slotsWhere, Schedule.ownedAt]
  cases c.entryAt i <;> simp

/-- The slots after a purge (R28 step 5, R48). -/
theorem State.purge_slot (p q : Port) (i : SlotIx) :
    (s.purge p q).schedule.slots.get i =
      if s.schedule.ownedAt q i then { tag := (s.schedule.slots.get i).tag + 1, entry := none }
      else s.schedule.slots.get i := by
  rw [(s.purge_freed p q).1, State.freeAll_slot _ _ _ (s.schedule.slotsWhere_nodup _)]
  simp only [Schedule.mem_owned]

/-- The entries that are gone after a purge are those of its port (R48). -/
theorem State.gone_purge (p q : Port) (i : SlotIx) :
    gone s (s.purge p q) i = s.schedule.ownedAt q i := by
  rw [gone, Schedule.entryAt.eq_1 (s.purge p q).schedule, s.purge_slot p q i]
  cases ho : s.schedule.ownedAt q i with
  | true =>
    have hsome : (s.schedule.entryAt i).isSome = true := ((s.schedule.mem_owned q i).mpr ho).2
    rw [hsome, if_pos rfl]
    rfl
  | false =>
    rw [if_neg Bool.false_ne_true]
    change ((s.schedule.entryAt i).isSome && (s.schedule.entryAt i).isNone) = false
    cases s.schedule.entryAt i <;> rfl

/-- What a purge leaves of entries, usage and references is what freeings leave (R28). -/
theorem State.purge_entriesFreed (p q : Port) : EntriesFreed s (s.purge p q) := by
  obtain ⟨hschedule, hlines⟩ := s.purge_freed p q
  have hsame : EntriesFreed (s.freeAll (s.schedule.slotsWhere fun e => e.owner = q))
      (s.purge p q) := .unfreed (fun i => by rw [hschedule]) (by rw [hschedule]) hlines
  exact (s.freeAll_entriesFreed _).trans hsame

/-- The schedule after a purge (R48). -/
theorem State.purge_schedule (p q : Port) :
    (s.purge p q).schedule =
      { s.schedule with
        slots := (s.purge p q).schedule.slots
        usage := (s.purge p q).schedule.usage
        dueList := s.schedule.dueList.filter fun i => !s.schedule.ownedAt q i
        waiting := s.schedule.waiting.map fun w => w.filter fun i => !s.schedule.ownedAt q i
        sweep := s.schedule.sweep.map fun m => m.filter fun i => !s.schedule.ownedAt q i } := by
  have hfreed := s.purge_entriesFreed p q
  obtain ⟨hschedule, -⟩ := s.purge_freed p q
  obtain ⟨hsweep, hpass⟩ := s.freeAll_sweep (s.schedule.slotsWhere fun e => e.owner = q)
  have hdue := hfreed.dueList
  have hwaiting := hfreed.waiting
  have hquota := hfreed.quota
  have hsame : gone s (s.freeAll (s.schedule.slotsWhere fun e => e.owner = q)) =
      s.schedule.ownedAt q := by
    refine Eq.trans ?_ (funext (s.gone_purge p q))
    unfold gone
    rw [hschedule]
  rw [hsame, ← hschedule] at hsweep
  rw [← hschedule] at hpass
  simp only [s.gone_purge p q] at hdue hwaiting
  rw [← hdue, ← hwaiting, ← hsweep]
  calc (s.purge p q).schedule
    _ = { (s.purge p q).schedule with
          quota := (s.purge p q).schedule.quota, pass := (s.purge p q).schedule.pass } := rfl
    _ = _ := by rw [hquota, hpass]

/-- After a purge the port has no entry, no reference and no line (R48, R87, R88). -/
theorem EntriesWf.purge {s : State} (h : EntriesWf s) (p q : Port) (l : LineIx) :
    ((s.purge p q).lines.get l).refs.get q = 0
      ∧ ((s.purge p q).lines.get l).exclHolder ≠ some q := by
  obtain ⟨hschedule, hlines⟩ := s.purge_freed p q
  rw [hlines]
  refine (h.freeAll _).unreferenced q (fun i e he howner => ?_) l
  have hslot := s.purge_slot p q i
  rw [← hschedule, Schedule.entryAt, hslot] at he
  split at he
  · cases he
  · next hnot =>
    refine hnot ?_
    rw [Schedule.ownedAt, show s.schedule.entryAt i = some e from he, Option.map_some, howner]
    exact beq_self_eq_true _

/-- Settles O38: the entries of the port are freed one by one, and it is told of each. -/
theorem purgePortFreesThePort : Obligations.PurgePortFreesThePort := by
  unfold Obligations.PurgePortFreesThePort
  intro p q lags tag s hready hadm hpass purged
  let u : State := s.takeRequest p lags tag 0x38 [natByte q.val]
  have hexec := exec_admitted s p lags tag .purgePort [natByte q.val] hready hadm rfl
  have htaken := u.purgeTaken_good p q (s.ports.get p).nextTicket hpass
  have hcount : (u.schedule.count fun e => e.owner = q) = (indices 64).countP purged := by
    rw [Schedule.count, Schedule.slotsWhere, List.countP_eq_length_filter]
    congr 2
    funext i
    change ((s.schedule.entryAt i).map _).getD false =
      ((s.schedule.entryAt i).map Entry.owner == some q)
    cases s.schedule.entryAt i <;> simp [Bool.beq_eq_decide_eq]
  have hfreed := u.purge_entriesFreed p q
  have hsame : SameEntries s u :=
    .of_eq rfl rfl fun r => s.attached_takeRequest p r lags tag 0x38 _
  refine ⟨_, hexec.trans (congrArg _ htaken), ?_, u.purge_slot p q, u.purge_schedule p q,
    fun l => (hfreed.lines l).frame, ?_,
    fun hwf l => (hwf.same hsame).purge p q l, ?_⟩
  · rw [State.answer_asked s (u.purge p q) p lags tag 0x38 1 .ok _ (u.purge_ports p q) (.inl rfl),
      hcount, State.purge_frame]
    rfl
  · refine Uncounted.of_start (u := u) ?_ rfl rfl
    exact hfreed.uncounted rfl rfl (fun _ => rfl) fun _ => rfl
  · have htold := (u.purge_told p q).of_start (s := s) rfl fun r =>
      s.attached_takeRequest p r _ _ _ _
    exact (htold.same rfl rfl rfl).congr fun r _ => purge_news u p q r

end Sys2Proof.Machine

/-! PROOFS. The hand-over of a waiting list: slots, lists, counts and notices (R28 to R32, R72). -/

namespace Sys2Proof.Machine

variable (s : State)

/-! ### Entries freed and others changed, whatever becomes of the lists (R28, R33, R87) -/

/-- From `s` to `t` entries have been freed by R28 and others have kept their owner and their lines; usage
and lines tell of no other change. -/
structure Released (s t : State) : Prop where
  kept : EntriesKept s t
  usage : ∀ q : Port, t.schedule.usage.get q =
    s.schedule.usage.get q - goneWeight (fun e => if e.owner = q then 1 else 0) s t
  lines : ∀ l : LineIx, LineLost
    (fun q => goneWeight (fun e => if e.owner = q then e.lines.count l else 0) s t)
    (s.lines.get l) (t.lines.get l)

theorem EntriesFreed.released {s t : State} (h : EntriesFreed s t) : Released s t :=
  ⟨h.kept, h.usage, h.lines⟩

theorem Released.trans {s t u : State} (h1 : Released s t) (h2 : Released t u) : Released s u where
  kept := h1.kept.trans h2.kept
  usage := fun q => by
    rw [h2.usage, h1.usage, goneWeight_trans (.owned q _ .one) h1.kept h2.kept, Nat.sub_sub]
  lines := fun l => by
    simpa only [← goneWeight_trans (.owned _ _ (.count l)) h1.kept h2.kept]
      using (h1.lines l).trans (h2.lines l)

/-- Where every entry keeps its owner and its lines, and usage and lines stay, none is freed. -/
theorem Released.unfreed {s t : State}
    (hentries : ∀ i, (t.schedule.entryAt i).map (fun e => (e.owner, e.lines)) =
      (s.schedule.entryAt i).map fun e => (e.owner, e.lines))
    (husage : t.schedule.usage = s.schedule.usage) (hlines : t.lines = s.lines) : Released s t := by
  have hgone (i : SlotIx) : gone s t i = false := gone_eq_false (hentries i)
  refine ⟨fun i => .inr (hentries i), fun q => ?_, fun l => ?_⟩
  · rw [goneWeight_eq_zero _ hgone, husage]
    rfl
  · simp only [goneWeight_eq_zero _ hgone, hlines]
    exact LineLost.nothing _

theorem Released.uncounted {s t : State} (h : Released s t) : Uncounted s t where
  usage := fun q => by rw [h.usage, countP_freedOf]
  refs := fun l q => by rw [(h.lines l).refs, freedRefs_eq_goneWeight]
  holders := fun l => by
    rw [(h.lines l).holder]
    cases (s.lines.get l).exclHolder with
    | none => rfl
    | some q => simp only [freedRefs_eq_goneWeight]

/-! ### One entry handed over (R32) -/

/-- The due that a capture at a stamp gives an entry (R32). -/
def Entry.captureDue (e : Entry) (stamp : Nat) : Nat := stamp + e.captureOffset.getD 0

/-- The record of an entry that is SCHEDULED with a due (R32). -/
def Entry.scheduledAt (e : Entry) (due : Nat) : Entry :=
  { e with due := some due, state := .scheduled }

/-- A slot whose entry a capture at a stamp takes (R32). -/
def handedSlot (stamp : Nat) (sl : Slot) : Slot :=
  match sl.entry with
  | none => sl
  | some e =>
    if e.captureDue stamp ≤ maxNow then { sl with entry := some (e.scheduledAt (e.captureDue stamp)) }
    else { tag := sl.tag + 1, entry := none }

/-- The slot holds an entry that a capture at a stamp schedules (R32). -/
def Schedule.fits (c : Schedule) (stamp : Nat) (i : SlotIx) : Bool :=
  ((c.entryAt i).map fun e => decide (e.captureDue stamp ≤ maxNow)).getD false

/-- A capture schedules an entry whose due lies in range (R32). -/
theorem State.handOverOne_fits {stamp : Nat} {i : SlotIx} {e : Entry}
    (he : s.schedule.entryAt i = some e) (hdue : e.captureDue stamp ≤ maxNow) :
    s.handOverOne stamp i =
      s.mapSchedule fun c =>
        (c.mapEntry i fun x => x.scheduledAt (e.captureDue stamp)).place i := by
  unfold State.handOverOne
  rw [he]
  exact if_neg (Nat.not_lt.mpr hdue)

/-- A capture frees an entry whose due would lie beyond the range (R32). -/
theorem State.handOverOne_beyond {stamp : Nat} {i : SlotIx} {e : Entry}
    (he : s.schedule.entryAt i = some e) (hdue : ¬ e.captureDue stamp ≤ maxNow) :
    s.handOverOne stamp i = s.freeAndTell i .timeRange := by
  unfold State.handOverOne
  rw [he]
  exact if_pos (Nat.not_le.mp hdue)

theorem State.handOverOne_empty {i : SlotIx} (stamp : Nat) (he : s.schedule.entryAt i = none) :
    s.handOverOne stamp i = s := by
  unfold State.handOverOne
  rw [he]

/-- The slots after one entry has been handed over (R32). -/
theorem State.handOverOne_slot (stamp : Nat) (i j : SlotIx) :
    (s.handOverOne stamp i).schedule.slots.get j =
      if i = j then handedSlot stamp (s.schedule.slots.get j) else s.schedule.slots.get j := by
  cases he : s.schedule.entryAt i with
  | none =>
    rw [s.handOverOne_empty stamp he]
    split
    · next hj => rw [← hj, handedSlot, show (s.schedule.slots.get i).entry = none from he]
    · rfl
  | some e =>
    have hslot : (s.schedule.slots.get i).entry = some e := he
    by_cases hdue : e.captureDue stamp ≤ maxNow
    · rw [s.handOverOne_fits he hdue, State.mapSchedule_schedule, Schedule.place_slots,
        Schedule.mapEntry_slot]
      split
      · next hj =>
        rw [← hj, handedSlot, hslot, he]
        exact (if_pos hdue).symm
      · rfl
    · rw [s.handOverOne_beyond he hdue, (s.freeAndTell_freed i .timeRange).1, State.freeEntry_slot]
      by_cases hj : i = j
      · subst hj
        rw [if_pos ⟨rfl, by rw [he]; rfl⟩, if_pos rfl, handedSlot, hslot]
        exact (if_neg hdue).symm
      · rw [if_neg fun c => hj c.1, if_neg hj]

/-- One hand-over frees its entry or keeps its owner and its lines. -/
theorem State.handOverOne_released (stamp : Nat) (i : SlotIx) :
    Released s (s.handOverOne stamp i) := by
  cases he : s.schedule.entryAt i with
  | none =>
    rw [s.handOverOne_empty stamp he]
    exact .unfreed (fun _ => rfl) rfl rfl
  | some e =>
    by_cases hdue : e.captureDue stamp ≤ maxNow
    · rw [s.handOverOne_fits he hdue]
      refine .unfreed (fun j => ?_) rfl rfl
      rw [State.mapSchedule_schedule, Schedule.entryAt, Schedule.place_slots]
      change (((s.schedule.mapEntry i fun x =>
        x.scheduledAt (e.captureDue stamp)).entryAt j).map _) = _
      rw [Schedule.mapEntry_entryAt]
      split
      · rw [Option.map_map]
        rfl
      · rfl
    · rw [s.handOverOne_beyond he hdue]
      exact (s.freeAndTell_entriesFreed i .timeRange).released

/-- The news of an entry that a capture cannot schedule (R29, R32). -/
def handOverNews (stamp : Nat) (s : State) (q : Port) (i : SlotIx) : Option NoticeBody :=
  (s.schedule.entryAt i).bind fun e =>
    if e.captureDue stamp ≤ maxNow then none else cancelNews s .timeRange i e q

theorem handOverNews_congr (stamp : Nat) (t u : State) (q : Port) (i : SlotIx)
    (h : t.schedule.slots.get i = u.schedule.slots.get i) :
    handOverNews stamp t q i = handOverNews stamp u q i := by
  unfold handOverNews cancelNews Schedule.entryAt Schedule.handleAt
  rw [h]

theorem State.handOverOne_told (stamp : Nat) (i : SlotIx) :
    Told s (s.handOverOne stamp i) fun q => (handOverNews stamp s q i).toList := by
  unfold handOverNews
  cases he : s.schedule.entryAt i with
  | none =>
    rw [s.handOverOne_empty stamp he]
    exact Told.none rfl
  | some e =>
    dsimp only [Option.bind_some]
    by_cases hdue : e.captureDue stamp ≤ maxNow
    · simp only [s.handOverOne_fits he hdue, hdue, if_true]
      exact Told.none rfl
    · simp only [s.handOverOne_beyond he hdue, hdue, if_false]
      exact s.freeAndTell_told i .timeRange e he

/-! ### The lists of one hand-over (R30, R32, R72) -/

/-- What a hand-over leaves of a schedule: all but the slots, the usage and the due list. -/
def Schedule.rest (c : Schedule) :
    Table 4 (List SlotIx) × Table 3 Nat × Option (List SlotIx) × Option Pass :=
  (c.waiting, c.quota, c.sweep, c.pass)

theorem Schedule.eq_of_rest {c d : Schedule} (h : d.rest = c.rest) :
    d = { c with slots := d.slots, usage := d.usage, dueList := d.dueList } := by
  obtain ⟨hwaiting, hquota, hsweep, hpass⟩ :
      d.waiting = c.waiting ∧ d.quota = c.quota ∧ d.sweep = c.sweep ∧ d.pass = c.pass := by
    simpa [Schedule.rest] using h
  rw [← hwaiting, ← hquota, ← hsweep, ← hpass]

theorem Schedule.fits_some {c : Schedule} {stamp : Nat} {i : SlotIx} {e : Entry}
    (he : c.entryAt i = some e) : c.fits stamp i = decide (e.captureDue stamp ≤ maxNow) := by
  rw [Schedule.fits, he]
  rfl

/-- What is still to be handed over stands in no due list. -/
theorem ListsWf.awaited_not_due {s : State} {n : InputIx} {is : List SlotIx}
    (h : ListsWf (s.awaiting n is)) {i : SlotIx} (hi : i ∈ is) : i ∉ s.schedule.dueList := by
  have hmem : i ∈ (s.awaiting n is).schedule.waiting.get n := by
    rw [State.awaiting_waiting, if_pos rfl]
    exact List.mem_append_left _ hi
  obtain ⟨e, he, hstate, -⟩ := h.waiting_of_mem hmem
  exact h.not_mem_dueList he (by rw [hstate]; nofun)

/-- The slot at the head of what is still to be handed over stands in no list of the schedule. -/
theorem ListsWf.awaited_apart {s : State} {n : InputIx} {i : SlotIx} {is : List SlotIx}
    (h : ListsWf (s.awaiting n (i :: is))) :
    i ∉ s.schedule.dueList ∧ (∀ m, i ∉ s.schedule.waiting.get m)
      ∧ ∀ m, s.schedule.sweep = some m → i ∉ m := by
  have hmem : i ∈ (s.awaiting n (i :: is)).schedule.waiting.get n := by
    rw [State.awaiting_waiting, if_pos rfl]
    exact List.mem_append_left _ List.mem_cons_self
  obtain ⟨e, he, -, hinput⟩ := h.waiting_of_mem hmem
  have honce := h.waitingOnce n
  rw [State.awaiting_waiting, if_pos rfl, List.cons_append, List.nodup_cons] at honce
  have hdue := h.awaited_not_due List.mem_cons_self
  refine ⟨hdue, fun m c => ?_, fun m hm c => hdue ((h.sweep m hm).2 i c)⟩
  by_cases hm : n = m
  · subst hm
    exact honce.1 (List.mem_append_right _ c)
  · refine h.not_mem_waiting m he (fun hw => hm ?_) ?_
    · exact Option.some.inj (hinput.symm.trans hw.2)
    · rwa [State.awaiting_waiting, if_neg hm]

/-- The schedule after one hand-over: waiting lists, sweep, pass and quotas stay. -/
theorem ListsWf.handOverOne_rest {s : State} {n : InputIx} {i : SlotIx} {is : List SlotIx}
    (stamp : Nat) (h : ListsWf (s.awaiting n (i :: is))) :
    (s.handOverOne stamp i).schedule.rest = s.schedule.rest := by
  obtain ⟨-, hwaiting, hsweep⟩ := h.awaited_apart
  cases he : s.schedule.entryAt i with
  | none => rw [s.handOverOne_empty stamp he]
  | some e =>
    by_cases hdue : e.captureDue stamp ≤ maxNow
    · rw [s.handOverOne_fits he hdue]
      rfl
    · have hw : s.schedule.waiting.map (fun w => w.filter (· ≠ i)) = s.schedule.waiting :=
        Table.ext_get fun m => by rw [Table.get_map, filter_ne_eq_self (hwaiting m)]
      have hm : s.schedule.sweep.map (fun m => m.filter (· ≠ i)) = s.schedule.sweep := by
        cases hs : s.schedule.sweep with
        | none => rfl
        | some m => exact congrArg some (filter_ne_eq_self (hsweep m hs))
      rw [s.handOverOne_beyond he hdue, (s.freeAndTell_freed i .timeRange).1,
        State.freeEntry_some s i e he, Schedule.rest, Schedule.free_waiting, Schedule.free_sweep,
        hw, hm]
      rfl

/-- An entry that a capture schedules is placed in the due list; one that it frees stood there never
(R32). -/
theorem ListsWf.handOverOne_dueList {s : State} {n : InputIx} {i : SlotIx} {is : List SlotIx}
    (stamp : Nat) (h : ListsWf (s.awaiting n (i :: is))) :
    (s.handOverOne stamp i).schedule.dueList =
      if s.schedule.fits stamp i = true then
        if s.schedule.pass = none then
          placeByKey (s.handOverOne stamp i).schedule.dueAt i s.schedule.dueList
        else s.schedule.dueList ++ [i]
      else s.schedule.dueList := by
  obtain ⟨hnotDue, -, -⟩ := h.awaited_apart
  cases he : s.schedule.entryAt i with
  | none => rw [s.handOverOne_empty stamp he, Schedule.fits, he]; rfl
  | some e =>
    rw [Schedule.fits_some he]
    by_cases hdue : e.captureDue stamp ≤ maxNow
    · rw [s.handOverOne_fits he hdue, if_pos (decide_eq_true hdue)]
      rw [State.mapSchedule_schedule, Schedule.place_dueList, Schedule.mapEntry_pass]
      cases s.schedule.pass <;> rfl
    · rw [s.handOverOne_beyond he hdue, if_neg fun c => hdue (of_decide_eq_true c),
        (s.freeAndTell_freed i .timeRange).1, State.freeEntry_some s i e he]
      exact filter_ne_eq_self hnotDue

/-- A placed entry stands behind those of equal due, and the others keep their order (R30, R32). -/
theorem ListsWf.handOverOne_stable {s : State} {n : InputIx} {i : SlotIx} {is : List SlotIx}
    (stamp : Nat) (h : ListsWf (s.awaiting n (i :: is))) (hpass : s.schedule.pass = none) (v : Nat) :
    ((s.handOverOne stamp i).schedule.dueList.filter fun k =>
        decide ((s.handOverOne stamp i).schedule.dueAt k = v)) =
      (s.schedule.dueList ++ [i].filter (s.schedule.fits stamp)).filter fun k =>
        decide ((s.handOverOne stamp i).schedule.dueAt k = v) := by
  obtain ⟨hnotDue, -, -⟩ := h.awaited_apart
  have hordered : s.schedule.dueList.Pairwise fun j k =>
      (s.handOverOne stamp i).schedule.dueAt j ≤ (s.handOverOne stamp i).schedule.dueAt k :=
    Schedule.ordered_congr (h.ordered hpass) fun j hj => Schedule.dueAt_congr
      (congrArg Slot.entry ((s.handOverOne_slot stamp i j).trans
        (if_neg fun (c : i = j) => hnotDue (c ▸ hj))))
  rw [h.handOverOne_dueList stamp, if_pos hpass]
  by_cases hfit : s.schedule.fits stamp i = true
  · rw [if_pos hfit, List.filter_cons_of_pos hfit, List.filter_nil]
    exact placeByKey_stable _ i _ v hordered
  · rw [if_neg hfit, List.filter_cons_of_neg hfit, List.filter_nil, List.append_nil]

/-! ### The whole hand-over -/

/-- What handing over some slots of a waiting list leaves, from `s` to `t` (R32, R72). -/
structure HandedOver (stamp : Nat) (is : List SlotIx) (s t : State) : Prop where
  slots : ∀ j, t.schedule.slots.get j =
    if j ∈ is then handedSlot stamp (s.schedule.slots.get j) else s.schedule.slots.get j
  rest : t.schedule.rest = s.schedule.rest
  released : Released s t
  inPass : s.schedule.pass ≠ none →
    t.schedule.dueList = s.schedule.dueList ++ is.filter (s.schedule.fits stamp)
  noPass : s.schedule.pass = none → ∀ v,
    (t.schedule.dueList.filter fun k => decide (t.schedule.dueAt k = v)) =
      (s.schedule.dueList ++ is.filter (s.schedule.fits stamp)).filter fun k =>
        decide (t.schedule.dueAt k = v)

theorem Schedule.fits_congr {c d : Schedule} (stamp : Nat) {i : SlotIx}
    (h : d.slots.get i = c.slots.get i) : d.fits stamp i = c.fits stamp i := by
  rw [Schedule.fits, Schedule.fits, Schedule.entryAt, Schedule.entryAt, h]

/-- Handing over slot after slot (R32). -/
theorem ListsWf.handOver_leaves {s : State} {n : InputIx} (stamp : Nat) {is : List SlotIx}
    (hlists : ListsWf (s.awaiting n is)) :
    HandedOver stamp is s (is.foldl (State.handOverOne stamp) s) := by
  induction is generalizing s with
  | nil =>
    exact ⟨fun _ => rfl, rfl, .unfreed (fun _ => rfl) rfl rfl,
      fun _ => (List.append_nil _).symm, fun _ v => by rw [List.filter_nil, List.append_nil]; rfl⟩
  | cons i is ih =>
    have hnext := hlists.handOverOne stamp
    obtain ⟨hslots, hrest, hreleased, hinPass, hnoPass⟩ := ih hnext
    have hone := hlists.handOverOne_rest stamp
    have honeDue := hlists.handOverOne_dueList stamp
    have honeSlot := s.handOverOne_slot stamp i
    have hpass : (s.handOverOne stamp i).schedule.pass = s.schedule.pass :=
      congrArg (fun x => x.2.2.2) hone
    have hnodup : (i :: is).Nodup := by
      have honce := hlists.waitingOnce n
      rw [State.awaiting_waiting, if_pos rfl] at honce
      exact (List.nodup_append.mp honce).1
    obtain ⟨hi, -⟩ := List.nodup_cons.mp hnodup
    have hfits : is.filter ((s.handOverOne stamp i).schedule.fits stamp) =
        is.filter (s.schedule.fits stamp) := List.filter_congr fun j hj =>
      Schedule.fits_congr stamp ((honeSlot j).trans (if_neg fun (c : i = j) => hi (c ▸ hj)))
    rw [List.foldl_cons]
    generalize is.foldl (State.handOverOne stamp) (s.handOverOne stamp i) = t at *
    refine ⟨fun j => ?_, hrest.trans hone, (s.handOverOne_released stamp i).trans hreleased, fun hp => ?_,
      fun hp v => ?_⟩
    · rw [hslots, honeSlot]
      by_cases hj : i = j
      · subst hj
        simp [hi]
      · have hj' : j ≠ i := fun c => hj c.symm
        simp [hj, hj']
    · rw [hinPass (hpass ▸ hp), honeDue, hfits, List.filter_cons, if_neg hp]
      split
      · rw [List.append_assoc]; rfl
      · rfl
    · have hkeep (k : SlotIx) (hk : k ∉ is) :
          t.schedule.dueAt k = (s.handOverOne stamp i).schedule.dueAt k :=
        Schedule.dueAt_congr (congrArg Slot.entry ((hslots k).trans (if_neg hk)))
      have hbefore (k : SlotIx) (hk : k ∈ s.schedule.dueList ++ [i].filter (s.schedule.fits stamp)) :
          k ∉ is := fun c => by
        rcases List.mem_append.mp hk with hk | hk
        · exact hlists.awaited_not_due (List.mem_cons_of_mem i c) hk
        · exact hi (List.mem_singleton.mp (List.mem_of_mem_filter hk) ▸ c)
      have hplaced : ((s.handOverOne stamp i).schedule.dueList.filter fun k =>
            decide (t.schedule.dueAt k = v)) =
          (s.schedule.dueList ++ [i].filter (s.schedule.fits stamp)).filter fun k =>
            decide (t.schedule.dueAt k = v) := by
        rw [List.filter_congr fun k hk => by
            rw [hkeep k fun c => hnext.awaited_not_due c hk],
          hlists.handOverOne_stable stamp hp v]
        exact List.filter_congr fun k hk => by rw [hkeep k (hbefore k hk)]
      rw [hnoPass (hpass.trans hp) v, hfits, List.filter_append, hplaced, ← List.filter_append,
        List.append_assoc, ← List.filter_append]
      rfl

end Sys2Proof.Machine

/-! PROOFS. An edge on a capture input: the hand-over, the record and what is told (R126 to R135). -/

namespace Sys2Proof.Machine

variable (s : State)

/-! ### The hand-over of the list of an input (R32) -/

theorem State.handOver_eq (n : InputIx) (stamp : Nat) :
    s.handOver n stamp =
      (s.schedule.waiting.get n).foldl (State.handOverOne stamp) (s.emptied n) := rfl

/-- What a hand-over leaves (R32). -/
theorem ListsWf.handOver_handedOver {s : State} (h : ListsWf s) (n : InputIx) (stamp : Nat) :
    HandedOver stamp (s.schedule.waiting.get n) (s.emptied n) (s.handOver n stamp) :=
  (h.of_schedule_eq (s.emptied_awaiting n)).handOver_leaves stamp

/-- Who is told of a hand-over (R29, R32). -/
theorem State.handOver_told (n : InputIx) (stamp : Nat)
    (hn : (s.schedule.waiting.get n).Nodup) :
    Told s (s.handOver n stamp) fun q =>
      (s.schedule.waiting.get n).filterMap (handOverNews stamp s q) := by
  rw [State.handOver_eq]
  refine (Told.foldl (step := State.handOverOne stamp) (fun t i => t.handOverOne_told stamp i)
    (fun t i => t.handOverOne_timebase stamp i) (fun t i => t.handOverOne_ports stamp i)
    (fun t i j hij => (t.handOverOne_slot stamp i j).trans (if_neg hij))
    (handOverNews_congr stamp) hn (s.emptied n)).of_start rfl fun _ => rfl

/-! ### CAPTURE_TRIGGERED (R132) -/

/-- The news of an entry that a capture has scheduled (R132). -/
def triggeredNews (r : CaptureRecord) (c : Schedule) (q : Port) (i : SlotIx) : Option NoticeBody :=
  (c.entryAt i).bind fun e =>
    if e.owner = q ∧ e.captureDue r.stamp ≤ maxNow ∧ e.notify = true ∧ e.orphaned = false
        ∧ e.cancelPending = false then
      some (.captureTriggered (c.handleAt i) e.label r.input r.seq r.stamp (e.captureDue r.stamp))
    else none

theorem State.postTriggered_told (r : CaptureRecord) (c : Schedule) (i : SlotIx) :
    Told s (s.postTriggered r c i) fun q => (triggeredNews r c q i).toList := by
  have hnone : Told s s fun _ => [] := Told.none rfl
  unfold State.postTriggered triggeredNews
  cases he : c.entryAt i with
  | none => exact hnone
  | some e =>
    dsimp only [Option.bind_some]
    change Told s (if (decide (e.captureDue r.stamp ≤ maxNow) && e.notify && !e.orphaned
      && !e.cancelPending) = true then _ else _) _
    split
    · next hpost =>
      simp only [Bool.and_eq_true, decide_eq_true_eq, Bool.not_eq_true', and_assoc] at hpost
      refine (hnone.post e.owner _ fun _ => rfl).congr fun q _ => ?_
      by_cases hq : e.owner = q
      · rw [if_pos hq, if_pos ⟨hq, hpost⟩]
        rfl
      · rw [if_neg hq, if_neg fun c => hq c.1]
        rfl
    · next hquiet =>
      simp only [Bool.and_eq_true, decide_eq_true_eq, Bool.not_eq_true', and_assoc] at hquiet
      refine hnone.congr fun q _ => ?_
      rw [if_neg fun c => hquiet c.2]
      rfl

/-- The notices of a hand-over leave schedule and lines as the hand-over does (R132). -/
theorem State.handOverCapture_leaves (r : CaptureRecord) :
    (s.handOverCapture r).schedule = (s.handOver r.input r.stamp).schedule
      ∧ (s.handOverCapture r).lines = (s.handOver r.input r.stamp).lines := by
  unfold State.handOverCapture
  generalize s.schedule.waiting.get r.input = is
  generalize s.handOver r.input r.stamp = u
  induction is generalizing u with
  | nil => exact ⟨rfl, rfl⟩
  | cons i is ih =>
    obtain ⟨hs, hl⟩ := ih (u.postTriggered r s.schedule i)
    refine ⟨hs.trans ?_, hl.trans ?_⟩ <;> rw [State.postTriggered_frame]

/-- Who is told of a capture's hand-over: the owners of freed entries first, then those of scheduled ones
(R29, R132). -/
theorem State.handOverCapture_told (r : CaptureRecord)
    (hn : (s.schedule.waiting.get r.input).Nodup) :
    Told s (s.handOverCapture r) fun q =>
      (s.schedule.waiting.get r.input).filterMap (handOverNews r.stamp s q)
        ++ (s.schedule.waiting.get r.input).filterMap (triggeredNews r s.schedule q) := by
  have htriggered : Told (s.handOver r.input r.stamp) (s.handOverCapture r) fun q =>
      (s.schedule.waiting.get r.input).filterMap (triggeredNews r s.schedule q) :=
    Told.foldl (step := State.postTriggered r s.schedule)
      (news := fun _ => triggeredNews r s.schedule) (fun t i => t.postTriggered_told r _ i)
      (fun t i => by rw [State.postTriggered_frame]) (fun t i => by rw [State.postTriggered_frame])
      (fun t i j _ => by rw [State.postTriggered_frame]) (fun _ _ _ _ _ => rfl) hn _
  refine (s.handOver_told r.input r.stamp hn).trans htriggered ?_ ?_
    (State.attached_congr (s.handOver_ports _ _))
  all_goals rw [State.handOverCapture_timebase, State.handOver_timebase]

/-! ### The fate of the record (R133, R134) -/

/-- The news of a record to one port (R133, R134). -/
def storeNews (s : State) (r : CaptureRecord) (q : Port) : List NoticeBody :=
  if hasBit r.readers q = false then []
  else if 32 ≤ s.capture.log.length then
    [.captureDropped r.input r.edge r.seq r.stamp r.stopped r.epoch .logFull]
  else if ∃ y ∈ s.capture.log, y.seq = r.seq then
    [.captureDropped r.input r.edge r.seq r.stamp r.stopped r.epoch .sequenceInUse]
  else if (s.capture.log.all fun x => !hasBit x.readers q) = true then
    [.captureAvailable r.input r.seq 1]
  else []

/-- A dropped record is told to its readers (R133). -/
theorem State.dropCapture_told (r : CaptureRecord) (reason : DropReason) :
    Told s (s.dropCapture r reason) fun q =>
      if hasBit r.readers q = true then
        [.captureDropped r.input r.edge r.seq r.stamp r.stopped r.epoch reason] else [] :=
  (Told.none (s := s) (t := s) rfl).postWhere (hasBit r.readers) _ fun _ => rfl

/-- No record of the log is owed to a port (R134). -/
theorem Capture.owed_eq_zero (c : Capture) (q : Port) :
    c.owed q = 0 ↔ (c.log.all fun x => !hasBit x.readers q) = true := by
  rw [Capture.owed, List.countP_eq_zero, List.all_eq_true]
  simp

/-- An appended record is told to its readers to whom none was owed (R134). -/
theorem State.appendCapture_told (r : CaptureRecord) :
    Told s (s.appendCapture r) fun q =>
      if (hasBit r.readers q && s.capture.owed q = 0) = true then
        [.captureAvailable r.input r.seq 1] else [] :=
  (Told.none (s := s) (t := s.mapCapture fun c => { c with log := c.log ++ [r] }) rfl).postWhere
    (fun q => hasBit r.readers q && s.capture.owed q = 0) _ fun _ => rfl

theorem State.storeCapture_told (r : CaptureRecord) : Told s (s.storeCapture r) (storeNews s r) := by
  have hinUse : (s.capture.log.any fun x => decide (x.seq = r.seq)) = true ↔
      ∃ y ∈ s.capture.log, y.seq = r.seq := by
    simp only [List.any_eq_true, decide_eq_true_eq]
  unfold State.storeCapture storeNews
  by_cases hnone : r.readers = 0
  · rw [if_pos hnone]
    refine (Told.none rfl).congr fun q _ => ?_
    have hempty : hasBit r.readers q = false := by rw [hnone]; exact BitVec.getLsbD_zero
    rw [if_pos hempty]
  rw [if_neg hnone]
  by_cases hfull : logRoom ≤ s.capture.log.length
  · have hfull' : 32 ≤ s.capture.log.length := hfull
    rw [if_pos hfull]
    refine (s.dropCapture_told r .logFull).congr fun q _ => ?_
    cases hq : hasBit r.readers q <;> simp [hfull']
  have hfull' : ¬ 32 ≤ s.capture.log.length := hfull
  rw [if_neg hfull]
  by_cases huse : ∃ y ∈ s.capture.log, y.seq = r.seq
  · rw [if_pos (hinUse.mpr huse)]
    refine (s.dropCapture_told r .sequenceInUse).congr fun q _ => ?_
    cases hq : hasBit r.readers q <;> simp [hfull', huse]
  · rw [if_neg (mt hinUse.mp huse)]
    refine (s.appendCapture_told r).congr fun q _ => ?_
    simp only [Bool.and_eq_true, decide_eq_true_eq, Capture.owed_eq_zero]
    cases hq : hasBit r.readers q <;> simp [hfull', huse]

/-! ### An accepted edge (R129) -/

/-- The part once an accepted edge is numbered and stamped, before its hand-over (R129 to R131). -/
def State.captured (n : InputIx) (d : Edge) : State :=
  s.mapCapture fun c =>
    { c with
      sequence := (s.newCapture n d).seq
      inputs := c.inputs.upd n fun x => { x with level := levelAfter d, sinceLast := some 0 } }

theorem State.acceptEdge_eq (n : InputIx) (d : Edge) :
    s.acceptEdge n d =
      ((s.captured n d).handOverCapture (s.newCapture n d)).storeCapture (s.newCapture n d) := rfl

/-- An accepted edge leaves schedule and lines as its hand-over does (R129). -/
theorem State.acceptEdge_leaves (n : InputIx) (d : Edge) :
    (s.acceptEdge n d).schedule = ((s.captured n d).handOver n s.timebase.now).schedule
      ∧ (s.acceptEdge n d).lines = ((s.captured n d).handOver n s.timebase.now).lines := by
  obtain ⟨hschedule, hlines⟩ := (s.captured n d).handOverCapture_leaves (s.newCapture n d)
  rw [State.acceptEdge_eq, State.storeCapture_schedule, State.storeCapture_lines]
  exact ⟨hschedule, hlines⟩

/-- What was handed over depends on schedules and lines alone. -/
theorem HandedOver.of_eq {stamp : Nat} {is : List SlotIx} {s t u v : State}
    (h : HandedOver stamp is s t) (hs : u.schedule = s.schedule) (hsl : u.lines = s.lines)
    (ht : v.schedule = t.schedule) (htl : v.lines = t.lines) : HandedOver stamp is u v where
  slots := by rw [hs, ht]; exact h.slots
  rest := by rw [hs, ht]; exact h.rest
  released :=
    have hstart : Released u s := .unfreed (fun i => by rw [hs]) (by rw [hs]) hsl.symm
    have hend : Released t v := .unfreed (fun i => by rw [ht]) (by rw [ht]) htl
    hstart.trans (h.released.trans hend)
  inPass := by rw [hs, ht]; exact h.inPass
  noPass := by rw [hs, ht]; exact h.noPass

/-- The hand-over of an accepted edge (R32, R129). -/
theorem ListsWf.acceptEdge_handedOver {s : State} (h : ListsWf s) (n : InputIx) (d : Edge) :
    HandedOver s.timebase.now (s.schedule.waiting.get n) (s.emptied n) (s.acceptEdge n d) := by
  obtain ⟨hschedule, hlines⟩ := s.acceptEdge_leaves n d
  have hhanded := (h.of_schedule_eq (t := s.captured n d) rfl).handOver_handedOver n s.timebase.now
  exact hhanded.of_eq rfl rfl hschedule hlines

/-- Who is told of an accepted edge, in this order (R129, R132 to R134). -/
theorem State.acceptEdge_told (n : InputIx) (d : Edge) (hn : (s.schedule.waiting.get n).Nodup) :
    Told s (s.acceptEdge n d) fun q =>
      (s.schedule.waiting.get n).filterMap (handOverNews s.timebase.now s q)
        ++ (s.schedule.waiting.get n).filterMap (triggeredNews (s.newCapture n d) s.schedule q)
        ++ storeNews s (s.newCapture n d) q := by
  have hhanded := (s.captured n d).handOverCapture_told (s.newCapture n d) hn
  have hstored := ((s.captured n d).handOverCapture (s.newCapture n d)).storeCapture_told
    (s.newCapture n d)
  have hstore (q : Port) :
      storeNews ((s.captured n d).handOverCapture (s.newCapture n d)) (s.newCapture n d) q =
        storeNews s (s.newCapture n d) q := by
    unfold storeNews
    rw [State.handOverCapture_capture]
    rfl
  rw [State.acceptEdge_eq]
  refine ((hhanded.trans hstored ?_ ?_ ?_).of_start rfl fun _ => rfl).congr fun q _ => ?_
  · rw [State.storeCapture_timebase]
  · rw [State.storeCapture_timebase]
  · exact State.attached_congr (State.handOverCapture_ports _ _)
  · rw [hstore]
    rfl

/-- The slots after a hand-over, written out (R32). -/
theorem handedSlot_eq (stamp : Nat) (sl : Slot) (is : List SlotIx) (j : SlotIx) :
    (if j ∈ is then handedSlot stamp sl else sl) =
      match sl.entry with
      | none => sl
      | some e =>
        if j ∉ is then sl
        else if e.captureDue stamp ≤ maxNow then
          { sl with entry := some (e.scheduledAt (e.captureDue stamp)) }
        else { tag := sl.tag + 1, entry := none } := by
  unfold handedSlot
  cases sl.entry with
  | none => exact ite_self sl
  | some e => by_cases hj : j ∈ is <;> simp [hj]

/-! ### The edge (R126, R129) -/

/-- An edge is accepted where its input is set for it and the holdoff has elapsed (R129). -/
theorem CaptureInput.accepts_iff (x : CaptureInput) (d : Edge) :
    x.accepts d = true ↔
      (x.edge = .both ∨ (x.edge = .rising ∧ d = .rising) ∨ (x.edge = .falling ∧ d = .falling))
        ∧ ∀ k ∈ x.sinceLast, x.holdoff ≤ k := by
  have hedge : x.edge.isFor d = true ↔
      x.edge = .both ∨ (x.edge = .rising ∧ d = .rising) ∨ (x.edge = .falling ∧ d = .falling) := by
    cases x.edge <;> cases d <;> simp [EdgeSetting.isFor]
  have helapsed : x.holdoffElapsed = true ↔ ∀ k ∈ x.sinceLast, x.holdoff ≤ k := by
    unfold CaptureInput.holdoffElapsed
    cases x.sinceLast <;> simp
  rw [CaptureInput.accepts, Bool.and_eq_true, hedge, helapsed]

/-- A pin stands before an edge where it does not stand after it (R126). -/
theorem level_eq_levelBefore_iff (x : PinLevel) (d : Edge) :
    x = levelBefore d ↔ x ≠ levelAfter d := by
  cases x <;> cases d <;> decide

/-- The news of the entries that a capture frees, in the words of R29 and R32. -/
theorem handOverNews_eq (stamp : Nat) (q : Port) (j : SlotIx) :
    handOverNews stamp s q j =
      match s.schedule.entryAt j with
      | none => none
      | some e =>
        if e.owner = q ∧ e.orphaned = false ∧ e.cancelPending = false
            ∧ decide (maxNow < e.captureDue stamp) = true then
          some (.entryCancelled (s.schedule.handleAt j) e.label .timeRange)
        else none := by
  unfold handOverNews cancelNews
  cases s.schedule.entryAt j with
  | none => rfl
  | some e =>
    by_cases hdue : e.captureDue stamp ≤ maxNow
    · have hnot : ¬ maxNow < e.captureDue stamp := Nat.not_lt.mpr hdue
      simp [hdue, hnot]
    · have hbeyond : maxNow < e.captureDue stamp := Nat.not_le.mp hdue
      simp [hdue, hbeyond]

/-- The news of the entries that a capture schedules, in the words of R132. -/
theorem triggeredNews_eq (r : CaptureRecord) (c : Schedule) (q : Port) (j : SlotIx) :
    triggeredNews r c q j =
      match c.entryAt j with
      | none => none
      | some e =>
        if e.owner = q ∧ e.orphaned = false ∧ e.cancelPending = false
            ∧ (e.notify && decide (e.captureDue r.stamp ≤ maxNow)) = true then
          some (.captureTriggered (c.handleAt j) e.label r.input r.seq r.stamp
            (e.captureDue r.stamp))
        else none := by
  unfold triggeredNews
  cases c.entryAt j with
  | none => rfl
  | some e =>
    refine if_congr ?_ rfl rfl
    rw [Bool.and_eq_true, decide_eq_true_iff]
    tauto

/-- Settles O50: the level decides whether there is an edge, the input whether it is accepted, and an
accepted edge hands the waiting list over and stores its record. -/
theorem captureEdgeTaken : Obligations.CaptureEdgeTaken := by
  unfold Obligations.CaptureEdgeTaken
  intro n edge s hr x level matched elapsed r full inUse waiting due taken scheduled told
  have hexec : exec (.captureEdge n edge) s = .next (s.noted.takeEdge n edge) :=
    congrArg Host.Outcome.next (s.event_taken _ hr)
  have hafter : level = levelAfter edge := by cases edge <;> rfl
  have haccepts : x.accepts edge = true ↔ matched ∧ elapsed := x.accepts_iff edge
  refine ⟨fun hx => ?_, fun hx hnot => ?_, fun hx hmatched helapsed hlists => ?_⟩
  · refine hexec.trans (congrArg _ (if_pos ?_))
    exact fun c => (level_eq_levelBefore_iff x.level edge).mp c (hx.trans hafter)
  · have hbefore := (level_eq_levelBefore_iff x.level edge).mpr (hafter ▸ hx)
    refine hexec.trans (congrArg _ ((if_neg (not_not.mpr hbefore)).trans
      ((if_neg (mt haccepts.mp hnot)).trans ?_)))
    rw [hafter]
    rfl
  have hbefore := (level_eq_levelBefore_iff x.level edge).mpr (hafter ▸ hx)
  have haccepted : s.noted.takeEdge n edge = s.noted.acceptEdge n edge :=
    (if_neg (not_not.mpr hbefore)).trans (if_pos (haccepts.mpr ⟨hmatched, helapsed⟩))
  have hnoted : ListsWf s.noted := hlists.of_schedule_eq rfl
  have hhanded := (hnoted.acceptEdge_handedOver n edge).of_eq (u := s.emptied n) rfl rfl rfl rfl
  have htold := (s.noted.acceptEdge_told n edge (hnoted.waitingOnce n)).of_start (s := s) rfl
    fun _ => rfl
  have hlistsAfter : ListsWf (s.noted.acceptEdge n edge) :=
    ((hnoted.of_schedule_eq (t := s.noted.captured n edge) rfl).handOver n _).of_schedule_eq
      (s.noted.acceptEdge_leaves n edge).1
  have hframe := s.noted.acceptEdge_frame n edge
  have hcapture := State.storeCapture_capture
    ((s.noted.captured n edge).handOverCapture (s.noted.newCapture n edge))
    (s.noted.newCapture n edge)
  rw [← State.acceptEdge_eq, State.handOverCapture_capture] at hcapture
  have hemptied : Released s (s.emptied n) := .unfreed (fun _ => rfl) rfl rfl
  have hreleased := hemptied.trans hhanded.released
  refine ⟨_, hexec.trans (congrArg _ haccepted), ?_, fun j => ?_, Schedule.eq_of_rest hhanded.rest,
    hreleased.uncounted, fun l => (hreleased.lines l).frame, hhanded.inPass,
    fun hpass => ⟨hlistsAfter.ordered ?_, fun j => hhanded.noPass hpass _⟩,
    htold.congr fun q _ => ?_⟩
  · have hlog : (s.noted.acceptEdge n edge).capture =
        { s.capture with
          sequence := r.seq
          inputs := s.capture.inputs.set n { x with level := level, sinceLast := some 0 }
          log := if r.readers = 0 ∨ full ∨ inUse then s.capture.log else s.capture.log ++ [r] } := by
      rw [hcapture, hafter]
      by_cases hdropped : r.readers = 0 ∨ full ∨ inUse
      · rw [if_pos hdropped]
        exact if_pos hdropped
      · rw [if_neg hdropped]
        exact if_neg hdropped
    rwa [hlog] at hframe
  · exact (hhanded.slots j).trans (handedSlot_eq _ _ _ _)
  · exact (congrArg (fun c => c.2.2.2) hhanded.rest).trans hpass
  · have hfreed : waiting.filterMap (handOverNews s.timebase.now s.noted q) =
        told q (fun e => decide (maxNow < due e))
          (fun j e => .entryCancelled (s.schedule.handleAt j) e.label .timeRange) :=
      List.filterMap_congr fun j _ => handOverNews_eq s.noted _ q j
    have htriggered : waiting.filterMap (triggeredNews (s.noted.newCapture n edge) s.schedule q) =
        told q (fun e => e.notify && decide (due e ≤ maxNow))
          (fun j e => .captureTriggered (s.schedule.handleAt j) e.label n r.seq r.stamp (due e)) :=
      List.filterMap_congr fun j _ => triggeredNews_eq _ _ q j
    exact congrArg₂ (· ++ ·) (congrArg₂ (· ++ ·) hfreed htriggered) rfl

end Sys2Proof.Machine

/-! PROOFS. One expiry: repetition in closed form, and the schedule and the sweep that it leaves (R51, R53 to R61). -/

namespace Sys2Proof.Machine

variable (s : State)

/-! ### Repetition and catch-up in closed form (R55 to R58, R196) -/

/-- What becomes of an entry at its expiry, with the skipped periods in closed form (R57, R196). -/
theorem repetition_eq {due now : Nat} (period left : Nat) (h : due ≤ now) :
    repetition due period left now =
      if period = 0 then .ends 0 false
      else if left ≠ 0 ∧ left ≤ (now - due) / period + 1 then .ends (left - 1) false
      else if maxNow < due + ((now - due) / period + 1) * period then
        .ends ((now - due) / period) true
      else
        .again (due + ((now - due) / period + 1) * period)
          (if left = 0 then 0 else left - 1 - (now - due) / period) ((now - due) / period) := by
  unfold repetition
  by_cases hp : period = 0
  · rw [if_pos hp, if_pos hp]
  rw [if_neg hp, if_neg hp, catchUp_eq due period now (Nat.pos_of_ne_zero hp) h]
  generalize (now - due) / period = k
  by_cases hlast : left = 1
  · subst hlast
    rw [if_pos rfl, if_pos ⟨Nat.one_ne_zero, Nat.le_add_left 1 k⟩]
  · have hout : (left ≠ 0 ∧ left - 1 ≤ k) ↔ (left ≠ 0 ∧ left ≤ k + 1) := by omega
    rw [if_neg hlast]
    simp only [hout]

/-- An entry ends that is one-shot, whose repeats run out, or whose next due would pass the range of Now
(R55, R56, R58). -/
theorem repetition_ends {due period left now : Nat} (h : due ≤ now)
    (hends : period = 0 ∨ (left ≠ 0 ∧ left ≤ (now - due) / period + 1)
      ∨ maxNow < due + ((now - due) / period + 1) * period) :
    ∃ skipped range, repetition due period left now = .ends skipped range := by
  rw [repetition_eq period left h]
  by_cases hp : period = 0
  · exact ⟨_, _, if_pos hp⟩
  by_cases hout : left ≠ 0 ∧ left ≤ (now - due) / period + 1
  · exact ⟨_, _, (if_neg hp).trans (if_pos hout)⟩
  have hbeyond := (hends.resolve_left hp).resolve_left hout
  exact ⟨_, _, (if_neg hp).trans ((if_neg hout).trans (if_pos hbeyond))⟩

/-- Every other entry goes on (R55, R57, R196). -/
theorem repetition_goesOn {due period left now : Nat} (h : due ≤ now)
    (hgoes : ¬ (period = 0 ∨ (left ≠ 0 ∧ left ≤ (now - due) / period + 1)
      ∨ maxNow < due + ((now - due) / period + 1) * period)) :
    repetition due period left now =
      .again (due + ((now - due) / period + 1) * period)
        (if left = 0 then 0 else left - 1 - (now - due) / period) ((now - due) / period) := by
  rw [not_or, not_or] at hgoes
  obtain ⟨hp, hout, hbeyond⟩ := hgoes
  rw [repetition_eq period left h, if_neg hp, if_neg hout, if_neg hbeyond]

/-- The periods that an expiry skips (R57). -/
def Repetition.skipped : Repetition → Nat
  | .again _ _ n => n
  | .ends n _ => n

/-- The entry ends with its expiry (R55, R56, R58). -/
def Repetition.final : Repetition → Bool
  | .again _ _ _ => false
  | .ends _ _ => true

/-- The entry ends for TIME_RANGE (R58). -/
def Repetition.timeRange : Repetition → Bool
  | .again _ _ _ => false
  | .ends _ range => range

section

variable {due period left now : Nat} (h : due ≤ now)

include h

/-- The periods that an expiry skips, in closed form (R56, R57). -/
theorem repetition_skipped :
    (repetition due period left now).skipped =
      if period = 0 then 0
      else if left ≠ 0 ∧ left ≤ (now - due) / period + 1 then left - 1
      else (now - due) / period := by
  rw [repetition_eq period left h]
  split_ifs <;> rfl

/-- An entry ends for TIME_RANGE where it is not spent and its next due would pass the range of Now (R58). -/
theorem repetition_timeRange :
    (repetition due period left now).timeRange = true ↔
      ¬ (period = 0 ∨ (left ≠ 0 ∧ left ≤ (now - due) / period + 1))
        ∧ maxNow < due + ((now - due) / period + 1) * period := by
  rw [repetition_eq period left h]
  generalize (if left = 0 then 0 else left - 1 - (now - due) / period) = repeats
  split_ifs with hp hout hbeyond
  · exact iff_of_false Bool.false_ne_true fun c => c.1 (.inl hp)
  · exact iff_of_false Bool.false_ne_true fun c => c.1 (.inr hout)
  · exact iff_of_true rfl ⟨not_or.mpr ⟨hp, hout⟩, hbeyond⟩
  · exact iff_of_false Bool.false_ne_true fun c => hbeyond c.2

/-- An entry ends that is spent, or whose next due would pass the range of Now (R55, R56, R58). -/
theorem repetition_final :
    (repetition due period left now).final = true ↔
      (period = 0 ∨ (left ≠ 0 ∧ left ≤ (now - due) / period + 1))
        ∨ ¬ (period = 0 ∨ (left ≠ 0 ∧ left ≤ (now - due) / period + 1))
            ∧ maxNow < due + ((now - due) / period + 1) * period := by
  rw [repetition_eq period left h]
  generalize (if left = 0 then 0 else left - 1 - (now - due) / period) = repeats
  split_ifs with hp hout hbeyond
  · exact iff_of_true rfl (.inl (.inl hp))
  · exact iff_of_true rfl (.inl (.inr hout))
  · exact iff_of_true rfl (.inr ⟨not_or.mpr ⟨hp, hout⟩, hbeyond⟩)
  · exact iff_of_false Bool.false_ne_true fun c =>
      c.elim (not_or.mpr ⟨hp, hout⟩) fun c => hbeyond c.2

end

/-- What becomes of the entry of a slot at its expiry. -/
def State.repetitionOf (i : SlotIx) (e : Entry) : Repetition :=
  repetition (s.schedule.dueAt i) e.period e.repeatsLeft s.timebase.now

/-- The due of an entry that has one. -/
theorem Schedule.dueAt_some {c : Schedule} {i : SlotIx} {e : Entry} {d : Nat}
    (he : c.entryAt i = some e) (hd : e.due = some d) : c.dueAt i = d := by
  rw [Schedule.dueAt, he, Option.bind_some, hd, Option.getD_some]

/-- What becomes of the entry of a slot at its expiry, by its own due. -/
theorem State.repetitionOf_due {i : SlotIx} {e : Entry} {d : Nat}
    (he : s.schedule.entryAt i = some e) (hd : e.due = some d) :
    s.repetitionOf i e = repetition d e.period e.repeatsLeft s.timebase.now := by
  rw [State.repetitionOf, Schedule.dueAt_some he hd]

/-! ### The schedule after an expiry (R51, R55, R59, R61) -/

/-- The head of the due list ends: the list is without it, and it waits for no input (R28, R61). -/
theorem Schedule.free_head {c : Schedule} {i : SlotIx} {rest : List SlotIx} (p : Port)
    (hdue : c.dueList = i :: rest) (hrest : i ∉ rest) (hwaiting : ∀ n, i ∉ c.waiting.get n) :
    c.free i p =
      { c with
        slots := c.slots.set i { tag := (c.slots.get i).tag + 1, entry := none }
        dueList := rest
        usage := c.usage.set p (c.usage.get p - 1)
        sweep := (c.free i p).sweep } := by
  have hlist : (c.free i p).dueList = rest := by
    rw [Schedule.free_dueList, hdue, List.filter_cons_of_neg (by simp), filter_ne_eq_self hrest]
  have hwait : (c.free i p).waiting = c.waiting := Table.ext_get fun n => by
    rw [Schedule.free_waiting, Table.get_map, filter_ne_eq_self (hwaiting n)]
  conv_lhs => rw [show c.free i p =
    { c.free i p with dueList := (c.free i p).dueList, waiting := (c.free i p).waiting } from rfl]
  rw [hlist, hwait]
  rfl

/-- The head of the due list goes on: outside a pass it stands again behind every entry of no greater due
(R30, R55, R59). -/
theorem Schedule.repeatEntry_head {c : Schedule} {i : SlotIx} {rest : List SlotIx} {e : Entry}
    (due left skipped : Nat) (hpass : c.pass = none) (hdue : c.dueList = i :: rest)
    (hrest : i ∉ rest) (he : c.entryAt i = some e) :
    c.repeatEntry i due left skipped =
      { c with
        slots :=
          c.slots.set i
            { tag := (c.slots.get i).tag, entry := some (e.repeated due left skipped) }
        dueList :=
          rest.takeWhile (fun j => decide (c.dueAt j ≤ due))
            ++ i :: rest.dropWhile fun j => decide (c.dueAt j ≤ due)
        sweep := (c.repeatEntry i due left skipped).sweep } := by
  let d : Schedule := (c.leaveDueList i).mapEntry i fun x => x.repeated due left skipped
  have hleft : d.dueList = rest := by
    change c.dueList.filter (· ≠ i) = rest
    rw [hdue, List.filter_cons_of_neg (by simp), filter_ne_eq_self hrest]
  have hentry (j : SlotIx) : d.entryAt j =
      if i = j then some (e.repeated due left skipped) else c.entryAt j := by
    rw [Schedule.mapEntry_entryAt]
    split
    · next hj => rw [← hj]; exact congrArg (Option.map _) he
    · rfl
  have hself : d.dueAt i = due := Schedule.dueAt_some ((hentry i).trans (if_pos rfl)) rfl
  have hother {j : SlotIx} (hj : j ∈ rest) : d.dueAt j = c.dueAt j :=
    Schedule.dueAt_congr ((hentry j).trans (if_neg fun (h : i = j) => hrest (h ▸ hj)))
  have hplaced := d.place_dueList_noPass (fun j => decide (c.dueAt j ≤ due)) hpass fun j hj => by
    rw [hself, hother (hleft ▸ hj)]
  have hslots : d.slots = c.slots.set i
      { tag := (c.slots.get i).tag, entry := some (e.repeated due left skipped) } :=
    (c.leaveDueList i).mapEntry_slots_some _ he
  rw [hleft] at hplaced
  rw [← hplaced, ← hslots]
  rfl

/-- An expiry takes its entry out of the sweep, and begins no pass (R51). -/
theorem State.expireEntry_sweep_pass {i : SlotIx} {e : Entry} (he : s.schedule.entryAt i = some e) :
    (s.expireEntry i e).schedule.sweep = s.schedule.sweep.map (fun m => m.filter (· ≠ i))
      ∧ (s.expireEntry i e).schedule.pass = s.schedule.pass := by
  cases hnext : s.repetitionOf i e with
  | ends skipped range =>
    rw [s.expireEntry_schedule_ends i e he hnext]
    exact ⟨rfl, rfl⟩
  | again due left skipped =>
    rw [s.expireEntry_schedule_again i e hnext]
    exact ⟨rfl, rfl⟩

/-- What is left of a sweep with some members: it stays open while the head is a member and due (R51). -/
def Schedule.sweepLeft (c : Schedule) (now : Nat) (members : List SlotIx) : Option (List SlotIx) :=
  match c.dueList with
  | j :: _ => if j ∈ members ∧ c.dueAt j ≤ now then some members else none
  | [] => none

/-- When a sweep is found done (R51; log 8). -/
theorem State.closeIfDone_sweep {members : List SlotIx} (hpass : s.schedule.pass = none)
    (hsweep : s.schedule.sweep = some members) :
    s.closeIfDone.schedule.sweep = s.schedule.sweepLeft s.timebase.now members := by
  have hhead : s.closeIfDone.schedule.sweep =
      if s.sweepHead.isSome = true then some members else none := by
    cases h : s.sweepHead with
    | none => rw [State.closeIfDone_none s h]; rfl
    | some j => rw [State.closeIfDone_some s j h, hsweep]; rfl
  rw [hhead, State.sweepHead, hpass, hsweep, Schedule.sweepLeft]
  cases s.schedule.dueList with
  | nil => rfl
  | cons j js =>
    dsimp only
    split <;> rfl

/-- An EXPIRY that finds a head takes its expiry, and looks whether the sweep is done (R51, R53; log 8). -/
theorem State.takeExpiry_taken {i : SlotIx} {e : Entry} (hhead : s.sweepHead = some i)
    (he : s.schedule.entryAt i = some e) : s.takeExpiry = (s.expireEntry i e).closeIfDone := by
  unfold State.takeExpiry
  rw [hhead]
  dsimp only
  rw [he]

/-- An EXPIRY that finds no head closes the sweep (R51; log 8). -/
theorem State.takeExpiry_noHead (hhead : s.sweepHead = none) :
    s.takeExpiry = { s with schedule := { s.schedule with sweep := none } } := by
  rw [State.takeExpiry, hhead]
  exact s.closeIfDone_none hhead

/-- What keeps an EXPIRY from finding a head: a pass, no sweep, an empty due list, or a head that is not due
or no member (R51, R70). -/
theorem State.sweepHead_none
    (h : s.schedule.pass ≠ none ∨ s.schedule.sweep = none ∨ s.schedule.dueList = []
      ∨ ∃ j ∈ s.schedule.dueList.head?,
          s.timebase.now < s.schedule.dueAt j ∨ ∀ m ∈ s.schedule.sweep, j ∉ m) :
    s.sweepHead = none := by
  refine Option.eq_none_iff_forall_ne_some.mpr fun i hi => ?_
  obtain ⟨hpass, ⟨m, hm, hmem⟩, hhead, hdue⟩ := (s.sweepHead_some i).mp hi
  rcases h with hp | hs | hl | ⟨j, hj, hnot⟩
  · exact hp hpass
  · exact nomatch hm.symm.trans hs
  · rw [hl] at hhead
    exact nomatch hhead
  · cases Option.some.inj (hhead.symm.trans hj)
    rcases hnot with hlate | hno
    · exact Nat.not_le.mpr hlate hdue
    · exact hno m hm hmem

/-- Outside a full reset an EXPIRY is taken (R51, R188). -/
theorem exec_expiry (hr : s.inFullReset = false) :
    exec .expiry s = .next s.noted.takeExpiry :=
  congrArg Host.Outcome.next (s.event_taken _ hr)

/-- The head of the due list of an open sweep, a member and due, is what an EXPIRY takes (R51, R53). -/
theorem State.takeExpiry_head {i : SlotIx} {rest members : List SlotIx} {e : Entry} {d : Nat}
    (hpass : s.schedule.pass = none) (hdue : s.schedule.dueList = i :: rest)
    (hsweep : s.schedule.sweep = some members) (hmem : i ∈ members)
    (he : s.schedule.entryAt i = some e) (hd : e.due = some d) (hle : d ≤ s.timebase.now) :
    s.takeExpiry = (s.expireEntry i e).closeIfDone := by
  refine s.takeExpiry_taken ((s.sweepHead_some i).mpr ⟨hpass, ⟨members, hsweep, hmem⟩, ?_, ?_⟩) he
  · rw [hdue, List.head?_cons]
  · rwa [Schedule.dueAt_some he hd]

/-- Settles O39: the entry is freed or placed again as `repetition` says, and the sweep is looked at once
more. -/
theorem expiryEndsOrRepeatsTheEntry : Obligations.ExpiryEndsOrRepeatsTheEntry := by
  unfold Obligations.ExpiryEndsOrRepeatsTheEntry
  intro i rest members e d s hr
  refine ⟨fun hnone => ?_, ?_⟩
  · exact (exec_expiry s hr).trans
      (congrArg _ (s.noted.takeExpiry_noHead (s.noted.sweepHead_none hnone)))
  intro hpass hdue hsweep hmem he hd hle hlists _ k next ends upTo
  have hnext := s.noted.repetitionOf_due he hd
  have hrest : i ∉ rest := (List.nodup_cons.mp (hdue ▸ hlists.dueOnce)).1
  have hwaiting (n : InputIx) : i ∉ s.schedule.waiting.get n := by
    obtain ⟨x, hx, hstate⟩ := hlists.scheduled_of_mem (hdue ▸ List.mem_cons_self)
    exact hlists.not_mem_waiting n hx (by simp [hstate])
  obtain ⟨hmembers, hnoPass⟩ := s.noted.expireEntry_sweep_pass he
  rw [State.noted_schedule, hsweep, Option.map_some] at hmembers
  have ht := s.noted.takeExpiry_head hpass hdue hsweep hmem he hd hle
  have hclosed := (s.noted.expireEntry i e).closeIfDone_sweep (hnoPass.trans hpass) hmembers
  have hschedule : s.noted.takeExpiry.schedule =
      { (s.noted.expireEntry i e).schedule with sweep := s.noted.takeExpiry.schedule.sweep } := by
    rw [ht]
    exact congrArg State.schedule (State.closeIfDone_frame _)
  refine ⟨_, exec_expiry s hr, s.noted.takeExpiry_frame, ?_, fun hends => ?_, fun hgoes => ?_⟩
  · rw [← ht, State.expireEntry_timebase] at hclosed
    rw [hclosed, hschedule]
    rfl
  · obtain ⟨skipped, range, hends⟩ := repetition_ends hle hends
    have hfreed : (s.noted.expireEntry i e).schedule = s.schedule.free i e.owner :=
      s.noted.expireEntry_schedule_ends i e he (hnext.trans hends)
    rw [hschedule, hfreed, Schedule.free_head e.owner hdue hrest hwaiting]
  · have hrepeated := s.noted.expireEntry_schedule_again i e
      (hnext.trans (repetition_goesOn hle hgoes))
    rw [State.noted_schedule, Schedule.repeatEntry_head _ _ _ hpass hdue hrest he] at hrepeated
    rw [hschedule, hrepeated]
    rfl

end Sys2Proof.Machine

/-! PROOFS. What an expiry sends to the lines and tells the owner of its entry (R54, R58, R60, R61, R79). -/

namespace Sys2Proof.Machine

variable (s : State)

/-! ### Notices to the owner of an entry (R54, R60, R61) -/

/-- News for the owner of an entry alone; an orphaned entry tells nobody. -/
def ownerNews (e : Entry) (news : List NoticeBody) (q : Port) : List NoticeBody :=
  if q = e.owner ∧ e.orphaned = false then news else []

theorem ownerNews_append (e : Entry) (xs ys : List NoticeBody) (q : Port) :
    ownerNews e xs q ++ ownerNews e ys q = ownerNews e (xs ++ ys) q := by
  unfold ownerNews
  split <;> rfl

theorem ownerNews_nil (e : Entry) (q : Port) : ownerNews e [] q = [] := ite_self []

/-- A post to the owner of an entry that is not orphaned. -/
theorem State.post_owner_told (e : Entry) (b : NoticeBody) (ho : e.orphaned = false) :
    Told s (s.post e.owner b) (ownerNews e [b]) := by
  refine ((Told.none (s := s) rfl).post e.owner b fun _ => rfl).congr fun q _ => ?_
  simp only [ownerNews, ho, and_true, eq_comm (a := q), List.nil_append]

/-- News of a part in which nothing is told of an orphaned entry. -/
theorem Told.orphaned {s t : State} {e : Entry} {news : List NoticeBody} (ho : e.orphaned = true)
    (h : t.notices = s.notices) : Told s t (ownerNews e news) := by
  refine (Told.none h).congr fun q _ => ?_
  rw [ownerNews, if_neg]
  rintro ⟨-, hnot⟩
  exact nomatch ho.symm.trans hnot

/-- Where nothing is told, nothing is told to the owner. -/
theorem Told.owner_none {s t : State} (e : Entry) (h : t.notices = s.notices) :
    Told s t (ownerNews e []) :=
  (Told.none h).congr fun q _ => (ownerNews_nil e q).symm

/-- What the owner was told in two parts is told as a whole, where both parts bear the same Now and epoch. -/
theorem Told.owner_trans {s t u : State} {e : Entry} {xs ys : List NoticeBody}
    (h1 : Told s t (ownerNews e xs)) (h2 : Told t u (ownerNews e ys))
    (htime : u.timebase = t.timebase) (hports : t.ports = s.ports) :
    Told s u (ownerNews e (xs ++ ys)) :=
  (h1.trans h2 (by rw [htime]) (by rw [htime]) (State.attached_congr hports)).congr fun q _ =>
    ownerNews_append e xs ys q

/-! ### The line actions of an expiry (R54, R79) -/

/-- A line action leaves every writer mask (R79). -/
theorem State.lineAction_writerMask (h : Handle) (e : Entry) (a : LineAction) (l : LineIx) :
    ((s.lineAction h e a).lines.get l).writerMask = (s.lines.get l).writerMask := by
  rw [State.lineAction_line]
  split
  · rw [Line.apply_frame]
  · rfl

/-- The notices of the actions that the lines refuse to a port (R79). -/
def deniedNews (lines : Table 16 Line) (h : Handle) (e : Entry) (actions : List LineAction) :
    List NoticeBody :=
  (actions.filter fun a => !hasBit (lines.get a.line).writerMask e.owner).map fun a =>
    .actionDenied h e.label a.line a.kind

theorem deniedNews_cons (lines : Table 16 Line) (h : Handle) (e : Entry) (a : LineAction)
    (actions : List LineAction) :
    deniedNews lines h e (a :: actions) = deniedNews lines h e [a] ++ deniedNews lines h e actions := by
  rw [deniedNews, ← List.singleton_append, List.filter_append, List.map_append]
  rfl

theorem deniedNews_congr {lines lines' : Table 16 Line} (h : Handle) (e : Entry)
    (actions : List LineAction)
    (hmask : ∀ l, (lines'.get l).writerMask = (lines.get l).writerMask) :
    deniedNews lines' h e actions = deniedNews lines h e actions := by
  simp only [deniedNews, hmask]

/-- What one line action tells: ACTION_DENIED where the writer mask does not hold the owner (R79). -/
theorem State.lineAction_told (h : Handle) (e : Entry) (a : LineAction) :
    Told s (s.lineAction h e a) (ownerNews e (deniedNews s.lines h e [a])) := by
  unfold State.lineAction
  cases hmask : hasBit (s.lines.get a.line).writerMask e.owner with
  | true =>
    have hnone : deniedNews s.lines h e [a] = [] := by simp [deniedNews, hmask]
    rw [hnone]
    exact Told.owner_none e rfl
  | false =>
    have hone : deniedNews s.lines h e [a] = [.actionDenied h e.label a.line a.kind] := by
      simp [deniedNews, hmask]
    rw [hone]
    cases ho : e.orphaned with
    | true => exact Told.orphaned ho rfl
    | false => exact s.post_owner_told e _ ho

/-- What the line actions of an expiry tell, in list order (R54, R79). -/
theorem State.lineActions_told (h : Handle) (e : Entry) :
    Told s (s.lineActions h e) (ownerNews e (deniedNews s.lines h e e.actions)) := by
  have hrun (as : List LineAction) (t : State) :
      Told t (as.foldl (fun t a => t.lineAction h e a) t) (ownerNews e (deniedNews t.lines h e as))
        ∧ (as.foldl (fun t a => t.lineAction h e a) t).timebase = t.timebase := by
    induction as generalizing t with
    | nil => exact ⟨Told.owner_none e rfl, rfl⟩
    | cons a as ih =>
      obtain ⟨htold, htime⟩ := ih (t.lineAction h e a)
      rw [deniedNews_congr h e as (t.lineAction_writerMask h e a)] at htold
      refine ⟨?_, htime.trans (t.lineAction_timebase h e a)⟩
      rw [List.foldl_cons, deniedNews_cons]
      exact (t.lineAction_told h e a).owner_trans htold htime (t.lineAction_ports h e a)
  exact (hrun e.actions s).1

/-! ### The notices of an expiry's end (R58, R60, R61) -/

/-- FIRED, to an owner that wants it (R60). -/
def firedNews (now due : Nat) (h : Handle) (e : Entry) (skipped : Nat) (final range : Bool) :
    List NoticeBody :=
  if e.notify then
    [.fired h e.label due now (now - due) (decide (1 < now - due)) (saturate skipped) final range]
  else []

/-- The notices of an expiry's end: FIRED, or ENTRY_CANCELLED for an entry without notify that ends for
TIME_RANGE (R58, R60, R61). -/
def expiryNews (now due : Nat) (h : Handle) (e : Entry) (r : Repetition) : List NoticeBody :=
  firedNews now due h e r.skipped r.final r.timeRange
    ++ if r.timeRange && !e.notify then [.entryCancelled h e.label .timeRange] else []

/-- The notices of an expiry's end, in the words of R58 and R60. -/
theorem expiryNews_eq (now due : Nat) (h : Handle) (e : Entry) {r : Repetition} {skipped : Nat}
    {ends beyond : Prop} [Decidable ends] [Decidable beyond] (hskipped : r.skipped = skipped)
    (hends : r.final = true ↔ ends) (hbeyond : r.timeRange = true ↔ beyond) :
    expiryNews now due h e r =
      if e.notify then
        [.fired h e.label due now (now - due) (decide (1 < now - due)) (min skipped 65535)
          (decide ends) (decide beyond)]
      else if beyond then [.entryCancelled h e.label .timeRange] else [] := by
  have hfinal : r.final = decide ends := Bool.eq_iff_iff.mpr (hends.trans decide_eq_true_iff.symm)
  have hrange : r.timeRange = decide beyond :=
    Bool.eq_iff_iff.mpr (hbeyond.trans decide_eq_true_iff.symm)
  unfold expiryNews firedNews
  rw [hskipped, hfinal, hrange]
  cases e.notify with
  | true => rw [Bool.not_true, Bool.and_false]; rfl
  | false => rw [Bool.not_false, Bool.and_true]; simp

/-- What FIRED tells (R60). -/
theorem State.postFired_told (e : Entry) (h : Handle) (due skipped : Nat) (final range : Bool) :
    Told s (s.postFired e h due skipped final range)
      (ownerNews e (firedNews s.timebase.now due h e skipped final range)) := by
  unfold State.postFired firedNews
  cases hn : e.notify with
  | false => exact Told.owner_none e rfl
  | true =>
    cases ho : e.orphaned with
    | true => exact Told.orphaned ho rfl
    | false => exact s.post_owner_told e _ ho

/-- What ENTRY_CANCELLED tells of an entry that is not cancel_pending (R29). -/
theorem State.postCancelled_told (e : Entry) (h : Handle) (reason : CancelReason)
    (hc : e.cancelPending = false) :
    Told s (s.postCancelled e h reason) (ownerNews e [.entryCancelled h e.label reason]) := by
  unfold State.postCancelled
  rw [hc, Bool.or_false]
  cases ho : e.orphaned with
  | true => exact Told.orphaned ho rfl
  | false => exact s.post_owner_told e _ ho

/-! ### The whole expiry (R53 to R61) -/

/-- The part once the entry of a slot has left the due list and its actions are sent (R53, R54). -/
def State.acted (i : SlotIx) (e : Entry) : State :=
  (s.mapSchedule fun c => c.leaveDueList i).lineActions (s.schedule.handleAt i) e

/-- The expiry of an entry that goes on (R55, R60). -/
theorem State.expireEntry_again {i : SlotIx} {e : Entry} {due left skipped : Nat}
    (h : s.repetitionOf i e = .again due left skipped) :
    s.expireEntry i e =
      ((s.acted i e).mapSchedule fun c =>
          (c.mapEntry i fun x => x.repeated due left skipped).place i).postFired
        e (s.schedule.handleAt i) (s.schedule.dueAt i) skipped false false := by
  rw [State.repetitionOf] at h
  unfold State.expireEntry
  dsimp only
  rw [h]
  rfl

/-- The expiry of an entry that ends (R58, R60, R61). -/
theorem State.expireEntry_ends {i : SlotIx} {e : Entry} {skipped : Nat} {range : Bool}
    (h : s.repetitionOf i e = .ends skipped range) :
    s.expireEntry i e =
      let fired := (s.acted i e).postFired e (s.schedule.handleAt i) (s.schedule.dueAt i) skipped true
        range
      if range && !e.notify then
        (fired.freeEntry i).postCancelled e (s.schedule.handleAt i) .timeRange
      else fired.freeEntry i := by
  rw [State.repetitionOf] at h
  unfold State.expireEntry
  dsimp only
  rw [h]
  rfl

/-- Sending the actions of an entry leaves the references of lines (R79). -/
theorem State.acted_refs (i : SlotIx) (e : Entry) (l : LineIx) :
    ((s.acted i e).lines.get l).refs = (s.lines.get l).refs :=
  congrArg (fun c => c.2.1)
    ((SameEntries.lineActions (s.mapSchedule fun c => c.leaveDueList i) _ e).counts l)

/-- The lines after an expiry: its actions sent, and the references of an entry that ends dropped (R28, R54,
R61). -/
theorem State.expireEntry_lines {i : SlotIx} {e : Entry} (he : s.schedule.entryAt i = some e) :
    (s.expireEntry i e).lines =
      if (s.repetitionOf i e).final = true then dropRefs e.owner e.actions (s.acted i e).lines
      else (s.acted i e).lines := by
  cases hnext : s.repetitionOf i e with
  | again due left skipped =>
    rw [s.expireEntry_again hnext, State.postFired_lines]
    rfl
  | ends skipped range =>
    rw [s.expireEntry_ends hnext]
    dsimp only
    generalize hu : (s.acted i e).postFired e (s.schedule.handleAt i) (s.schedule.dueAt i) skipped true
      range = u
    have hheld : u.schedule.entryAt i = some e := by
      rw [← hu, State.postFired_schedule, State.acted, State.lineActions_schedule]
      exact he
    have hfreed : (u.freeEntry i).lines = dropRefs e.owner e.actions (s.acted i e).lines := by
      rw [State.freeEntry_some u i e hheld, ← hu, State.postFired_lines]
    split
    · rw [State.postCancelled_lines]
      exact hfreed
    · exact hfreed

/-- One line after an expiry: a line of an entry that ends has one reference of the owner fewer (R28, R61). -/
theorem State.expireEntry_line {i : SlotIx} {e : Entry} (he : s.schedule.entryAt i = some e)
    (hn : e.lines.Nodup) (l : LineIx) :
    (s.expireEntry i e).lines.get l =
      if (s.repetitionOf i e).final = true ∧ l ∈ e.lines then
        ((s.acted i e).lines.get l).unreferenced e.owner
      else (s.acted i e).lines.get l := by
  rw [s.expireEntry_lines he]
  by_cases hfinal : (s.repetitionOf i e).final = true
  · rw [if_pos hfinal, dropRefs_get e.owner e.actions _ l hn, Line.dropRef_eq_unreferenced]
    simp only [hfinal, true_and, Entry.lines]
  · rw [if_neg hfinal, if_neg fun c => hfinal c.1]

/-- What the actions of an entry and its FIRED tell, posted in a part whose lists have changed since (R54, R55,
R60). -/
theorem State.acted_postFired_told (i : SlotIx) (e : Entry) {u : State}
    (hn : u.notices = (s.acted i e).notices) (ht : u.timebase = (s.acted i e).timebase)
    (hp : u.ports = (s.acted i e).ports) (h : Handle) (due skipped : Nat) (final range : Bool) :
    Told s (u.postFired e h due skipped final range)
      (ownerNews e (deniedNews s.lines (s.schedule.handleAt i) e e.actions
        ++ firedNews s.timebase.now due h e skipped final range)) := by
  have hacted : Told s (s.acted i e)
      (ownerNews e (deniedNews s.lines (s.schedule.handleAt i) e e.actions)) :=
    (State.lineActions_told _ (s.schedule.handleAt i) e).of_start rfl fun _ => rfl
  have hu := hacted.same hn (by rw [ht]) (by rw [ht])
  have htime : u.timebase = s.timebase := ht.trans (State.lineActions_timebase _ _ e)
  have hfired := u.postFired_told e h due skipped final range
  rw [htime] at hfired
  exact hu.owner_trans hfired (u.postFired_timebase e h due skipped final range)
    (hp.trans (State.lineActions_ports _ _ e))

/-- What an expiry tells: the refused actions, and then its end (R54, R58, R60, R61). -/
theorem State.expireEntry_told (i : SlotIx) (e : Entry) (hc : e.cancelPending = false) :
    Told s (s.expireEntry i e) (ownerNews e
      (deniedNews s.lines (s.schedule.handleAt i) e e.actions
        ++ expiryNews s.timebase.now (s.schedule.dueAt i) (s.schedule.handleAt i) e
            (s.repetitionOf i e))) := by
  cases hnext : s.repetitionOf i e with
  | again due left skipped =>
    rw [s.expireEntry_again hnext, expiryNews, Repetition.timeRange, Bool.false_and,
      if_neg Bool.false_ne_true, List.append_nil]
    exact s.acted_postFired_told i e (u := (s.acted i e).mapSchedule _) rfl rfl rfl _ _ skipped false
      false
  | ends skipped range =>
    rw [s.expireEntry_ends hnext, expiryNews, Repetition.timeRange, ← List.append_assoc]
    dsimp only
    generalize hu : (s.acted i e).postFired e (s.schedule.handleAt i) (s.schedule.dueAt i) skipped true
      range = u
    have hfired := s.acted_postFired_told i e rfl rfl rfl (s.schedule.handleAt i)
      (s.schedule.dueAt i) skipped true range
    rw [hu] at hfired
    have hfreed := hfired.same (u.freeEntry_notices i) (by rw [State.freeEntry_timebase])
      (by rw [State.freeEntry_timebase])
    cases range && !e.notify with
    | false =>
      rw [if_neg Bool.false_ne_true, if_neg Bool.false_ne_true, List.append_nil]
      exact hfreed
    | true =>
      have huports : (u.freeEntry i).ports = s.ports := by
        rw [State.freeEntry_ports, ← hu, State.postFired_ports, State.acted, State.lineActions_ports]
        rfl
      rw [if_pos rfl, if_pos rfl]
      exact hfreed.owner_trans (State.postCancelled_told _ e _ .timeRange hc)
        (State.postCancelled_timebase _ e _ .timeRange) huports

/-! ### The obligation -/

/-- Settles O40: each action meets the writer mask of its line, and what is told is told in this order. -/
theorem expiryActsAndTells : Obligations.ExpiryActsAndTells := by
  unfold Obligations.ExpiryActsAndTells
  intro i rest members e d s hr hpass hdue hsweep hmem he hd hle hn hc h now k spent beyond skipped
    writes
  let u : State := s.noted
  have ht : u.takeExpiry = (u.expireEntry i e).closeIfDone :=
    u.takeExpiry_head hpass hdue hsweep hmem he hd hle
  have hnext : u.repetitionOf i e = repetition d e.period e.repeatsLeft now := u.repetitionOf_due he hd
  have hfinal : (u.repetitionOf i e).final = true ↔ spent ∨ beyond :=
    hnext ▸ repetition_final hle
  have hrange : (u.repetitionOf i e).timeRange = true ↔ beyond :=
    hnext ▸ repetition_timeRange hle
  have hskipped : (u.repetitionOf i e).skipped = skipped := hnext ▸ repetition_skipped hle
  have hline (l : LineIx) : u.takeExpiry.lines.get l =
      if (spent ∨ beyond) ∧ l ∈ e.lines then ((u.acted i e).lines.get l).unreferenced e.owner
      else (u.acted i e).lines.get l := by
    rw [ht, State.closeIfDone_lines, u.expireEntry_line he hn]
    simp only [hfinal]
  have htold := (u.expireEntry_told i e hc).same (u := u.takeExpiry)
    (by rw [ht, State.closeIfDone_notices]) (by rw [ht, State.closeIfDone_timebase])
    (by rw [ht, State.closeIfDone_timebase])
  refine ⟨_, exec_expiry s hr, fun a ha => ?_, fun l => ⟨fun hl => ?_, fun hl => ?_⟩,
    (htold.of_start rfl fun _ => rfl).congr fun q _ => ?_⟩
  · have hacted : (u.acted i e).lines.get a.line =
        if writes a then (s.lines.get a.line).apply now h a else s.lines.get a.line :=
      State.lineActions_line _ h e a ha hn
    intro l
    rw [← hacted, hline]
    split <;> rfl
  · rw [hline, if_neg fun c => hl c.2]
    exact State.lineActions_other _ h e l hl
  · have hrefs := u.acted_refs i e l
    rw [hline]
    by_cases hends : spent ∨ beyond
    · rw [if_pos ⟨hends, hl⟩, if_pos hends, Line.unreferenced, Line.unreferenced, hrefs]
      rfl
    · rw [if_neg fun c => hends c.1, if_neg hends]
      exact hrefs
  · have hend := expiryNews_eq now d h e hskipped hfinal hrange
    have hdueAt : u.schedule.dueAt i = d := Schedule.dueAt_some he hd
    rw [hdueAt]
    exact congrArg (fun news => ownerNews e (deniedNews s.lines h e e.actions ++ news) q) hend

end Sys2Proof.Machine

/-! PROOFS. What forces, pulses and WORKING slots stand on, and that every procedure of the part keeps it. -/

namespace Sys2Proof.Machine

/-! ### Forces and pulses (R81, R82, R85, R95) -/

/-- What a line has beside its base and its policy: force, pulse and retriggers. -/
def Line.drive (l : Line) : Option Force × Option Pulse × Nat := (l.force, l.pulse, l.retriggers)

/-- From `s` to `t` the holder and the force, pulse and retriggers of every line are the same. -/
structure SameDrives (s t : State) : Prop where
  holder : t.holder = s.holder
  drives : ∀ l : LineIx, (t.lines.get l).drive = (s.lines.get l).drive

theorem SameDrives.of_eq {s t : State} (hauthority : t.authority = s.authority)
    (hlines : t.lines = s.lines) : SameDrives s t :=
  ⟨State.holder_congr hauthority, fun l => by rw [hlines]⟩

theorem SameDrives.linesWf {s t : State} (d : SameDrives s t) (h : LinesWf s) : LinesWf t := by
  have hdrive (l : LineIx) : (t.lines.get l).force = (s.lines.get l).force
      ∧ (t.lines.get l).pulse = (s.lines.get l).pulse
      ∧ (t.lines.get l).retriggers = (s.lines.get l).retriggers := by
    simpa only [Line.drive, Prod.mk.injEq] using d.drives l
  refine ⟨fun l f hf => ?_, fun l => ?_, fun l u hu => ?_⟩
  · obtain ⟨hforce, _, _⟩ := hdrive l
    rw [d.holder]
    exact h.forces l f (hforce ▸ hf)
  · obtain ⟨_, _, hcount⟩ := hdrive l
    rw [hcount]
    exact h.retriggers l
  · obtain ⟨_, hpulse, _⟩ := hdrive l
    exact h.pulses l u (hpulse ▸ hu)

/-- Where no line carries a force, the pulses and retriggers alone matter, whoever holds the authority. -/
theorem LinesWf.unforced {s t : State} (h : LinesWf s)
    (hlines : ∀ l, t.lines.get l = { s.lines.get l with force := none }) : LinesWf t := by
  refine ⟨fun l f hf => ?_, fun l => ?_, fun l u hu => ?_⟩
  · rw [hlines] at hf
    cases hf
  · rw [hlines]
    exact h.retriggers l
  · rw [hlines] at hu
    exact h.pulses l u hu

/-- A line whose counts are in range has them in range after an applied action (R81, R82). -/
theorem Line.apply_ranges (now : Nat) (h : Handle) (a : LineAction) (l : Line)
    (hcount : l.retriggers ≤ 65535) (hpulse : ∀ u, l.pulse = some u → u.endTime ≤ maxNow) :
    (l.apply now h a).retriggers ≤ 65535
      ∧ ∀ u, (l.apply now h a).pulse = some u → u.endTime ≤ maxNow := by
  unfold Line.apply
  split
  · unfold Line.startPulse
    dsimp only
    split
    · refine ⟨hcount, fun u hu => ?_⟩
      cases hu
      exact pulseEndAt_le _ _
    · next old hold =>
      refine ⟨saturate_le _, fun u hu => ?_⟩
      have hu' := Option.some.inj hu
      split at hu'
      · rw [← hu']
        exact pulseEndAt_le _ _
      · rw [← hu']
        exact hpulse old hold
  all_goals exact ⟨hcount, hpulse⟩

/-! ### WORKING slots (R168, R173) -/

/-- Every WORKING slot waits for a STOP or for the STEP of the pass in flight, but for the request `w`, where
there is one, which its block has not answered yet. -/
def WorkingBut (w : Option Waiter) (s : State) : Prop :=
  ∀ (p : Port) (h : Held), (s.ports.get p).slot = .working h →
    w = some { port := p, ticket := h.ticket }
    ∨ { port := p, ticket := h.ticket } ∈ s.timebase.stopWaiters
    ∨ s.schedule.pass.map Pass.stepper = some { port := p, ticket := h.ticket }

theorem workingBut_none (s : State) : WorkingBut none s ↔ WorkingWf s := by
  simp only [WorkingBut, WorkingWf, reduceCtorEq, false_or]

/-- From `s` to `t` no slot has become WORKING, and the pending STOPs and the STEP are the same. -/
structure SameWork (s t : State) : Prop where
  slots : ∀ (q : Port) (h : Held), (t.ports.get q).slot = .working h →
    (s.ports.get q).slot = .working h
  stops : t.timebase.stopWaiters = s.timebase.stopWaiters
  stepper : t.schedule.pass.map Pass.stepper = s.schedule.pass.map Pass.stepper

theorem SameWork.of_eq {s t : State} (hports : t.ports = s.ports)
    (hstops : t.timebase.stopWaiters = s.timebase.stopWaiters)
    (hpass : t.schedule.pass = s.schedule.pass) : SameWork s t :=
  ⟨fun q h e => hports ▸ e, hstops, by rw [hpass]⟩

theorem SameWork.workingBut {s t : State} (d : SameWork s t) {w : Option Waiter}
    (h : WorkingBut w s) : WorkingBut w t := fun q x hx => by
  rw [d.stops, d.stepper]
  exact h q x (d.slots q x hx)

/-- A slot that is WORKING after an answer was WORKING before it (R168). -/
theorem PortIf.takeAnswer_isWorking (i : PortIf) (k : BitVec 16) (st : Status) (pl : List Byte)
    (fr : Option EntryName) (h : Held) (e : (i.takeAnswer k st pl fr).slot = .working h) :
    i.slot = .working h ∧ h.ticket ≠ k := by
  unfold PortIf.takeAnswer at e
  split at e
  · next x hx =>
    split at e
    · cases e
    · next hne =>
      obtain rfl : x = h := by
        rw [hx] at e
        exact RequestSlot.working.inj e
      exact ⟨hx, hne⟩
  all_goals
    next hx =>
      rw [hx] at e
      cases e

/-- A slot that is WORKING after several answers is one that none of them has reached (R168). -/
theorem PortIf.stopAnswered_isWorking (i : PortIf) (q : Port) (ws : List Waiter) (st : Status)
    (pl : List Byte) (h : Held) (e : (i.stopAnswered q ws st pl).slot = .working h) :
    i.slot = .working h ∧ { port := q, ticket := h.ticket } ∉ ws := by
  unfold PortIf.stopAnswered at e
  split at e
  · next x hx =>
    split at e
    · cases e
    · next hnot =>
      obtain rfl : x = h := by
        rw [hx] at e
        exact RequestSlot.working.inj e
      exact ⟨hx, hnot⟩
  all_goals
    next hx =>
      rw [hx] at e
      cases e

/-! ### What is kept -/

/-- From `s` to `t` forces stay with the holder, and WORKING slots with what they wait for, whatever request
a block has still to answer. -/
structure Kept (s t : State) : Prop where
  lines : LinesWf s → LinesWf t
  working : ∀ w, WorkingBut w s → WorkingBut w t

/-- From `s` to `t` the block of the request of port `p` that bears a ticket has seen to it: it is answered,
or waits with the STOPs or for the pass. -/
structure Settled (p : Port) (k : BitVec 16) (s t : State) : Prop where
  lines : LinesWf s → LinesWf t
  working : WorkingBut (some { port := p, ticket := k }) s → WorkingWf t

theorem Kept.refl (s : State) : Kept s s := ⟨id, fun _ => id⟩

theorem Kept.trans {s t u : State} (h1 : Kept s t) (h2 : Kept t u) : Kept s u :=
  ⟨h2.lines ∘ h1.lines, fun w => h2.working w ∘ h1.working w⟩

theorem Kept.of_same {s t : State} (hdrives : SameDrives s t) (hwork : SameWork s t) : Kept s t :=
  ⟨hdrives.linesWf, fun _ => hwork.workingBut⟩

theorem Kept.of_eq {s t : State} (hauthority : t.authority = s.authority) (hlines : t.lines = s.lines)
    (hports : t.ports = s.ports) (hstops : t.timebase.stopWaiters = s.timebase.stopWaiters)
    (hpass : t.schedule.pass = s.schedule.pass) : Kept s t :=
  .of_same (.of_eq hauthority hlines) (.of_eq hports hstops hpass)

theorem Kept.foldl {α : Type} {f : State → α → State} (hf : ∀ t a, Kept t (f t a)) (as : List α)
    (s : State) : Kept s (as.foldl f s) := by
  induction as generalizing s with
  | nil => exact .refl s
  | cons a as ih => exact (hf s a).trans (ih _)

theorem Settled.kept {p : Port} {k : BitVec 16} {s t u : State} (h1 : Settled p k s t)
    (h2 : Kept t u) : Settled p k s u :=
  ⟨h2.lines ∘ h1.lines, fun h => (workingBut_none u).mp
    (h2.working none ((workingBut_none t).mpr (h1.working h)))⟩

/-! #### The places of the state -/

theorem Kept.mapPort (s : State) (p : Port) (f : PortIf → PortIf)
    (hf : ∀ i h, (f i).slot = .working h → i.slot = .working h) : Kept s (s.mapPort p f) := by
  refine .of_same (.of_eq rfl rfl) ⟨fun q h hq => ?_, rfl, rfl⟩
  rw [State.mapPort_ports, Table.get_upd] at hq
  split at hq
  · next e => exact e ▸ hf _ h hq
  · exact hq

theorem Kept.mapTime (s : State) (f : Timebase → Timebase)
    (hf : (f s.timebase).stopWaiters = s.timebase.stopWaiters) : Kept s (s.mapTime f) :=
  .of_eq rfl rfl rfl hf rfl

theorem Kept.mapSchedule (s : State) (f : Schedule → Schedule)
    (hf : (f s.schedule).pass = s.schedule.pass) : Kept s (s.mapSchedule f) :=
  .of_eq rfl rfl rfl rfl hf

theorem Kept.mapAuthority (s : State) (f : Authority → Authority)
    (hf : (f s.authority).holder = s.authority.holder) : Kept s (s.mapAuthority f) :=
  .of_same ⟨hf, fun _ => rfl⟩ (.of_eq rfl rfl rfl)

theorem Kept.mapQueue (s : State) (p : Port) (f : NoticeQueue → NoticeQueue) :
    Kept s (s.mapQueue p f) := .of_eq rfl rfl rfl rfl rfl

theorem Kept.mapCapture (s : State) (f : Capture → Capture) : Kept s (s.mapCapture f) :=
  .of_eq rfl rfl rfl rfl rfl

/-- A line may change alone: its force must be the holder's, and its counts in range. -/
theorem LinesWf.mapLine {s : State} (h : LinesWf s) (l : LineIx) (f : Line → Line)
    (hforce : ∀ x, (f (s.lines.get l)).force = some x → s.holder = some x.port)
    (hcount : (f (s.lines.get l)).retriggers ≤ 65535)
    (hpulse : ∀ u, (f (s.lines.get l)).pulse = some u → u.endTime ≤ maxNow) :
    LinesWf (s.mapLine l f) := by
  refine ⟨fun j x hx => ?_, fun j => ?_, fun j u hu => ?_⟩
  · rw [State.mapLine_lines, Table.get_upd] at hx
    split at hx
    · exact hforce x hx
    · exact h.forces j x hx
  · rw [State.mapLine_lines, Table.get_upd]
    split
    · exact hcount
    · exact h.retriggers j
  · rw [State.mapLine_lines, Table.get_upd] at hu
    split at hu
    · exact hpulse u hu
    · exact h.pulses j u hu

/-- A change of one line reaches no slot. -/
theorem Kept.of_mapLine {s : State} {l : LineIx} {f : Line → Line}
    (h : LinesWf s → LinesWf (s.mapLine l f)) : Kept s (s.mapLine l f) :=
  ⟨h, fun _ => (SameWork.of_eq rfl rfl rfl : SameWork s _).workingBut⟩

/-- A change of one line that leaves force, pulse and retriggers. -/
theorem Kept.mapLine (s : State) (l : LineIx) (f : Line → Line)
    (hf : ∀ x, (f x).drive = x.drive) : Kept s (s.mapLine l f) := by
  refine .of_same ⟨rfl, fun j => ?_⟩ (.of_eq rfl rfl rfl)
  rw [State.mapLine_lines, Table.get_upd]
  split
  · next e => rw [hf, e]
  · rfl

/-- Another list of noted status bytes, another queue of commands and another count of free bytes. -/
theorem Kept.noted (s : State) : Kept s s.noted := .of_eq rfl rfl rfl rfl rfl

theorem Kept.frame (s : State) (p : Port) (bytes : List Byte) (f : PortIf → PortIf)
    (hf : ∀ i h, (f i).slot = .working h → i.slot = .working h) : Kept s (s.frame p bytes f) := by
  have hends : Kept s (s.frameEnds p) := .of_eq rfl rfl rfl rfl rfl
  exact hends.trans (.mapPort _ p _ hf)

theorem Kept.frameNotTaken (s : State) (p : Port) (bytes : List Byte) :
    Kept s (s.frameNotTaken p bytes) := .frame s p bytes id fun _ _ => id

/-! #### Answers (R168) -/

theorem Kept.answer (s : State) (p : Port) (k : BitVec 16) (st : Status) (pl : List Byte)
    (fr : Option EntryName) : Kept s (s.answer p k st pl fr) :=
  .mapPort s p _ fun i h e => (i.takeAnswer_isWorking k st pl fr h e).1

/-- An answer sees to the request that bears its ticket. -/
theorem Settled.answer (s : State) (p : Port) (k : BitVec 16) (st : Status) (pl : List Byte)
    (fr : Option EntryName) : Settled p k s (s.answer p k st pl fr) := by
  refine ⟨(Kept.answer s p k st pl fr).lines, fun hs q h hq => ?_⟩
  rw [State.answer_port] at hq
  split at hq
  · next e =>
    obtain ⟨hworking, hticket⟩ := PortIf.takeAnswer_isWorking _ k st pl fr h hq
    refine (hs q h hworking).resolve_left fun c => hticket ?_
    rw [(Waiter.mk.inj (Option.some.inj c)).2]
  · next e =>
    refine (hs q h hq).resolve_left fun c => e ?_
    rw [(Waiter.mk.inj (Option.some.inj c)).1]

theorem Settled.refuse (s : State) (p : Port) (k : BitVec 16) (st : Status) :
    Settled p k s (s.refuse p k st) := .answer s p k st [] none

/-- What a block does before it answers may be anything that is kept. -/
theorem Kept.answered {s t : State} (h : Kept s t) (p : Port) (k : BitVec 16) (st : Status)
    (pl : List Byte) (fr : Option EntryName) : Settled p k s (t.answer p k st pl fr) where
  lines := (Settled.answer t p k st pl fr).lines ∘ h.lines
  working hs := (Settled.answer t p k st pl fr).working (h.working _ hs)

/-- The pending STOPs are answered, and none is pending after that (R5, R7, R9). -/
theorem Kept.answerStops (s : State) (st : Status) : Kept s (s.answerStops st) := by
  refine ⟨(SameDrives.of_eq (s.answerStops_authority st) (s.answerStops_lines st)).linesWf,
    fun w hs q h hq => ?_⟩
  rw [State.answerStops_port] at hq
  obtain ⟨hworking, hnot⟩ := PortIf.stopAnswered_isWorking _ q _ st _ h hq
  rw [State.answerStops_schedule]
  exact (hs q h hworking).imp_right fun c => .inr (c.resolve_left hnot)

/-! #### Notices, the slew and the demand -/

theorem Kept.post (s : State) (p : Port) (b : NoticeBody) : Kept s (s.post p b) := by
  rw [State.post_frame]
  exact .of_eq rfl rfl rfl rfl rfl

theorem Kept.postWhere (s : State) (test : Port → Bool) (b : NoticeBody) :
    Kept s (s.postWhere test b) := by
  rw [State.postWhere_frame]
  exact .of_eq rfl rfl rfl rfl rfl

theorem Kept.postCancelled (s : State) (e : Entry) (h : Handle) (reason : CancelReason) :
    Kept s (s.postCancelled e h reason) := by
  rw [State.postCancelled_frame]
  exact .of_eq rfl rfl rfl rfl rfl

theorem Kept.postFired (s : State) (e : Entry) (h : Handle) (due skipped : Nat)
    (final range : Bool) : Kept s (s.postFired e h due skipped final range) := by
  rw [State.postFired_frame]
  exact .of_eq rfl rfl rfl rfl rfl

theorem Kept.endSlew (s : State) (reason : SlewReason) : Kept s (s.endSlew reason) :=
  .of_eq (s.endSlew_authority reason) (s.endSlew_lines reason) (s.endSlew_ports reason)
    (by rw [State.endSlew_timebase]) (by rw [State.endSlew_schedule])

theorem State.reevaluate_holder (s : State) : s.reevaluate.holder = s.holder := by
  rw [State.holder, State.reevaluate_authority]
  rfl

theorem Kept.withdraw (s : State) (p : Port) : Kept s (s.withdraw p) := by
  refine .of_same ⟨State.reevaluate_holder _, fun l => ?_⟩ ?_
  · rw [State.withdraw_lines]
  · rw [State.withdraw_frame]
    exact .of_eq rfl rfl rfl

/-! #### The holder (R95, R112 to R117) -/

/-- Another holder, with every force cleared (R95). -/
theorem Kept.unforced {s t : State}
    (hlines : ∀ l, t.lines.get l = { s.lines.get l with force := none }) (hwork : SameWork s t) :
    Kept s t := ⟨fun h => h.unforced hlines, fun _ => hwork.workingBut⟩

theorem Kept.fillVacancy (s : State) (former : Port) (reason : AuthReason) :
    Kept s (s.fillVacancy former reason) :=
  .unforced (s.fillVacancy_line former reason) (.of_eq (s.fillVacancy_ports former reason)
    (by rw [State.fillVacancy_timebase]) (by rw [State.fillVacancy_schedule]))

theorem Kept.revoke (s : State) (former : Port) (reason : AuthReason) :
    Kept s (s.revoke former reason) := (Kept.post s former _).trans (.fillVacancy _ former reason)

theorem Kept.detachAuthority (s : State) (p : Port) : Kept s (s.detachAuthority p) := by
  unfold State.detachAuthority
  split
  · exact .fillVacancy s p .detached
  · split
    · exact .withdraw s p
    · exact .refl s

/-- A millisecond that revokes nobody leaves the holder (R112). -/
theorem Kept.millisecond (s : State) : Kept s s.millisecond := by
  refine (Kept.mapTime s (fun t => { t with msDue := false }) rfl).trans ?_
  unfold State.millisecond State.countMillisecond
  split
  · exact .refl _
  · next t ht =>
    have hholder : some t.port = (s.mapTime fun t => { t with msDue := false }).authority.holder := by
      rw [Authority.holder, ht]
      rfl
    split
    · split
      · exact .revoke _ _ _
      · exact .mapAuthority _ _ hholder
    · split
      · exact .revoke _ _ _
      · split
        · exact .revoke _ _ _
        · exact .mapAuthority _ _ hholder

/-! #### The schedule (R28 to R74) -/

theorem Kept.freeEntry (s : State) (i : SlotIx) : Kept s (s.freeEntry i) := by
  unfold State.freeEntry
  split
  · exact .refl s
  · next e _ =>
    refine .of_same ⟨rfl, fun l => ?_⟩ (.of_eq rfl rfl (s.schedule.free_pass i e.owner))
    dsimp only
    rw [dropRefs_frame]
    rfl

theorem Kept.freeAndTell (s : State) (i : SlotIx) (reason : CancelReason) :
    Kept s (s.freeAndTell i reason) := by
  unfold State.freeAndTell
  split
  · exact .refl s
  · exact (Kept.freeEntry s i).trans (.postCancelled _ _ _ reason)

theorem Kept.freeAll (s : State) (is : List SlotIx) : Kept s (s.freeAll is) :=
  .foldl Kept.freeEntry is s

theorem Kept.purge (s : State) (p q : Port) : Kept s (s.purge p q) := by
  refine .foldl (fun t i => ?_) _ s
  split
  · exact .freeEntry t i
  · exact .freeAndTell t i .purged

theorem Kept.orphanOne (s : State) (i : SlotIx) : Kept s (s.orphanOne i) := by
  unfold State.orphanOne
  split
  · exact .refl s
  · split
    · exact .mapSchedule s _ rfl
    · split
      · exact .mapSchedule s _ rfl
      · exact .freeEntry s i

theorem Kept.orphanEntries (s : State) (p : Port) : Kept s (s.orphanEntries p) :=
  .foldl Kept.orphanOne _ s

theorem Kept.createEntry (s : State) (p : Port) (i : SlotIx) (f : AddFields) :
    Kept s (s.createEntry p i f) := by
  refine .of_same ⟨rfl, fun l => ?_⟩ (.of_eq rfl rfl (by rw [State.createEntry_schedule]))
  unfold State.createEntry
  dsimp only
  rw [addRefs_frame]
  rfl

theorem Kept.handOverOne (stamp : Nat) (s : State) (i : SlotIx) : Kept s (s.handOverOne stamp i) := by
  unfold State.handOverOne
  split
  · exact .refl s
  · dsimp only
    split
    · exact .freeAndTell s i .timeRange
    · exact .mapSchedule s _ rfl

theorem Kept.handOver (s : State) (n : InputIx) (stamp : Nat) : Kept s (s.handOver n stamp) :=
  (Kept.mapSchedule s (fun c => { c with waiting := c.waiting.set n [] }) rfl).trans
    (.foldl (Kept.handOverOne stamp) _ _)

theorem Kept.closeIfDone (s : State) : Kept s s.closeIfDone := by
  rw [State.closeIfDone_frame]
  exact .of_eq rfl rfl rfl rfl rfl

theorem Kept.openSweep (s : State) : Kept s s.openSweep := by
  rw [State.openSweep_frame]
  exact .of_eq rfl rfl rfl rfl rfl

theorem Kept.lineAction (h : Handle) (e : Entry) (s : State) (a : LineAction) :
    Kept s (s.lineAction h e a) := by
  unfold State.lineAction
  split
  · refine .of_mapLine fun hs => ?_
    obtain ⟨hcount, hpulse⟩ := (s.lines.get a.line).apply_ranges s.timebase.now h a
      (hs.retriggers _) (hs.pulses _)
    refine hs.mapLine _ _ (fun x hx => hs.forces a.line x ?_) hcount hpulse
    rwa [Line.apply_frame] at hx
  · split
    · exact .refl s
    · exact .post s _ _

theorem Kept.lineActions (s : State) (h : Handle) (e : Entry) : Kept s (s.lineActions h e) :=
  .foldl (Kept.lineAction h e) e.actions s

theorem Kept.expireEntry (s : State) (i : SlotIx) (e : Entry) : Kept s (s.expireEntry i e) := by
  unfold State.expireEntry
  dsimp only
  refine Kept.trans ((Kept.mapSchedule s (fun c => c.leaveDueList i) rfl).trans
    (.lineActions _ (s.schedule.handleAt i) e)) ?_
  split
  · exact (Kept.mapSchedule _ _ rfl).trans (.postFired _ _ _ _ _ _ _)
  · have hended (u : State) (skipped : Nat) (range : Bool) :=
      (Kept.postFired u e (s.schedule.handleAt i) (s.schedule.dueAt i) skipped true range).trans
        (.freeEntry _ i)
    split
    · exact (hended _ _ _).trans (.postCancelled _ _ _ _)
    · exact hended _ _ _

theorem Kept.takeExpiry (s : State) : Kept s s.takeExpiry := by
  unfold State.takeExpiry
  split
  · exact .closeIfDone s
  · split
    · exact .closeIfDone s
    · exact (Kept.expireEntry s _ _).trans (.closeIfDone _)

theorem Kept.tellAdvance (s : State) : Kept s s.tellAdvance := by
  unfold State.tellAdvance
  split
  · next a ha =>
    refine .of_same (.of_eq rfl rfl) ⟨fun _ _ => id, rfl, ?_⟩
    rw [ha]
    rfl
  · exact .openSweep s

/-- The STEP of the pass is answered with its completion (R18, R74). -/
theorem Kept.completePass (s : State) : Kept s s.completePass := by
  cases hpass : s.schedule.pass with
  | none =>
    rw [State.completePass_noPass s hpass]
    exact .refl s
  | some a =>
    refine ⟨fun h => ?_, fun w hs q h hq => ?_⟩
    · have hfreed : LinesWf (s.passFreed a) :=
        ((Kept.answer s _ _ _ _ _).trans (.freeAll _ _)).lines h
      refine (SameDrives.of_eq ?_ (s.completePass_lines hpass)).linesWf hfreed
      rw [State.completePass_authority, State.passFreed, State.freeAll_authority]
      rfl
    · rw [State.completePass_ports s hpass, State.passAnswered_port] at hq
      obtain ⟨hworking, hnot⟩ := PortIf.stopAnswered_isWorking _ q _ _ _ h hq
      have hstep : s.schedule.pass.map Pass.stepper ≠ some { port := q, ticket := h.ticket } := by
        rw [hpass]
        exact fun c => hnot (List.mem_singleton.mpr (Option.some.inj c).symm)
      rw [State.completePass_timebase]
      exact (hs q h hworking).imp_right fun c => .inl (c.resolve_right hstep)

/-! #### The capture unit (R129 to R134) -/

theorem Kept.storeCapture (s : State) (r : CaptureRecord) : Kept s (s.storeCapture r) := by
  rw [State.storeCapture_frame]
  exact .of_eq rfl rfl rfl rfl rfl

theorem Kept.postTriggered (r : CaptureRecord) (c : Schedule) (s : State) (i : SlotIx) :
    Kept s (State.postTriggered r c s i) := by
  rw [State.postTriggered_frame]
  exact .of_eq rfl rfl rfl rfl rfl

theorem Kept.takeEdge (s : State) (n : InputIx) (d : Edge) : Kept s (s.takeEdge n d) := by
  unfold State.takeEdge
  split
  · exact .refl s
  · split
    · exact (((Kept.mapCapture s _).trans (.handOver _ _ _)).trans
        (.foldl (Kept.postTriggered _ _) _ _)).trans (.storeCapture _ _)
    · exact .mapCapture s _

/-! #### The timebase (R1, R3 to R18) -/

theorem Kept.settleState (s : State) : Kept s s.settleState := by
  have hstopped : Kept s ((s.mapTime fun t => { t with state := .stopped }).answerStops .ok) :=
    (Kept.mapTime s _ rfl).trans (.answerStops _ .ok)
  unfold State.settleState
  split
  · exact (hstopped.trans (.endSlew _ .timeEnd)).trans (.postWhere _ _ _)
  · split
    · exact hstopped.trans (.postWhere _ _ _)
    · exact .refl s

theorem Kept.endSlewIfDone (s : State) : Kept s s.endSlewIfDone := by
  unfold State.endSlewIfDone
  split
  · split
    · exact .endSlew s .done
    · exact .refl s
  · exact .refl s

theorem Kept.advance (s : State) : Kept s s.advance := by
  have hadvanced : Kept s s.advancedState :=
    ((Kept.mapTime s _ rfl).trans (.endSlewIfDone _)).trans (.settleState _)
  rw [State.advance_eq]
  split
  · exact hadvanced.trans (.tellAdvance _)
  · exact hadvanced

/-- A pass that ages is the pass of the same STEP (R69). -/
theorem Kept.countMicrosecond (s : State) : Kept s s.countMicrosecond := by
  refine .of_same (.of_eq rfl rfl) ⟨fun _ _ => id, rfl, ?_⟩
  change (s.schedule.pass.map _).map _ = _
  rw [Option.map_map]
  rfl

theorem Kept.microsecond (s : State) : Kept s s.microsecond := by
  have hready (t : State) (hover : ¬ Overdue t) : Kept t t.microsecond := by
    rw [State.microsecond_notOverdue t hover]
    split
    · exact .countMicrosecond t
    · exact (Kept.countMicrosecond t).trans (.advance _)
  by_cases hover : Overdue s
  · rw [State.microsecond_overdue s hover]
    exact ((Kept.completePass s).trans (.noted _)).trans
      (hready _ s.not_overdue_completePass_noted)
  · exact hready s hover

/-! #### Sessions and resets (R175, R182, R188) -/

theorem Kept.openSession (s : State) (p : Port) : Kept s (s.openSession p) := by
  have hopened : Kept s
      (s.mapPort p fun i => { i with session := .attached, causeReported := true }) :=
    .mapPort s p _ fun _ _ => id
  exact (hopened.trans (.mapQueue _ p _)).trans (.mapSchedule _ _ rfl)

theorem Kept.detach (s : State) (p : Port) : Kept s (s.detach p) := by
  have hclosed : Kept s (s.mapPort p fun i => { i with session := .detached }) :=
    .mapPort s p _ fun _ _ => id
  unfold State.detach
  refine Kept.trans (Kept.trans ?_ (.detachAuthority _ p)) (.orphanEntries _ p)
  exact (hclosed.trans (.mapQueue _ p NoticeQueue.detach)).trans (.mapCapture _ _)

theorem Kept.resetPort (s : State) (p : Port) : Kept s (s.resetPort p) := by
  unfold State.resetPort
  split
  · exact .mapPort s p _ fun _ _ => id
  · refine Kept.trans ?_ (.mapPort _ p PortIf.clear fun i h c => nomatch c)
    split
    · exact (Kept.noted s).trans (.detach _ p)
    · exact .noted s

theorem Kept.beginReset (s : State) (cause : ResetCause) : Kept s (s.beginReset cause) := by
  have hline (l : LineIx) : (s.beginReset cause).lines.get l = .reset := Table.get_fill _ l
  refine ⟨fun _ => ⟨fun l f hf => ?_, fun l => ?_, fun l u hu => ?_⟩, fun _ _ q h hq => ?_⟩
  · rw [hline] at hf
    cases hf
  · rw [hline]
    exact Nat.zero_le _
  · rw [hline] at hu
    cases hu
  · have hport : (s.beginReset cause).ports.get q = .reset (s.ports.get q).inReset :=
      Table.get_map _ _ q
    rw [hport] at hq
    cases hq

theorem Kept.endReset (s : State) (rank1 rank0 : Bool) (levels : InputSet) :
    Kept s (s.endReset rank1 rank0 levels) := by
  unfold State.endReset
  split
  · exact .of_same ⟨rfl, fun _ => rfl⟩ (.of_eq rfl rfl rfl)
  · exact .refl s

end Sys2Proof.Machine

/-! PROOFS. Every request is answered by its block or waits as a STOP or a STEP; every step keeps forces with the holder and WORKING slots with what they wait for (R95, R173). -/

namespace Sys2Proof.Machine

/-! ### The requests that are not answered at once (R5, R6, R18) -/

/-- A START in STOPPING answers the pending STOPs first (R5). -/
theorem Settled.startTaken (s : State) (p : Port) (k : BitVec 16) :
    Settled p k s (State.startTaken p k s) := by
  unfold State.startTaken
  split
  · split
    · exact .refuse s p k _
    · exact ((Kept.mapTime s (fun t => { t with state := .running }) rfl).answered p k _ _ _).kept
        (.postWhere _ _ _)
  · exact .answer s p k _ _ _
  · exact ((Kept.mapTime s _ rfl).trans (.answerStops _ _)).answered p k _ _ _

/-- A STOP that is not answered at once waits with the STOPs (R6). -/
theorem Settled.stopTaken (s : State) (p : Port) (k : BitVec 16) :
    Settled p k s (State.stopTaken p k s) := by
  have hwaits : Settled p k s (s.mapTime fun t =>
      { t with
        state := .stopping
        stopWaiters := t.stopWaiters ++ [{ port := p, ticket := k }] }) := by
    refine ⟨fun h => ⟨h.forces, h.retriggers, h.pulses⟩, fun hs q h hq => ?_⟩
    rcases hs q h hq with hnew | hstop | hstep
    · exact .inl (List.mem_append_right _ (List.mem_singleton.mpr (Option.some.inj hnew).symm))
    · exact .inl (List.mem_append_left _ hstop)
    · exact .inr hstep
  unfold State.stopTaken
  split
  · exact .answer s p k _ _ _
  · exact hwaits
  · exact hwaits

/-- A step moves the pulses within the range of Now (R85), and its STEP waits for the pass (R18). -/
theorem Settled.takeStep (s : State) (p : Port) (k : BitVec 16) (now : Nat)
    (hpass : s.schedule.pass = none) :
    Settled p k s (s.takeStep { port := p, ticket := k } now) := by
  refine ⟨fun h => ⟨fun l f hf => ?_, fun l => ?_, fun l u hu => ?_⟩, fun hs q h hq => ?_⟩
  · rw [State.takeStep_line] at hf
    rw [State.holder_congr (s.takeStep_authority _ now)]
    exact h.forces l f hf
  · rw [State.takeStep_line]
    exact h.retriggers l
  · rw [State.takeStep_line] at hu
    obtain ⟨old, _, hmoved⟩ := Option.map_eq_some_iff.mp hu
    rw [← hmoved]
    exact shiftClamped_le _ _ _
  · rw [State.takeStep_ports] at hq
    rw [State.takeStep_timebase, State.takeStep_schedule, State.scheduleStep_eq]
    rcases hs q h hq with hnew | hstop | hstep
    · exact .inr hnew
    · exact .inl hstop
    · rw [hpass] at hstep
      cases hstep

theorem Settled.stepTaken (s : State) (p : Port) (pl : List Byte) (k : BitVec 16) :
    Settled p k s (State.stepTaken p pl k s) := by
  unfold State.stepTaken
  split
  · exact .refuse s p k _
  · split
    · exact .refuse s p k _
    · next hpass =>
      split
      · exact .refuse s p k _
      · exact .takeStep s p k _ (Option.not_isSome_iff_eq_none.mp hpass)

/-! ### Forces and the holder (R94, R106 to R111) -/

/-- The holder alone sets a force (R94, R104). -/
theorem Settled.forceTaken (s : State) (p : Port) (pl : List Byte) (k : BitVec 16)
    (hholder : s.holder = some p) : Settled p k s (State.forceTaken p pl k s) := by
  unfold State.forceTaken
  split
  · exact .refuse s p k _
  · next line value _ =>
    refine Kept.answered (.of_mapLine fun h => ?_) p k _ _ _
    refine h.mapLine line _ (fun x hx => ?_) (h.retriggers line) (h.pulses line)
    obtain ⟨level, _, hforce⟩ := Option.map_eq_some_iff.mp hx
    rw [hholder, ← hforce]

/-- A CLAIM in VACANT clears every force; behind a holder it leaves the holder (R107, R108). -/
theorem Settled.claimTaken (s : State) (p : Port) (pl : List Byte) (k : BitVec 16) :
    Settled p k s (State.claimTaken p pl k s) := by
  unfold State.claimTaken
  split
  · exact .refuse s p k _
  · split
    · split
      · exact .refuse s p k _
      · refine Kept.answered (Kept.trans ?_ (.postWhere _ _ _)) p k _ _ _
        exact .unforced (State.clearForces_line _) (.of_eq rfl rfl rfl)
    · split
      · exact .refuse s p k _
      · split
        · exact .refuse s p k _
        · refine Kept.answered ?_ p k _ _ _
          split
          · exact (Kept.mapAuthority s _ rfl).trans (.post _ _ _)
          · exact (Kept.mapAuthority s _ rfl).trans (.post _ _ _)

theorem Settled.releaseTaken (s : State) (p : Port) (k : BitVec 16) :
    Settled p k s (State.releaseTaken p k s) := by
  unfold State.releaseTaken
  split
  · exact (Kept.fillVacancy s p _).answered p k _ _ _
  · split
    · exact (Kept.withdraw s p).answered p k _ _ _
    · exact .refuse s p k _

/-- A RENEW sets the lease of the port that holds the authority (R111). -/
theorem Settled.renewTaken (s : State) (p : Port) (pl : List Byte) (k : BitVec 16) :
    Settled p k s (State.renewTaken p pl k s) := by
  unfold State.renewTaken
  split
  · exact .refuse s p k _
  · split
    · exact .refuse s p k _
    · next hholder =>
      split
      · exact .refuse s p k _
      · refine Kept.answered (.mapAuthority s _ ?_) p k _ _ _
        exact (not_not.mp hholder).symm

/-! ### Every request -/

/-- Every request is seen to by the block of its kind. -/
theorem Kind.taken_settled (k : Kind) (p : Port) (pl : List Byte) (ticket : BitVec 16) (s : State)
    (hholder : k ∈ privilegedKinds → s.holder = some p) :
    Settled p ticket s (k.taken p pl ticket s) := by
  have hrefuse := Settled.refuse s p ticket
  have hanswer := Settled.answer s p ticket
  cases k with
  | attach =>
    change Settled p ticket s (State.attachTaken p ticket s)
    unfold State.attachTaken
    split
    · exact hrefuse _
    · exact (Kept.openSession s p).answered p ticket _ _ _
  | detach =>
    refine Kept.answered ((Kept.detach s p).trans ?_) p ticket _ _ _
    exact .mapPort _ p _ fun _ _ => id
  | setAttention =>
    change Settled p ticket s (State.attentionTaken p pl ticket s)
    unfold State.attentionTaken
    split
    · exact hrefuse _
    · exact (Kept.mapQueue s p _).answered p ticket _ _ _
  | queryTime => exact hanswer _ _ _
  | start => exact .startTaken s p ticket
  | stop => exact .stopTaken s p ticket
  | step => exact .stepTaken s p pl ticket
  | slew =>
    change Settled p ticket s (State.slewTaken p pl ticket s)
    unfold State.slewTaken
    split
    · exact hrefuse _
    · refine Kept.answered ?_ p ticket _ _ _
      split
      · exact .endSlew s _
      · exact (Kept.endSlew s _).trans (.mapTime _ _ rfl)
  | entryAdd =>
    change Settled p ticket s (State.addTaken p pl ticket s)
    unfold State.addTaken
    split
    · exact hrefuse _
    · split
      · exact hrefuse _
      · split
        · exact hrefuse _
        · exact hrefuse _
        · exact (Kept.createEntry s p _ _).answered p ticket _ _ _
  | entryCancel =>
    exact s.ownEntry_induction (Settled p ticket s) p pl ticket _ hrefuse fun i _ _ _ _ =>
      (Kept.freeEntry s i).answered p ticket _ _ _
  | entryHold =>
    refine s.ownEntry_induction (Settled p ticket s) p pl ticket _ hrefuse fun i _ _ _ _ => ?_
    split
    · exact (Kept.mapSchedule s _ rfl).answered p ticket _ _ _
    · exact hrefuse _
    · exact hrefuse _
  | entryResume =>
    refine s.ownEntry_induction (Settled p ticket s) p pl ticket _ hrefuse fun i _ _ _ _ => ?_
    split
    · exact (Kept.mapSchedule s _ rfl).answered p ticket _ _ _
    · exact hrefuse _
    · exact hrefuse _
  | entryQuery =>
    refine s.handleCheck_induction (Settled p ticket s) p pl ticket _ hrefuse fun i _ _ => ?_
    split
    · exact hanswer _ _ _
    · exact hrefuse _
  | nextQuery =>
    change Settled p ticket s (State.nextQueryTaken p ticket s)
    unfold State.nextQueryTaken
    split
    · exact hrefuse _
    · exact hanswer _ _ _
  | entryList =>
    change Settled p ticket s (State.entryListTaken p pl ticket s)
    unfold State.entryListTaken
    split
    · exact hrefuse _
    · split
      · exact hrefuse _
      · exact hanswer _ _ _
  | setQuota =>
    change Settled p ticket s (State.quotaTaken p pl ticket s)
    unfold State.quotaTaken
    split
    · exact hrefuse _
    · split
      · exact hrefuse _
      · exact (Kept.mapSchedule s _ rfl).answered p ticket _ _ _
  | purgePort =>
    change Settled p ticket s (State.purgeTaken p pl ticket s)
    unfold State.purgeTaken
    split
    · exact hrefuse _
    · split
      · exact hrefuse _
      · exact (Kept.purge s p _).answered p ticket _ _ _
  | lineQuery =>
    change Settled p ticket s (State.lineQueryTaken p pl ticket s)
    unfold State.lineQueryTaken
    split
    · exact hrefuse _
    · exact hanswer _ _ _
  | setLinePolicy =>
    change Settled p ticket s (State.policyTaken p pl ticket s)
    unfold State.policyTaken
    split
    · exact hrefuse _
    · dsimp only
      split
      · exact hrefuse _
      · exact (Kept.mapLine s _ (Line.setPolicy _) fun _ => rfl).answered p ticket _ _ _
  | forceLine => exact .forceTaken s p pl ticket (hholder (by decide))
  | claim => exact .claimTaken s p pl ticket
  | release => exact .releaseTaken s p ticket
  | renew => exact .renewTaken s p pl ticket
  | queryAuthority => exact hanswer _ _ _
  | setGrace =>
    change Settled p ticket s (State.graceTaken p pl ticket s)
    unfold State.graceTaken
    dsimp only
    split
    · exact hrefuse _
    · exact (Kept.mapAuthority s _ rfl).answered p ticket _ _ _
  | setCapture =>
    change Settled p ticket s (State.setCaptureTaken p pl ticket s)
    unfold State.setCaptureTaken
    split
    · exact hrefuse _
    · exact (Kept.mapCapture s _).answered p ticket _ _ _
  | subscribe =>
    change Settled p ticket s (State.subscribeTaken p pl ticket s)
    unfold State.subscribeTaken
    split
    · exact hrefuse _
    · exact (Kept.mapCapture s _).answered p ticket _ _ _
  | readCaptures =>
    change Settled p ticket s (State.readTaken p pl ticket s)
    unfold State.readTaken
    split
    · exact hrefuse _
    · exact (Kept.mapCapture s _).answered p ticket _ _ _
  | fetchNotices =>
    change Settled p ticket s (State.fetchTaken p pl ticket s)
    unfold State.fetchTaken
    split
    · exact hrefuse _
    · exact hanswer _ _ _
  | ackNotices =>
    change Settled p ticket s (State.ackTaken p pl ticket s)
    unfold State.ackTaken
    dsimp only
    split
    · exact (Kept.mapQueue s p _).answered p ticket _ _ _
    · exact hrefuse _

/-! ### Every command -/

/-- What a step keeps: forces with the holder (R95), WORKING slots with their STOP or STEP (R173). -/
structure Steady (s t : State) : Prop where
  lines : LinesWf s → LinesWf t
  working : WorkingWf s → WorkingWf t

theorem Kept.steady {s t : State} (h : Kept s t) : Steady s t :=
  ⟨h.lines, fun hs => (workingBut_none t).mp (h.working none ((workingBut_none s).mpr hs))⟩

/-- A request that takes the slot is the one that its block has not answered yet (R167). -/
theorem Settled.steady {s t : State} {p : Port} {lags : List Nat} {tag kind : Byte} {pl : List Byte}
    (h : Settled p (s.ports.get p).nextTicket (s.takeRequest p lags tag kind pl) t) :
    Steady s t := by
  refine ⟨fun hs => h.lines ⟨hs.forces, hs.retriggers, hs.pulses⟩, fun hs => h.working ?_⟩
  intro q x hx
  rw [State.takeRequest_asked, Table.get_set] at hx
  split at hx
  · next e =>
    obtain rfl := RequestSlot.working.inj hx
    exact .inl (by rw [e])
  · exact .inr (hs q x hx)

/-- A REQUEST frame that takes the slot is seen to by its handler; any other leaves the slot (R164, R167). -/
theorem Steady.receive (s : State) (p : Port) (lags : List Nat) (tag kind : Byte) (pl : List Byte)
    (handle : BitVec 16 → State → State)
    (hhandle : ∀ k t, Settled p k t (handle k t)) :
    Steady s (s.receive p lags tag kind pl handle) := by
  have hfault (f : FrameFault) (n : Nat) : Kept s (s.requestFault p lags f n) :=
    .frame s p _ _ fun _ _ => id
  unfold State.receive
  split
  · exact (Kept.frameNotTaken s p _).steady
  · split
    · exact (hfault _ _).steady
    · split
      · exact (hfault _ _).steady
      all_goals exact (hhandle _ _).steady

theorem Steady.request (s : State) (k : Kind) (a : Arrival) (tag : Byte) (pl : List Byte) :
    Steady s (s.request k a.port a.lags tag pl (k.block a.port pl)) := by
  refine .receive s a.port a.lags tag k.code pl _ fun ticket t => ?_
  unfold State.portChecks
  split
  · exact .refuse t _ _ _
  · split
    · exact .refuse t _ _ _
    · unfold Kind.block
      split
      · unfold State.privileged
        split
        · next hholder => exact k.taken_settled a.port pl ticket t fun _ => hholder
        · exact .refuse t _ _ _
      · next hfree => exact k.taken_settled a.port pl ticket t fun c => absurd c hfree

theorem Kept.event {f : State → State} (hf : ∀ t, Kept t (f t)) (s : State) : Kept s (s.event f) := by
  unfold State.event
  split
  · exact .refl s
  · exact (Kept.noted s).trans (hf _)

theorem Kept.pollNotTaken (s : State) (p : Port) (lags : List Nat) (n : Nat) :
    Kept s (s.pollNotTaken p lags n) := by
  have hframe : Kept s (s.frameNotTaken p (s.statusBytes p lags 1 ++ s.freeBytes n)) :=
    .frameNotTaken s p _
  exact hframe.trans (.of_eq rfl rfl rfl rfl rfl)

theorem Kept.pollTaken (s : State) (p : Port) (lags : List Nat) (n : Nat) :
    Kept s (s.pollTaken p lags n) := by
  unfold State.pollTaken
  split
  · exact .frame s p _ _ fun _ _ c => nomatch c
  all_goals exact .frame s p _ _ fun _ _ => id

theorem Kept.repeatTaken (s : State) (p : Port) (lags : List Nat) (n : Nat) :
    Kept s (s.repeatTaken p lags n) := by
  unfold State.repeatTaken
  split
  · exact .frame s p _ _ fun _ _ c => nomatch c
  · exact .frame s p _ _ fun _ _ => id
  · split
    all_goals exact .frame s p _ _ fun _ _ => id

/-- An event that is taken only where its condition holds (log 14, log 15). -/
theorem Kept.ite {s t : State} (b : Prop) [Decidable b] (h : Kept s t) :
    Kept s (if b then t else s) := by
  split
  · exact h
  · exact .refl s

/-- The end of a pulse (R83). -/
theorem Kept.endPulse (s : State) (l : LineIx) :
    Kept s (s.mapLine l fun x => { x with pulse := none }) :=
  .of_mapLine fun h =>
    h.mapLine l _ (h.forces l) (h.retriggers l) fun _ c => nomatch c

theorem exec_steady {s t : State} (c : Instr) (e : exec c s = .next t) : Steady s t := by
  cases c with
  | attach a tag pl => cases e; exact .request s .attach a tag pl
  | detach a tag pl => cases e; exact .request s .detach a tag pl
  | setAttention a tag pl => cases e; exact .request s .setAttention a tag pl
  | queryTime a tag pl => cases e; exact .request s .queryTime a tag pl
  | start a tag pl => cases e; exact .request s .start a tag pl
  | stop a tag pl => cases e; exact .request s .stop a tag pl
  | step a tag pl => cases e; exact .request s .step a tag pl
  | slew a tag pl => cases e; exact .request s .slew a tag pl
  | entryAdd a tag pl => cases e; exact .request s .entryAdd a tag pl
  | entryCancel a tag pl => cases e; exact .request s .entryCancel a tag pl
  | entryHold a tag pl => cases e; exact .request s .entryHold a tag pl
  | entryResume a tag pl => cases e; exact .request s .entryResume a tag pl
  | entryQuery a tag pl => cases e; exact .request s .entryQuery a tag pl
  | nextQuery a tag pl => cases e; exact .request s .nextQuery a tag pl
  | entryList a tag pl => cases e; exact .request s .entryList a tag pl
  | setQuota a tag pl => cases e; exact .request s .setQuota a tag pl
  | purgePort a tag pl => cases e; exact .request s .purgePort a tag pl
  | lineQuery a tag pl => cases e; exact .request s .lineQuery a tag pl
  | setLinePolicy a tag pl => cases e; exact .request s .setLinePolicy a tag pl
  | forceLine a tag pl => cases e; exact .request s .forceLine a tag pl
  | claim a tag pl => cases e; exact .request s .claim a tag pl
  | release a tag pl => cases e; exact .request s .release a tag pl
  | renew a tag pl => cases e; exact .request s .renew a tag pl
  | queryAuthority a tag pl => cases e; exact .request s .queryAuthority a tag pl
  | setGrace a tag pl => cases e; exact .request s .setGrace a tag pl
  | setCapture a tag pl => cases e; exact .request s .setCapture a tag pl
  | subscribe a tag pl => cases e; exact .request s .subscribe a tag pl
  | readCaptures a tag pl => cases e; exact .request s .readCaptures a tag pl
  | fetchNotices a tag pl => cases e; exact .request s .fetchNotices a tag pl
  | ackNotices a tag pl => cases e; exact .request s .ackNotices a tag pl
  | badKind a tag kind pl =>
    change execBadKind a tag kind pl s = .next t at e
    unfold execBadKind at e
    split at e
    · cases e
    · cases e
      exact .receive s a.port a.lags tag kind pl _ fun k u => .refuse u a.port k _
  | poll a clocked =>
    cases e
    split
    · exact (Kept.pollNotTaken s _ _ _).steady
    · exact (Kept.pollTaken s _ _ _).steady
  | repeatFrame a clocked =>
    cases e
    split
    · exact (Kept.pollNotTaken s _ _ _).steady
    · exact (Kept.repeatTaken s _ _ _).steady
  | faultyFrame a bytes =>
    change execFaultyFrame a bytes s = .next t at e
    unfold execFaultyFrame at e
    split at e
    · cases e
      exact (Kept.refl s).steady
    · cases e
    · cases e
      split
      · exact (Kept.frameNotTaken s _ _).steady
      · refine Kept.steady ?_
        exact .frame s _ _ _ fun _ _ => id
  | portReset p => cases e; exact (Kept.resetPort s p).steady
  | portResetRelease p =>
    cases e
    have hends : Kept s (s.frameEnds p) := .of_eq rfl rfl rfl rfl rfl
    refine (hends.trans ?_).steady
    exact .mapPort _ p _ fun _ _ => id
  | fullReset cause => cases e; exact (Kept.beginReset s cause).steady
  | fullResetEnd rank1 rank0 levels => cases e; exact (Kept.endReset s rank1 rank0 levels).steady
  | referenceMicrosecond => cases e; exact (Kept.event Kept.microsecond s).steady
  | referenceMillisecond => cases e; exact (Kept.event Kept.millisecond s).steady
  | slewDone => cases e; exact (Kept.event (fun u => .ite _ (.microsecond u)) s).steady
  | leaseExpiry => cases e; exact (Kept.event (fun u => .ite _ (.millisecond u)) s).steady
  | graceExpiry => cases e; exact (Kept.event (fun u => .ite _ (.millisecond u)) s).steady
  | captureEdge n edge => cases e; exact (Kept.event (fun u => .takeEdge u n edge) s).steady
  | expiry => cases e; exact (Kept.event Kept.takeExpiry s).steady
  | pulseEnd l => cases e; exact (Kept.event (fun u => .ite _ (.endPulse u l)) s).steady
  | passComplete => cases e; exact (Kept.event Kept.completePass s).steady

/-- Settles O58: every command keeps forces with the holder and WORKING slots with their STOP or STEP, and so
do the events that the part takes on an empty queue. -/
theorem stepsKeepForcesAndWorkingSlots : Obligations.StepsKeepForcesAndWorkingSlots := by
  unfold Obligations.StepsKeepForcesAndWorkingSlots
  intro s t e
  have hsteady : Steady s t := by
    unfold step at e
    split at e
    · next c rest _ =>
      obtain ⟨hlines, hworking⟩ := exec_steady c e
      exact ⟨fun h => hlines ⟨h.forces, h.retriggers, h.pulses⟩, fun h => hworking h⟩
    · split at e
      · exact exec_steady _ e
      · cases e
        unfold State.refclkPeriod
        split
        · exact (Kept.refl s).steady
        · exact (Kept.mapTime s _ rfl).steady
  exact ⟨hsteady.lines, hsteady.working⟩

end Sys2Proof.Machine

/-! PROOFS. RELEASE and the revocation of a holder: the vacancy and its heir, the demand, and what is told (R109 to R117). -/

namespace Sys2Proof.Machine

/-! ### The demand, looked at anew (R117) -/

/-- The first urgent waiter that outranks the holder (R117). -/
def Authority.rival (a : Authority) : Option WaiterRec := a.holder.bind a.challenger

/-- The authority unit once the demand has been looked at anew: it goes to the rival of the holder, and runs
on where that is the port it was (R117). -/
def Authority.redemanded (a : Authority) : Authority :=
  { a with
    demand := a.rival.bind fun w =>
      if a.demand.map Demand.port = some w.port then a.demand
      else some { port := w.port, graceRemaining := a.graceSetting } }

/-- YIELD_DEMANDED to the holder for a new demand (R117). -/
def redemandNews (a : Authority) (q : Port) : List NoticeBody :=
  match a.rival with
  | some w =>
    if a.holder = some q ∧ a.demand.map Demand.port ≠ some w.port then
      [.yieldDemanded w.port a.graceSetting]
    else []
  | none => []

theorem Authority.rival_vacant {a : Authority} (h : a.tenure = none) : a.rival = none := by
  rw [Authority.rival, Authority.holder, h]
  rfl

theorem Authority.rival_held {a : Authority} {x : Tenure} (h : a.tenure = some x) :
    a.rival = a.challenger x.port := by
  rw [Authority.rival, Authority.holder, h]
  rfl

/-- Re-evaluating the demand looks at it anew (R117). -/
theorem State.reevaluate_redemanded (s : State) : s.reevaluate.authority = s.authority.redemanded := by
  unfold State.reevaluate Authority.redemanded Authority.rival
  change (match s.authority.holder with | none => _ | some h => _ : State).authority = _
  cases s.authority.holder with
  | none => rfl
  | some h =>
    dsimp only [Option.bind_some]
    cases s.authority.challenger h with
    | none => rfl
    | some w =>
      dsimp only [Option.bind_some]
      split
      · rfl
      · exact State.post_authority _ _ _

/-- Re-evaluating the demand tells the holder of a new one (R117). -/
theorem State.reevaluate_told (s : State) : Told s s.reevaluate (redemandNews s.authority) := by
  have hquiet {u : State} (hn : u.notices = s.notices)
      (hnews : ∀ q, redemandNews s.authority q = []) : Told s u (redemandNews s.authority) :=
    (Told.none hn).congr fun q _ => (hnews q).symm
  unfold State.reevaluate
  split
  · next hvacant =>
    refine hquiet rfl fun q => ?_
    rw [redemandNews, Authority.rival, show s.authority.holder = none from hvacant]
    rfl
  · next h hheld =>
    have hrival : s.authority.rival = s.authority.challenger h := by
      rw [Authority.rival, show s.authority.holder = some h from hheld]
      rfl
    split
    · next hnone =>
      refine hquiet rfl fun q => ?_
      rw [redemandNews, hrival, hnone]
    · next w hsome =>
      split
      · next hsame =>
        refine hquiet rfl fun q => ?_
        rw [redemandNews, hrival, hsome]
        exact if_neg fun c => c.2 hsame
      · next hnew =>
        have hposted := (Told.none (s := s) (t := s.mapAuthority fun a =>
          { a with demand := some { port := w.port, graceRemaining := a.graceSetting } }) rfl).post
          h (.yieldDemanded w.port s.authority.graceSetting) fun _ => rfl
        refine hposted.congr fun q _ => ?_
        rw [redemandNews, hrival, hsome]
        dsimp only
        simp only [show s.authority.holder = some h from hheld, Option.some.injEq, hnew, ne_eq,
          not_false_eq_true, and_true, List.nil_append]

/-! ### A waiter withdraws (R110, R117) -/

/-- The authority unit once a waiter has withdrawn: its record has left, and the demand is looked at anew. -/
theorem Authority.withdrawn_eq (a : Authority) (p : Port) :
    a.withdrawn p = { a with waiters := a.others p }.redemanded := by
  unfold Authority.withdrawn Authority.redemanded
  cases ht : a.tenure with
  | none =>
    rw [Authority.rival_vacant rfl]
    rfl
  | some x =>
    rw [Authority.rival_held rfl]
    dsimp only [freshDemand, Authority.challenger]
    cases (a.others p).find? _ <;> rfl

theorem withdrawNews_eq (s : State) (p q : Port) :
    withdrawNews s p q = redemandNews { s.authority with waiters := s.authority.others p } q := by
  unfold withdrawNews redemandNews
  rw [Authority.withdrawn_eq, Authority.redemanded]
  cases hr : Authority.rival { s.authority with waiters := s.authority.others p } with
  | none => rfl
  | some w =>
    dsimp only [Option.bind_some]
    by_cases hsame : s.authority.demand.map Demand.port = some w.port
    · obtain ⟨d, hd, hport⟩ := Option.map_eq_some_iff.mp hsame
      rw [if_pos hsame, if_neg fun c => c.2 hsame, hd]
      dsimp only
      exact if_neg fun c => c.2 rfl
    · rw [if_neg hsame]
      rfl

theorem State.withdraw_authority (s : State) (p : Port) :
    (s.withdraw p).authority = s.authority.withdrawn p := by
  rw [State.withdraw, State.reevaluate_redemanded, Authority.withdrawn_eq]
  rfl

theorem State.withdraw_told (s : State) (p : Port) : Told s (s.withdraw p) (withdrawNews s p) := by
  have htold := (s.mapAuthority fun a => { a with waiters := leaveQueue p a.waiters }).reevaluate_told
  exact (htold.of_start (s := s) rfl fun _ => rfl).congr fun q _ => (withdrawNews_eq s p q).symm

/-! ### The vacancy and its heir (R116) -/

/-- Where there was no demand, every demand is a new one. -/
theorem Authority.redemanded_fresh {a : Authority} {x : Tenure} (h : a.tenure = some x)
    (hd : a.demand = none) :
    a.redemanded = { a with demand := freshDemand a a.waiters x.port } := by
  unfold Authority.redemanded
  rw [Authority.rival_held h, hd]
  dsimp only [freshDemand, Authority.challenger]
  cases a.waiters.find? _ <;> rfl

theorem redemandNews_fresh {a : Authority} {x : Tenure} (h : a.tenure = some x)
    (hd : a.demand = none) (q : Port) :
    redemandNews a q =
      if x.port = q then
        (match freshDemand a a.waiters x.port with
          | some d => [.yieldDemanded d.port d.graceRemaining]
          | none => [])
      else [] := by
  unfold redemandNews
  rw [Authority.rival_held h, Authority.holder, h, hd]
  dsimp only [freshDemand, Authority.challenger]
  cases a.waiters.find? _ with
  | none => exact (ite_self _).symm
  | some w =>
    simp only [Option.map_some, Option.map_none, Option.some.injEq, ne_eq, reduceCtorEq,
      not_false_eq_true, and_true]

/-- The vacancy goes to its heir (R116). -/
theorem Authority.filled_heir {a : Authority} {w : WaiterRec} (h : a.heir = some w) :
    a.filled =
      { a with
        tenure := some { port := w.port, leaseRemaining := w.lease }
        waiters := a.others w.port
        demand := freshDemand a (a.others w.port) w.port } := by
  rw [Authority.filled, h]

theorem State.fillVacancy_authority (s : State) (former : Port) (reason : AuthReason) :
    (s.fillVacancy former reason).authority = s.authority.filled := by
  unfold State.fillVacancy Authority.filled
  change (match s.authority.heir with | none => _ | some w => _ : State).authority = _
  cases s.authority.heir with
  | none =>
    dsimp only
    rw [State.reevaluate_redemanded, State.clearForces_authority, State.postWhere_authority,
      State.mapAuthority_authority, Authority.redemanded, Authority.rival_vacant rfl]
    rfl
  | some w =>
    dsimp only
    rw [State.reevaluate_redemanded, State.clearForces_authority, State.postWhere_authority,
      State.post_authority, State.mapAuthority_authority, Authority.redemanded_fresh rfl rfl]
    rfl

/-- With every force cleared the demand is looked at anew, last (R116 steps 5 and 6). -/
theorem Told.clearForces_reevaluate {s t : State} {news : Port → List NoticeBody}
    (h : Told s t news) (ha : ∀ q, t.attached q = s.attached q) :
    Told s t.clearForces.reevaluate fun q => news q ++ redemandNews t.authority q :=
  (h.same rfl rfl rfl).trans t.clearForces.reevaluate_told
    (congrArg _ t.clearForces.reevaluate_timebase) (congrArg _ t.clearForces.reevaluate_timebase) ha

/-- What a fill tells (R116 steps 3, 4 and 6). -/
theorem State.fillVacancy_told (s : State) (former : Port) (reason : AuthReason) :
    Told s (s.fillVacancy former reason) (fillNews s former reason) := by
  unfold State.fillVacancy fillNews
  change Told s (match s.authority.heir with | none => _ | some w => _ : State) _
  cases hheir : s.authority.heir with
  | none =>
    let u := s.mapAuthority fun a => { a with tenure := none, demand := none }
    have hpost := (Told.none (s := s) (t := u) rfl).postWhere (fun q => q ≠ former)
      (.authorityChanged none reason) fun _ => rfl
    refine (hpost.clearForces_reevaluate (u.attached_postWhere _ · _)).congr fun q _ => ?_
    rw [State.postWhere_authority, redemandNews, Authority.rival_vacant rfl, List.append_nil]
    by_cases hq : q = former <;> simp [hq]
  | some w =>
    let u := s.mapAuthority fun a =>
      { a with
        tenure := some { port := w.port, leaseRemaining := w.lease }
        waiters := leaveQueue w.port a.waiters
        demand := none }
    have hpost := ((Told.none (s := s) (t := u) rfl).post w.port
      (.authorityGranted former w.lease reason) fun _ => rfl).postWhere
        (fun q => q ≠ w.port ∧ q ≠ former) (.authorityChanged (some w.port) reason)
        (u.attached_post _ · _)
    have hattached (q : Port) : ((u.post w.port (.authorityGranted former w.lease reason)).postWhere
        (fun q => q ≠ w.port ∧ q ≠ former) (.authorityChanged (some w.port) reason)).attached q =
          s.attached q := (State.attached_postWhere _ _ q _).trans (u.attached_post _ q _)
    refine (hpost.clearForces_reevaluate hattached).congr fun q _ => ?_
    rw [State.postWhere_authority, State.post_authority, redemandNews_fresh rfl rfl,
      Authority.filled_heir hheir]
    obtain rfl | hq := eq_or_ne w.port q
    · simp only [ne_eq, not_true_eq_false, false_and, decide_false, Bool.false_eq_true, if_false,
        if_true, List.nil_append, List.cons_append]
      rfl
    · by_cases hf : q = former
      · subst hf
        simp [hq, hq.symm]
      · simp [hq, hq.symm, hf]

/-! ### RELEASE (R109, R110) -/

theorem exec_release (s : State) (p : Port) (lags : List Nat) (tag : Byte) (hready : Ready s p)
    (hattached : s.attached p = true) :
    exec (.release ⟨p, lags⟩ tag []) s =
      .next (State.releaseTaken p (s.ports.get p).nextTicket (s.takeRequest p lags tag 0x51 [])) :=
  exec_admitted s p lags tag .release [] hready ⟨hattached, fun c => absurd c (by decide)⟩ rfl

/-- A RELEASE from the holder fills the vacancy that it leaves (R109). -/
theorem State.releaseTaken_holder {s : State} {p : Port} (k : BitVec 16) (h : s.holder = some p) :
    State.releaseTaken p k s =
      (s.fillVacancy p .released).answer p k .ok [portByte s.authority.filled.holder] := by
  rw [State.releaseTaken, if_pos h, ← s.fillVacancy_authority p .released]
  rfl

/-- A RELEASE from a waiter withdraws it (R110). -/
theorem State.releaseTaken_waiter {s : State} {p : Port} (k : BitVec 16) (h : s.holder ≠ some p)
    (hwaits : ∃ w ∈ s.authority.waiters, w.port = p) :
    State.releaseTaken p k s = (s.withdraw p).answer p k .withdrawn [] := by
  rw [State.releaseTaken, if_neg h, if_pos ((Authority.waits_iff _ _).mpr hwaits)]

theorem State.releaseTaken_other {s : State} {p : Port} (k : BitVec 16) (h : s.holder ≠ some p)
    (hnone : ∀ w ∈ s.authority.waiters, w.port ≠ p) :
    State.releaseTaken p k s = s.refuse p k .notHolder := by
  have hnot : ¬ s.authority.waits p = true := fun c => by
    obtain ⟨w, hw, hport⟩ := (Authority.waits_iff _ _).mp c
    exact hnone w hw hport
  rw [State.releaseTaken, if_neg h, if_neg hnot]

/-- Settles O46: the holder leaves a vacancy, a waiter withdraws, and any other port is refused. -/
theorem releaseTaken : Obligations.ReleaseTaken := by
  unfold Obligations.ReleaseTaken
  intro p lags tag s hready hattached
  let asked := s.takeRequest p lags tag 0x51 []
  have hsame (q : Port) : asked.attached q = s.attached q := s.attached_takeRequest p q _ _ _ _
  rw [exec_release s p lags tag hready hattached]
  refine ⟨fun hholder => ?_, fun hother hwaits => ?_, fun hother hnone => ?_⟩
  · rw [State.releaseTaken_holder (s := asked) _ hholder,
      State.answer_asked s _ p lags tag 0x51 0 .ok _ (asked.fillVacancy_ports p .released)
        (Or.inl rfl)]
    refine ⟨_, rfl, ?_, asked.fillVacancy_line p .released,
      ((asked.fillVacancy_told p .released).of_start (s := s) rfl hsame).same rfl rfl rfl⟩
    rw [State.fillVacancy_frame, State.fillVacancy_authority]
    rfl
  · rw [State.releaseTaken_waiter (s := asked) _ hother hwaits,
      State.answer_asked s _ p lags tag 0x51 0 .withdrawn _ (asked.withdraw_ports p) (Or.inl rfl)]
    refine ⟨_, rfl, ?_, ((asked.withdraw_told p).of_start (s := s) rfl hsame).same rfl rfl rfl⟩
    rw [State.withdraw_frame, State.withdraw_authority]
    rfl
  · rw [State.releaseTaken_other (s := asked) _ hother hnone, State.refuse_takeRequest]
    rfl

/-! ### The holder is revoked (R112 to R115) -/

/-- A revocation fills the vacancy, and so clears every force (R95, R116). -/
theorem State.revoke_leaves (s : State) (former : Port) (reason : AuthReason) :
    (s.revoke former reason).authority = s.authority.filled
      ∧ Unforced s (s.revoke former reason) := by
  unfold State.revoke
  refine ⟨?_, fun l => ?_⟩
  · rw [State.fillVacancy_authority, State.post_authority]
  · rw [State.fillVacancy_line, State.post_lines]

/-- A revocation tells the holder first, and then what the fill tells (R113, R116). -/
theorem State.revoke_told (s : State) (former : Port) (reason : AuthReason) :
    Told s (s.revoke former reason) fun q =>
      (if q = former then [.authorityLost (s.authority.heir.map WaiterRec.port) reason] else [])
        ++ fillNews s former reason q := by
  let lost : NoticeBody := .authorityLost (s.authority.heir.map WaiterRec.port) reason
  have hlost := (Told.none (s := s) rfl).post former lost fun _ => rfl
  have hfill := (s.post former lost).fillVacancy_told former reason
  refine (hlost.trans hfill (congrArg _ (State.fillVacancy_timebase _ _ _))
    (congrArg _ (State.fillVacancy_timebase _ _ _)) (s.attached_post _ · _)).congr fun q _ => ?_
  have hnews : fillNews (s.post former lost) former reason q = fillNews s former reason q := by
    unfold fillNews
    rw [State.post_authority]
  rw [hnews, List.nil_append]
  simp only [eq_comm (a := former)]
  rfl

theorem Authority.leaseRunsOut_iff {a : Authority} {x : Tenure} (h : a.tenure = some x) :
    a.leaseRunsOut = true ↔ x.leaseRemaining ≤ 1 := by
  rw [Authority.leaseRunsOut, h, decide_eq_true_eq]

theorem Authority.graceRunsOut_iff {a : Authority} {x : Tenure} (h : a.tenure = some x) :
    a.graceRunsOut = true ↔ ∃ d, a.demand = some d ∧ d.graceRemaining ≤ 1 := by
  rw [Authority.graceRunsOut, h]
  cases a.demand <;> simp

/-- The millisecond at which lease or grace reaches 0 revokes the holder; the grace goes before the lease
(R112 to R115). -/
theorem State.countMillisecond_revokes {s : State} {x : Tenure} (h : s.authority.tenure = some x)
    (hend : x.leaseRemaining ≤ 1 ∨ s.authority.graceRunsOut = true) :
    s.countMillisecond =
      s.revoke x.port (if s.authority.graceRunsOut = true then .preempted else .leaseExpired) := by
  unfold State.countMillisecond
  rw [Authority.graceRunsOut, h] at hend ⊢
  dsimp only
  cases hd : s.authority.demand with
  | none =>
    rw [hd] at hend
    exact if_pos (hend.resolve_right Bool.false_ne_true)
  | some d =>
    rw [hd] at hend
    simp only [decide_eq_true_eq] at hend ⊢
    by_cases hgrace : d.graceRemaining ≤ 1
    · rw [if_pos hgrace, if_pos hgrace]
    · rw [if_neg hgrace, if_neg hgrace, if_pos (hend.resolve_right hgrace)]

/-- Settles O49: the counts reach 0 in one event, which revokes the holder once. -/
theorem holderIsRevoked : Obligations.HolderIsRevoked := by
  unfold Obligations.HolderIsRevoked
  intro x s hr hx leaseEnds graceEnds hend
  have hlease : s.authority.leaseRunsOut = true ↔ leaseEnds := Authority.leaseRunsOut_iff hx
  have hgrace : s.authority.graceRunsOut = true ↔ graceEnds := Authority.graceRunsOut_iff hx
  let due := s.noted.mapTime fun b => { b with msDue := false }
  have hrevoked (reason : AuthReason)
      (hreason : (if s.authority.graceRunsOut = true then .preempted else .leaseExpired) = reason) :
      Revoked s s.noted.millisecond x.port reason := by
    have hcount : s.noted.millisecond = due.revoke x.port reason :=
      (State.countMillisecond_revokes (s := due) hx (hend.imp_right hgrace.mpr)).trans
        (congrArg _ hreason)
    obtain ⟨hauthority, hlines⟩ := due.revoke_leaves x.port reason
    rw [hcount]
    refine ⟨?_, hlines, (due.revoke_told x.port reason).of_start rfl fun _ => rfl⟩
    rw [State.revoke_frame, hauthority]
    rfl
  refine ⟨s.noted.millisecond, congrArg _ (State.event_taken s _ hr), fun hdue hl => ?_,
    fun hdue hg => ?_, fun hg => hrevoked _ (if_pos (hgrace.mpr hg)),
    fun hg => hrevoked _ (if_neg fun c => hg (hgrace.mp c))⟩
  · refine congrArg _ ((State.event_taken s _ hr).trans (if_pos ?_))
    exact Bool.and_eq_true_iff.mpr ⟨hdue, hlease.mpr hl⟩
  · refine congrArg _ ((State.event_taken s _ hr).trans (if_pos ?_))
    exact Bool.and_eq_true_iff.mpr ⟨hdue, hgrace.mpr hg⟩

end Sys2Proof.Machine


/-! PROOFS. The trigger lines: what an output shows, what an action and a pulse end do (R77 to R83). -/

namespace Sys2Proof.Machine

/-! ### Outputs and pins (R77, R78) -/

/-- A force hides base and pulse (R77). -/
theorem Line.output_forced {l : Line} {f : Force} (h : l.force = some f) : l.output = f.level := by
  rw [Line.output, h]

/-- Without a force, a pulse present asserts the output (R77). -/
theorem Line.output_pulsed {l : Line} (hforce : l.force = none) (hpulse : l.pulse ≠ none) :
    l.output = .asserted := by
  obtain ⟨u, hu⟩ := Option.ne_none_iff_exists'.mp hpulse
  rw [Line.output, hforce, hu]

/-- Without a force and a pulse, the output is the base (R77). -/
theorem Line.output_unpulsed {l : Line} (hforce : l.force = none) (hpulse : l.pulse = none) :
    l.output = l.base := by
  rw [Line.output, hforce, hpulse]

/-- Without a force, an asserted base asserts the output (R77). -/
theorem Line.output_asserted {l : Line} (hforce : l.force = none) (hbase : l.base = .asserted) :
    l.output = .asserted := by
  by_cases hpulse : l.pulse = none
  · rw [Line.output_unpulsed hforce hpulse, hbase]
  · exact Line.output_pulsed hforce hpulse

/-- The output depends on force, base and the presence of a pulse alone (R77). -/
theorem Line.output_congr {l m : Line} (hforce : l.force = m.force) (hbase : l.base = m.base)
    (hpulse : l.pulse = none ↔ m.pulse = none) : l.output = m.output := by
  cases hf : m.force with
  | some f => rw [Line.output_forced (hforce.trans hf), Line.output_forced hf]
  | none =>
    by_cases hp : m.pulse = none
    · rw [Line.output_unpulsed (hforce.trans hf) (hpulse.mpr hp), Line.output_unpulsed hf hp, hbase]
    · rw [Line.output_pulsed (hforce.trans hf) fun c => hp (hpulse.mp c), Line.output_pulsed hf hp]

/-- The output of a line with a force depends on the force alone (R77). -/
theorem Line.output_of_force_eq {l m : Line} (hforced : l.force ≠ none) (hforce : m.force = l.force) :
    m.output = l.output := by
  obtain ⟨f, hf⟩ := Option.ne_none_iff_exists'.mp hforced
  rw [Line.output_forced hf, Line.output_forced (hforce.trans hf)]

/-- The pin is high exactly where the output is asserted on an ACTIVE_HIGH line, or deasserted on an
ACTIVE_LOW line (R78). -/
theorem Line.pin_high_iff (l : Line) :
    l.pin = .high ↔ (l.output = .asserted ↔ l.polarity = .activeHigh) := by
  unfold Line.pin
  cases l.polarity <;> cases l.output <;> decide

/-! ### Applied actions (R80 to R82) -/

section Apply

variable (now : Nat) (h : Handle) (a : LineAction) (l : Line)

theorem Line.apply_assert (hkind : a.kind = .assert) : l.apply now h a = { l with base := .asserted } := by
  rw [Line.apply, hkind]

theorem Line.apply_release (hkind : a.kind = .release) :
    l.apply now h a = { l with base := .deasserted } := by
  rw [Line.apply, hkind]

theorem Line.apply_invert (hkind : a.kind = .invert) :
    l.apply now h a = { l with base := l.base.other } := by
  rw [Line.apply, hkind]

theorem Line.apply_pulse {w : Nat} (hkind : a.kind = .pulse) (hwidth : a.width = some w) :
    l.apply now h a = l.startPulse now w h := by
  rw [Line.apply, hkind, hwidth]
  rfl

/-- The force of a line plays no part in what an action does to it (R77). -/
theorem Line.apply_unforced :
    { l.apply now h a with force := none } = Line.apply now h a { l with force := none } := by
  unfold Line.apply
  cases a.kind with
  | pulse =>
    unfold Line.startPulse
    cases l.pulse <;> rfl
  | assert | release | invert => rfl

/-- An action leaves the force of its line (R77). -/
theorem Line.apply_force : (l.apply now h a).force = l.force := by
  rw [Line.apply_frame]

/-- The clamp of a pulse end (R81). -/
theorem pulseEndAt_eq (w : Nat) :
    pulseEndAt now w = if now + w ≤ 281474976710655 then now + w else 281474976710655 :=
  Nat.min_def

/-- A counter below 65,535 counts on, and one at 65,535 stays (00_scope 6.1). -/
theorem saturate_succ {n : Nat} : saturate (n + 1) = if n < 65535 then n + 1 else 65535 := Nat.min_def

/-- A PULSE on a line without a pulse begins one (R81). -/
theorem Line.startPulse_fresh (w : Nat) (hpulse : l.pulse = none) :
    l.startPulse now w h = { l with pulse := some { endTime := pulseEndAt now w, source := h } } := by
  rw [Line.startPulse, hpulse]

/-- A PULSE on a line with a pulse takes the later end, with its source, and counts (R82). -/
theorem Line.startPulse_retrigger (w : Nat) (u : Pulse) (hpulse : l.pulse = some u) :
    l.startPulse now w h =
      { l with
        pulse :=
          some
            { endTime := max u.endTime (pulseEndAt now w)
              source := if u.endTime < pulseEndAt now w then h else u.source }
        retriggers := saturate (l.retriggers + 1) } := by
  have hlater : (if u.endTime < pulseEndAt now w then { endTime := pulseEndAt now w, source := h } else u) =
      ({ endTime := max u.endTime (pulseEndAt now w)
         source := if u.endTime < pulseEndAt now w then h else u.source } : Pulse) := by
    by_cases hlt : u.endTime < pulseEndAt now w
    · rw [if_pos hlt, if_pos hlt, Nat.max_eq_right hlt.le]
    · rw [if_neg hlt, if_neg hlt, Nat.max_eq_left (Nat.le_of_not_lt hlt)]
  rw [Line.startPulse, hpulse, ← hlater]

end Apply

/-- Settles O42: the output is the force, or else asserted by the base or a pulse. -/
theorem outputsAreComposed : Obligations.OutputsAreComposed := by
  unfold Obligations.OutputsAreComposed
  intro now h a l m
  refine ⟨fun f hf => Line.output_forced hf, fun hforce hon => ?_, fun hforce hbase hpulse => ?_,
    Line.output_congr, fun hforce hbase => Line.output_asserted hforce hbase,
    fun hforce hpulse hkind => ?_, fun hforced => ⟨?_, ?_, ?_⟩⟩
  · rcases hon with hbase | hpulse
    · exact Line.output_asserted hforce hbase
    · exact Line.output_pulsed hforce hpulse
  · rw [Line.output_unpulsed hforce hpulse, hbase]
  · rw [Line.apply_release now h a l hkind]
    exact Line.output_pulsed hforce hpulse
  · exact Line.output_of_force_eq hforced (Line.apply_force now h a l)
  · exact Line.output_of_force_eq hforced rfl
  · exact Line.apply_unforced now h a l

/-! ### Pulse ends (R83) -/

theorem Line.pulseDue_iff (now : Nat) (l : Line) :
    l.pulseDue now = true ↔ ∃ u, l.pulse = some u ∧ u.endTime ≤ now := by
  unfold Line.pulseDue
  cases l.pulse with
  | none => exact ⟨fun c => (nomatch c), fun ⟨_, hu, _⟩ => (nomatch hu)⟩
  | some u =>
    refine ⟨fun hend => ⟨u, rfl, of_decide_eq_true hend⟩, fun ⟨v, hv, hend⟩ => ?_⟩
    cases hv
    exact decide_eq_true hend

/-- PULSE_END ends the pulse of its line once its time has come, and before that changes nothing
(R83; log 14). -/
theorem exec_pulseEnd {s : State} (l : LineIx) (hrun : s.inFullReset = false) :
    exec (.pulseEnd l) s =
      .next
        (if (s.lines.get l).pulseDue s.timebase.now then
          { s.noted with lines := s.lines.set l { s.lines.get l with pulse := none } }
        else s.noted) :=
  congrArg Host.Outcome.next (State.event_taken s _ hrun)

/-- Settles O43: the four kinds of action, the pulse end and the pin. -/
theorem actionsPulseEndsAndPins : Obligations.ActionsPulseEndsAndPins := by
  unfold Obligations.ActionsPulseEndsAndPins
  refine ⟨fun now w h a l => ?_, fun l s hrun => ⟨fun u hu hend => ?_, fun hlater => ?_⟩⟩
  · dsimp only
    rw [← pulseEndAt_eq, ← saturate_succ]
    refine ⟨Line.apply_assert now h a l, Line.apply_release now h a l, fun hkind => ?_,
      fun hkind hwidth hpulse => ?_, fun hkind hwidth u hpulse => ?_, l.pin_high_iff⟩
    · rw [Line.apply_invert now h a l hkind]
      cases l.base <;> rfl
    · rw [Line.apply_pulse now h a l hkind hwidth, Line.startPulse_fresh now h l w hpulse]
    · rw [Line.apply_pulse now h a l hkind hwidth, Line.startPulse_retrigger now h l w u hpulse]
  · rw [exec_pulseEnd l hrun, if_pos ((Line.pulseDue_iff _ _).mpr ⟨u, hu, hend⟩)]
  · have hnot : ¬ (s.lines.get l).pulseDue s.timebase.now = true := fun hdue => by
      obtain ⟨u, hu, hend⟩ := (Line.pulseDue_iff _ _).mp hdue
      exact absurd hend (Nat.not_le.mpr (hlater u hu))
    rw [exec_pulseEnd l hrun, if_neg hnot]

end Sys2Proof.Machine


/-! PROOFS. The requests of the line unit: LINE_QUERY, SET_LINE_POLICY and FORCE_LINE (04). -/

namespace Sys2Proof.Machine

/-! ### Payloads read back (R191 to R193) -/

/-- A set of ports is read back from its byte (R191). -/
theorem setOfByte_setByte (m : PortSet) : setOfByte 3 (setByte m) = some m := by
  have hnat : (setByte m).toNat = m.toNat := BitVec.toNat_setWidth_of_le (by decide)
  have hback : (setByte m).setWidth 3 = m := BitVec.setWidth_setWidth_of_le _ (by decide)
  rw [setOfByte, if_pos (hnat.trans_lt m.isLt), hback]

/-- The byte of a set of ports is the number of the set (R191). -/
theorem setByte_eq_ofNat (m : PortSet) : setByte m = BitVec.ofNat 8 m.toNat :=
  (BitVec.ofNat_toNat 8 m).symm

theorem LineMode.ofByte_code (m : LineMode) : LineMode.ofByte m.code = some m := by
  cases m <;> rfl

theorem Polarity.ofByte_code (q : Polarity) : Polarity.ofByte q.code = some q := by
  cases q <;> rfl

theorem forceOfByte_forceCode (v : Option Level) : forceOfByte (forceCode v) = some v := by
  cases v with
  | none => rfl
  | some level => cases level <;> rfl

/-- The payload of a SET_LINE_POLICY (R193). -/
def PolicyFields.bytes (f : PolicyFields) : List Byte :=
  [natByte f.line.val, setByte f.writerMask, f.mode.code, f.polarity.code]

theorem decodePolicy_bytes (f : PolicyFields) : decodePolicy f.bytes = some f := by
  unfold decodePolicy byteAt PolicyFields.bytes
  simp only [List.getD_cons_zero, List.getD_cons_succ, finOfByte_natByte (by decide : 16 ≤ 256),
    setOfByte_setByte, LineMode.ofByte_code, Polarity.ofByte_code]
  rfl

theorem decodeForce_bytes (l : LineIx) (value : Option Level) :
    decodeForce [natByte l.val, forceCode value] = some (l, value) := by
  unfold decodeForce byteAt
  simp only [List.getD_cons_zero, List.getD_cons_succ, finOfByte_natByte (by decide : 16 ≤ 256),
    forceOfByte_forceCode]
  rfl

/-! ### What the blocks do with the fields (R90 to R97) -/

theorem State.lineQueryTaken_line (t : State) (p : Port) (l : LineIx) (k : BitVec 16) :
    State.lineQueryTaken p [natByte l.val] k t =
      t.answer p k .ok (lineRecord t.timebase.now (t.lines.get l)) := by
  have hline : finOfByte 16 (byteAt [natByte l.val] 0) = some l := finOfByte_natByte (by decide) l
  rw [State.lineQueryTaken, hline]

/-- EXCLUSIVE is refused to a SHARED line that two ports reference (R90 check 2). -/
def Line.exclusiveRefused (l : Line) (new : LineMode) : Prop :=
  l.mode = .shared ∧ new = .exclusive ∧ 1 < l.referencingPorts

theorem State.policyTaken_refused {t : State} (p : Port) (f : PolicyFields) (k : BitVec 16)
    (h : (t.lines.get f.line).exclusiveRefused f.mode) :
    State.policyTaken p f.bytes k t =
      t.refuse p k .lineInUse := by
  rw [State.policyTaken, decodePolicy_bytes]
  exact if_pos h

theorem State.policyTaken_set {t : State} (p : Port) (f : PolicyFields) (k : BitVec 16)
    (h : ¬ (t.lines.get f.line).exclusiveRefused f.mode) :
    State.policyTaken p f.bytes k t =
      (t.mapLine f.line (Line.setPolicy f)).answer p k .ok
        [setByte (t.lines.get f.line).writerMask, (t.lines.get f.line).mode.code,
          (t.lines.get f.line).polarity.code, portByte ((t.lines.get f.line).holderAfter f.mode)] := by
  rw [State.policyTaken, decodePolicy_bytes]
  exact if_neg h

theorem State.forceTaken_set (t : State) (p : Port) (l : LineIx) (value : Option Level) (k : BitVec 16) :
    State.forceTaken p [natByte l.val, forceCode value] k t =
      (t.mapLine l (Line.setForce p value)).answer p k .ok
        [forceCode ((t.lines.get l).force.map Force.level),
          ((t.lines.get l).setForce p value).output.code,
          ((t.lines.get l).setForce p value).pin.code] := by
  rw [State.forceTaken, decodeForce_bytes]

/-! ### The requests, taken -/

section Requests

variable {s : State} {p : Port} (lags : List Nat) (tag : Byte)

theorem exec_lineQuery (l : LineIx) (hready : Ready s p) (hattached : s.attached p = true) :
    exec (.lineQuery ⟨p, lags⟩ tag [natByte l.val]) s =
      .next
        (answeredState s p lags tag 0x40 1 .ok (lineRecord s.timebase.now (s.lines.get l))) := by
  have hexec := exec_admitted s p lags tag .lineQuery [natByte l.val] hready
    ⟨hattached, fun c => absurd c (by decide)⟩ rfl
  refine hexec.trans (congrArg Host.Outcome.next ?_)
  exact (State.lineQueryTaken_line _ p l _).trans
    (State.answer_takeRequest s p lags tag 0x40 _ _ .ok (Or.inl rfl))

theorem exec_setLinePolicy_refused (f : PolicyFields) (hready : Ready s p)
    (hattached : s.attached p = true) (hholder : s.holder = some p)
    (h : (s.lines.get f.line).exclusiveRefused f.mode) :
    exec (.setLinePolicy ⟨p, lags⟩ tag f.bytes) s =
      .next (answeredState s p lags tag 0x41 4 .lineInUse []) := by
  have hexec := exec_admitted s p lags tag .setLinePolicy f.bytes hready
    ⟨hattached, fun _ => hholder⟩ rfl
  refine hexec.trans (congrArg Host.Outcome.next ?_)
  exact (State.policyTaken_refused (t := s.takeRequest p lags tag 0x41 f.bytes) p f _ h).trans
    (State.refuse_takeRequest s p lags tag 0x41 _ .lineInUse)

theorem exec_setLinePolicy_set (f : PolicyFields) (hready : Ready s p)
    (hattached : s.attached p = true) (hholder : s.holder = some p)
    (h : ¬ (s.lines.get f.line).exclusiveRefused f.mode) :
    exec (.setLinePolicy ⟨p, lags⟩ tag f.bytes) s =
      .next
        { s.frameEnds p with
          lines := s.lines.set f.line ((s.lines.get f.line).setPolicy f)
          ports :=
            answeredPorts s p lags tag 0x41 4 .ok
              [setByte (s.lines.get f.line).writerMask, (s.lines.get f.line).mode.code,
                (s.lines.get f.line).polarity.code,
                portByte ((s.lines.get f.line).holderAfter f.mode)] } := by
  have hexec := exec_admitted s p lags tag .setLinePolicy f.bytes hready
    ⟨hattached, fun _ => hholder⟩ rfl
  refine hexec.trans (congrArg Host.Outcome.next ?_)
  exact (State.policyTaken_set (t := s.takeRequest p lags tag 0x41 f.bytes) p f _ h).trans
    (State.answer_asked s _ p lags tag 0x41 4 .ok _ rfl (Or.inl rfl) none)

theorem exec_forceLine (l : LineIx) (value : Option Level) (hready : Ready s p)
    (hattached : s.attached p = true) (hholder : s.holder = some p) :
    exec (.forceLine ⟨p, lags⟩ tag [natByte l.val, forceCode value]) s =
      .next
        { s.frameEnds p with
          lines := s.lines.set l ((s.lines.get l).setForce p value)
          ports :=
            answeredPorts s p lags tag 0x42 2 .ok
              [forceCode ((s.lines.get l).force.map Force.level),
                ((s.lines.get l).setForce p value).output.code,
                ((s.lines.get l).setForce p value).pin.code] } := by
  have hexec := exec_admitted s p lags tag .forceLine [natByte l.val, forceCode value] hready
    ⟨hattached, fun _ => hholder⟩ rfl
  refine hexec.trans (congrArg Host.Outcome.next ?_)
  exact (State.forceTaken_set _ p l value _).trans
    (State.answer_asked s _ p lags tag 0x42 2 .ok _ rfl (Or.inl rfl) none)

end Requests

/-! ### The line record (R97, R194) -/

/-- The line record has 29 bytes (R97). -/
theorem length_lineRecord (now : Nat) (l : Line) : (lineRecord now l).length = 29 := by
  unfold lineRecord
  cases l.pulse <;>
    simp only [List.length_append, length_leBytes, handleBytes, List.length_cons, List.length_nil]

/-- The byte that says whether a pulse is present (R194). -/
theorem Line.pulseFlag_eq (l : Line) :
    boolByte l.pulse.isSome = if l.pulse = none then 0 else 1 := by
  cases l.pulse <;> rfl

/-- Settles O44: the three requests of the line unit. -/
theorem lineRequestsTaken : Obligations.LineRequestsTaken := by
  unfold Obligations.LineRequestsTaken
  intro p lags tag l mask mode polarity value s hready hattached
  let f : PolicyFields := { line := l, writerMask := mask, mode := mode, polarity := polarity }
  intro x referenced holderAfter forced one port record
  have hrecord : lineRecord s.timebase.now x = record := by
    refine congrArg₂ _ (congrArg₂ _ (congrArg₂ _
      ((List.append_assoc _ _ _).trans (congrArg _ ?_)) ?_) rfl) rfl
    · cases x.pulse <;> rfl
    · rw [x.pulseFlag_eq, setByte_eq_ofNat]
      rfl
  have hholderAfter : x.holderAfter mode = holderAfter := by
    unfold Line.holderAfter holderAfter
    cases x.mode <;> cases mode <;> rfl
  refine ⟨?_, fun hholder hrefused => ?_, fun hholder hallowed => ?_, fun hholder => ?_⟩
  · rw [← hrecord]
    exact ⟨exec_lineQuery lags tag l hready hattached, length_lineRecord _ _⟩
  · exact exec_setLinePolicy_refused lags tag f hready hattached hholder hrefused
  · rw [← hholderAfter]
    exact exec_setLinePolicy_set lags tag f hready hattached hholder hallowed
  · exact exec_forceLine lags tag l value hready hattached hholder

end Sys2Proof.Machine

/-! PROOFS. What R102 and R103 ask of the authority unit, and what the unit's own operations keep of it. -/

namespace Sys2Proof.Machine

/-! ### The invariant of the authority unit (R102, R103) -/

/-- Holder and waiters are as R102 and R103 say, each of them out of a set of ports; nothing is said of the
demand. -/
structure Authority.Seated (ports : Port → Prop) (a : Authority) : Prop where
  holder : ∀ x, a.tenure = some x →
    ports x.port ∧ 1 ≤ x.leaseRemaining ∧ x.leaseRemaining ≤ 65535
  waiters : ∀ w ∈ a.waiters,
    ports w.port ∧ a.holder ≠ some w.port ∧ 1 ≤ w.lease ∧ w.lease ≤ 65535
  distinct : (a.waiters.map WaiterRec.port).Nodup
  urgentFirst : a.waiters.Pairwise fun v w => w.urgent = true → v.urgent = true
  vacant : a.tenure = none → a.waiters = []
  grace : 1 ≤ a.graceSetting ∧ a.graceSetting ≤ 255

/-- The demand is made on a holder by an urgent waiter that outranks it (R117). -/
structure Authority.Demanded (a : Authority) : Prop where
  vacant : a.tenure = none → a.demand = none
  demand : ∀ x, a.tenure = some x → ∀ d, a.demand = some d →
    a.rank.outranks d.port x.port = true ∧ 1 ≤ d.graceRemaining ∧ d.graceRemaining ≤ 255
      ∧ ∃ w ∈ a.waiters, w.port = d.port ∧ w.urgent = true

/-- The invariant speaks of the authority unit, of who is attached and of the full reset. -/
theorem authorityWf_iff (s : State) :
    AuthorityWf s ↔
      s.authority.Seated (s.attached · = true) ∧ s.authority.Demanded
        ∧ (s.inFullReset = true → s.authority.tenure = none) where
  mp h := ⟨⟨h.holder, h.waiters, h.distinct, h.urgentFirst, fun hv => (h.vacant hv).1, h.grace⟩,
    ⟨fun hv => (h.vacant hv).2, h.demand⟩, h.inReset⟩
  mpr := fun ⟨hseated, hdemanded, hreset⟩ => ⟨hseated.holder, hseated.waiters, hseated.distinct,
    hseated.urgentFirst, fun hv => ⟨hseated.vacant hv, hdemanded.vacant hv⟩, hdemanded.demand,
    hseated.grace, hreset⟩

namespace Authority

variable {ports more : Port → Prop} {a : Authority}

/-- Ports that neither hold nor wait may come and go. -/
theorem Seated.of_ports (h : a.Seated ports)
    (hmore : ∀ q, a.holder = some q ∨ a.waits q = true → ports q → more q) : a.Seated more where
  holder x hx := by
    obtain ⟨hport, hlease⟩ := h.holder x hx
    exact ⟨hmore _ (.inl (congrArg (Option.map Tenure.port) hx)) hport, hlease⟩
  waiters w hw := by
    obtain ⟨hport, hrest⟩ := h.waiters w hw
    exact ⟨hmore _ (.inr ((a.waits_iff _).mpr ⟨w, hw, rfl⟩)) hport, hrest⟩
  distinct := h.distinct
  urgentFirst := h.urgentFirst
  vacant := h.vacant
  grace := h.grace

/-- A demand runs within the range of the grace (R122). -/
theorem Demanded.grace_range (h : a.Demanded) (d : Demand) (hd : a.demand = some d) :
    1 ≤ d.graceRemaining ∧ d.graceRemaining ≤ 255 := by
  cases hx : a.tenure with
  | none =>
    rw [h.vacant hx] at hd
    cases hd
  | some x =>
    obtain ⟨_, hlow, hhigh, _⟩ := h.demand x hx d hd
    exact ⟨hlow, hhigh⟩

/-- A demand that is looked at anew is the rival's (R117). -/
theorem Seated.demanded_redemanded (h : a.Seated ports)
    (hrunning : ∀ d, a.demand = some d → 1 ≤ d.graceRemaining ∧ d.graceRemaining ≤ 255) :
    a.redemanded.Demanded where
  vacant hv := by
    rw [redemanded, rival_vacant (a := a) hv]
    rfl
  demand x hx d hd := by
    rw [redemanded, rival_held (a := a) hx] at hd
    obtain ⟨w, hrival, hd⟩ := Option.bind_eq_some_iff.mp hd
    obtain ⟨hw, hurgent, hrank⟩ := a.challenger_some _ w hrival
    split at hd
    · next hsame =>
      rw [hd] at hsame
      have hport : d.port = w.port := Option.some.inj hsame
      obtain ⟨hlow, hhigh⟩ := hrunning d hd
      rw [hport]
      exact ⟨hrank, hlow, hhigh, w, hw, rfl, hurgent⟩
    · cases hd
      exact ⟨hrank, h.grace.1, h.grace.2, w, hw, rfl, hurgent⟩

/-- The demand is no part of who is seated. -/
theorem Seated.of_demand (h : a.Seated ports) {d : Option Demand} :
    Seated ports { a with demand := d } :=
  ⟨h.holder, h.waiters, h.distinct, h.urgentFirst, h.vacant, h.grace⟩

theorem Seated.redemanded (h : a.Seated ports) : a.redemanded.Seated ports := h.of_demand

/-! ### A waiter leaves, a vacancy is filled (R110, R116) -/

theorem mem_others (p : Port) (w : WaiterRec) : w ∈ a.others p ↔ w ∈ a.waiters ∧ w.port ≠ p :=
  mem_leaveQueue p a.waiters w

/-- The others wait on, in their order, when a port leaves the queue (R103). -/
theorem Seated.others (h : a.Seated ports) (p : Port)
    (hmore : ∀ q, q ≠ p → a.holder = some q ∨ a.waits q = true → ports q → more q)
    (hp : a.holder ≠ some p) : Seated more { a with waiters := a.others p } where
  holder x hx := by
    obtain ⟨hport, hlease⟩ := h.holder x hx
    have hholder : a.holder = some x.port := congrArg (Option.map Tenure.port) hx
    exact ⟨hmore _ (fun c => hp (c ▸ hholder)) (.inl hholder) hport, hlease⟩
  waiters w hw := by
    obtain ⟨hw, hne⟩ := (mem_others p w).mp hw
    obtain ⟨hport, hrest⟩ := h.waiters w hw
    exact ⟨hmore _ hne (.inr ((a.waits_iff _).mpr ⟨w, hw, rfl⟩)) hport, hrest⟩
  distinct := h.distinct.sublist ((leaveQueue_sublist p a.waiters).map _)
  urgentFirst := h.urgentFirst.sublist (leaveQueue_sublist p a.waiters)
  vacant hv := by
    change a.others p = []
    rw [Authority.others, h.vacant hv]
    rfl
  grace := h.grace

/-- A port that waits withdraws (R110). -/
theorem Seated.withdrawn (h : a.Seated ports) (hd : a.Demanded) (p : Port)
    (hmore : ∀ q, q ≠ p → a.holder = some q ∨ a.waits q = true → ports q → more q)
    (hp : a.holder ≠ some p) : (a.withdrawn p).Seated more ∧ (a.withdrawn p).Demanded := by
  have hothers := h.others p hmore hp
  rw [withdrawn_eq]
  exact ⟨hothers.redemanded, hothers.demanded_redemanded hd.grace_range⟩

/-- A queue without an heir is empty: the demanding port waits (R116 step 1). -/
theorem Demanded.waiters_of_no_heir (h : a.Demanded) (hheir : a.heir = none) : a.waiters = [] := by
  unfold heir at hheir
  split at hheir
  · next d hd =>
    cases hx : a.tenure with
    | none =>
      rw [h.vacant hx] at hd
      cases hd
    | some x =>
      obtain ⟨_, _, _, w, hw, hport, _⟩ := h.demand x hx d hd
      exact absurd (decide_eq_true hport) (List.find?_eq_none.mp hheir w hw)
  · exact List.head?_eq_none_iff.mp hheir

/-- The vacancy goes to the heir, and the demand on it is looked at from nothing (R116, R117). -/
theorem filled_redemanded {w : WaiterRec} (hheir : a.heir = some w) :
    a.filled =
      { a with
        tenure := some { port := w.port, leaseRemaining := w.lease }
        waiters := a.others w.port
        demand := none }.redemanded := by
  rw [filled_heir hheir, redemanded_fresh rfl rfl]
  rfl

/-- A vacancy that the holder leaves is filled: the heir no longer waits (R116). -/
theorem Seated.filled (h : a.Seated ports) (hd : a.Demanded)
    (hmore : ∀ q, a.waits q = true → ports q → more q) :
    a.filled.Seated more ∧ a.filled.Demanded := by
  cases hheir : a.heir with
  | none =>
    have hempty := hd.waiters_of_no_heir hheir
    rw [Authority.filled, hheir]
    refine ⟨⟨nofun, ?_, h.distinct, h.urgentFirst, fun _ => hempty, h.grace⟩, fun _ => rfl, nofun⟩
    rw [hempty]
    exact nofun
  | some w =>
    have hw : w ∈ a.waiters := a.nextHolder_mem w hheir
    obtain ⟨hport, _, hlease⟩ := h.waiters w hw
    have hgranted : Seated more
        { a with
          tenure := some { port := w.port, leaseRemaining := w.lease }
          waiters := a.others w.port
          demand := none } := by
      refine ⟨fun x hx => ?_, fun v hv => ?_, h.distinct.sublist ((leaveQueue_sublist _ _).map _),
        h.urgentFirst.sublist (leaveQueue_sublist _ _), nofun, h.grace⟩
      · cases hx
        exact ⟨hmore _ ((a.waits_iff _).mpr ⟨w, hw, rfl⟩) hport, hlease⟩
      · obtain ⟨hv, hne⟩ := (mem_others w.port v).mp hv
        obtain ⟨hvport, _, hvlease⟩ := h.waiters v hv
        exact ⟨hmore _ ((a.waits_iff _).mpr ⟨v, hv, rfl⟩) hvport,
          fun c => hne (Option.some.inj c).symm, hvlease⟩
    rw [filled_redemanded hheir]
    exact ⟨hgranted.redemanded, hgranted.demanded_redemanded nofun⟩

/-! ### A claimant joins the queue (R103, R108) -/

/-- A waiter that joins leaves the urgent ones in front (R103). -/
theorem joinQueue_urgentFirst (w : WaiterRec) {ws : List WaiterRec}
    (h : ws.Pairwise fun u v => v.urgent = true → u.urgent = true) :
    (joinQueue w ws).Pairwise fun u v => v.urgent = true → u.urgent = true := by
  induction ws with
  | nil => exact List.pairwise_singleton _ _
  | cons x xs ih =>
    obtain ⟨hx, hxs⟩ := List.pairwise_cons.mp h
    unfold joinQueue
    split
    · next hfront => exact h.cons fun _ _ _ => (Bool.and_eq_true_iff.mp hfront).1
    · next hback =>
      refine (ih hxs).cons fun v hv hurgent => ?_
      rcases List.mem_cons.mp ((joinQueue_perm w xs).mem_iff.mp hv) with rfl | hmem
      · simpa [hurgent] using hback
      · exact hx v hmem hurgent

theorem mem_joinQueue (w v : WaiterRec) (ws : List WaiterRec) :
    v ∈ joinQueue w ws ↔ v = w ∨ v ∈ ws := by
  rw [(joinQueue_perm w ws).mem_iff, List.mem_cons]

/-- A port that neither holds nor waits joins the queue behind a holder (R108). -/
theorem Seated.joined (h : a.Seated ports) {w : WaiterRec} (hheld : a.tenure ≠ none)
    (hport : ports w.port) (hlease : 1 ≤ w.lease ∧ w.lease ≤ 65535) (hholder : a.holder ≠ some w.port)
    (hwaits : ¬ a.waits w.port = true) :
    Seated ports { a with waiters := joinQueue w a.waiters } where
  holder := h.holder
  waiters v hv := by
    rcases (mem_joinQueue w v a.waiters).mp hv with rfl | hmem
    · exact ⟨hport, hholder, hlease⟩
    · exact h.waiters v hmem
  distinct := by
    have hperm := (joinQueue_perm w a.waiters).map WaiterRec.port
    rw [hperm.nodup_iff, List.map_cons, List.nodup_cons]
    refine ⟨fun c => hwaits ((a.waits_iff _).mpr ?_), h.distinct⟩
    exact List.mem_map.mp c
  urgentFirst := joinQueue_urgentFirst w h.urgentFirst
  vacant hv := absurd hv hheld
  grace := h.grace

/-- The demand after a claimant has joined: its own where it makes one, otherwise the one before (R108). -/
def claimDemand (a : Authority) (holder p : Port) (urgent : Bool) : Option Demand :=
  if a.demandsOf holder p urgent then some { port := p, graceRemaining := a.graceSetting }
  else a.demand

theorem Demanded.joined (h : a.Demanded) {w : WaiterRec} {x : Tenure} (hx : a.tenure = some x)
    (hgrace : 1 ≤ a.graceSetting ∧ a.graceSetting ≤ 255) :
    Demanded
      { a with
        waiters := joinQueue w a.waiters
        demand := a.claimDemand x.port w.port w.urgent } where
  vacant hv := nomatch hx.symm.trans hv
  demand y hy d hd := by
    cases hx.symm.trans hy
    change a.claimDemand _ _ _ = _ at hd
    unfold claimDemand at hd
    split at hd
    · next hmade =>
      cases hd
      obtain ⟨hfirst, hrank⟩ := Bool.and_eq_true_iff.mp hmade
      obtain ⟨_, hurgent⟩ := Bool.and_eq_true_iff.mp hfirst
      exact ⟨hrank, hgrace.1, hgrace.2, w, (mem_joinQueue w w _).mpr (.inl rfl), rfl, hurgent⟩
    · obtain ⟨hrank, hlow, hhigh, v, hv, hrest⟩ := h.demand x hx d hd
      exact ⟨hrank, hlow, hhigh, v, (mem_joinQueue w v _).mpr (.inr hv), hrest⟩

/-! ### Leases and the counts of a millisecond (R107, R111, R112) -/

/-- The holder has another lease (R111). -/
theorem Seated.leased (h : a.Seated ports) {p : Port} {lease : Nat} (hp : a.holder = some p)
    (hlease : 1 ≤ lease ∧ lease ≤ 65535) :
    Seated ports { a with tenure := some { port := p, leaseRemaining := lease } } where
  holder x hx := by
    obtain ⟨y, hy, rfl⟩ := Option.map_eq_some_iff.mp hp
    cases hx
    exact ⟨(h.holder y hy).1, hlease⟩
  waiters w hw := by
    obtain ⟨hport, hne, hrest⟩ := h.waiters w hw
    exact ⟨hport, fun c => hne (hp.trans c), hrest⟩
  distinct := h.distinct
  urgentFirst := h.urgentFirst
  vacant := nofun
  grace := h.grace

/-- The demand stays on its holder, whatever the lease (R111). -/
theorem Demanded.leased (h : a.Demanded) {x : Tenure} (hx : a.tenure = some x) (lease : Nat) :
    Demanded { a with tenure := some { port := x.port, leaseRemaining := lease } } where
  vacant := nofun
  demand y hy := by
    cases hy
    exact h.demand x hx

/-- The demand stays on its holder while its grace runs (R112). -/
theorem Demanded.counted (h : a.Demanded) (hrunning : ∀ d, a.demand = some d → 1 < d.graceRemaining) :
    Demanded
      { a with
        demand := a.demand.map fun d => { d with graceRemaining := d.graceRemaining - 1 } } where
  vacant hv := Option.map_eq_none_iff.mpr (h.vacant hv)
  demand x hx d hd := by
    obtain ⟨e, he, rfl⟩ := Option.map_eq_some_iff.mp hd
    obtain ⟨hrank, _, hhigh, hwaits⟩ := h.demand x hx e he
    have hlow := hrunning e he
    refine ⟨hrank, ?_, ?_, hwaits⟩ <;> dsimp only <;> omega

/-- Where nobody holds, waits or demands, a claimant is granted the authority (R107). -/
theorem Seated.granted (h : a.Seated ports) (hd : a.Demanded) (hvacant : a.tenure = none) {p : Port}
    {lease : Nat} (hp : ports p) (hlease : 1 ≤ lease ∧ lease ≤ 65535) :
    Seated ports { a with tenure := some { port := p, leaseRemaining := lease } }
      ∧ Demanded { a with tenure := some { port := p, leaseRemaining := lease } } := by
  refine ⟨⟨fun x hx => ?_, fun w hw => ?_, h.distinct, h.urgentFirst, nofun, h.grace⟩,
    nofun, fun _ _ d c => ?_⟩
  · cases hx
    exact ⟨hp, hlease⟩
  · rw [show a.waiters = [] from h.vacant hvacant] at hw
    cases hw
  · rw [show a.demand = none from hd.vacant hvacant] at c
    cases c

end Authority

end Sys2Proof.Machine

/-! PROOFS. The commands that leave the authority unit and the sessions alone. -/

namespace Sys2Proof.Machine

/-! ### What leaves the authority unit alone -/

/-- From `s` to `t` the authority unit is the same, no session has closed and no full reset has begun. -/
structure SameAuthority (s t : State) : Prop where
  authority : t.authority = s.authority
  attached : ∀ q, s.attached q = true → t.attached q = true
  inReset : t.inFullReset = s.inFullReset

theorem AuthorityWf.of_same {s t : State} (h : AuthorityWf s) (e : SameAuthority s t) :
    AuthorityWf t := by
  obtain ⟨hseated, hdemanded, hreset⟩ := (authorityWf_iff s).mp h
  obtain ⟨hauthority, hattached, hinReset⟩ := e
  rw [authorityWf_iff, hauthority, hinReset]
  exact ⟨hseated.of_ports fun q _ => hattached q, hdemanded, hreset⟩

theorem SameAuthority.refl (s : State) : SameAuthority s s := ⟨rfl, fun _ => id, rfl⟩

theorem SameAuthority.trans {s t u : State} (h1 : SameAuthority s t) (h2 : SameAuthority t u) :
    SameAuthority s u where
  authority := h2.authority.trans h1.authority
  attached q := h2.attached q ∘ h1.attached q
  inReset := h2.inReset.trans h1.inReset

/-- Where no session changes. -/
theorem SameAuthority.of_attached {s t : State} (hauthority : t.authority = s.authority)
    (hattached : ∀ q, t.attached q = s.attached q) (hreset : t.inFullReset = s.inFullReset) :
    SameAuthority s t := ⟨hauthority, fun q h => (hattached q).trans h, hreset⟩

theorem SameAuthority.of_ports {s t : State} (hauthority : t.authority = s.authority)
    (hports : t.ports = s.ports) (hreset : t.inFullReset = s.inFullReset) : SameAuthority s t :=
  .of_attached hauthority (State.attached_congr hports) hreset

theorem SameAuthority.mapPort (s : State) (p : Port) (f : PortIf → PortIf)
    (hf : ∀ i, (f i).session = i.session) : SameAuthority s (s.mapPort p f) :=
  .of_attached rfl (fun q => s.attached_mapPort p q f (hf _)) rfl

theorem SameAuthority.noted (s : State) : SameAuthority s s.noted := .of_ports rfl rfl rfl

theorem SameAuthority.frame (s : State) (p : Port) (bytes : List Byte) (f : PortIf → PortIf)
    (hf : ∀ i, (f i).session = i.session) : SameAuthority s (s.frame p bytes f) :=
  (SameAuthority.of_ports rfl rfl rfl : SameAuthority s (s.frameEnds p)).trans (.mapPort _ p _ hf)

theorem SameAuthority.answer (s : State) (p : Port) (k : BitVec 16) (st : Status) (pl : List Byte)
    (fr : Option EntryName) : SameAuthority s (s.answer p k st pl fr) :=
  .mapPort s p _ fun i => i.takeAnswer_session k st pl fr

theorem SameAuthority.refuse (s : State) (p : Port) (k : BitVec 16) (st : Status) :
    SameAuthority s (s.refuse p k st) := .answer s p k st [] none

theorem SameAuthority.takeRequest (s : State) (p : Port) (lags : List Nat) (tag kind : Byte)
    (pl : List Byte) : SameAuthority s (s.takeRequest p lags tag kind pl) :=
  .frame s p _ _ fun _ => rfl

/-! ### The requests -/

/-- The requests that reach the authority unit or close a session. -/
def authorityKinds : List Kind := [.detach, .claim, .release, .renew, .setGrace]

theorem Kind.taken_authority (k : Kind) (hk : k ∉ authorityKinds) (p : Port) (pl : List Byte)
    (ticket : BitVec 16) (s : State) :
    (k.taken p pl ticket s).authority = s.authority
      ∧ (k.taken p pl ticket s).inFullReset = s.inFullReset := by
  cases k with
  | detach | claim | release | renew | setGrace => exact absurd (by decide) hk
  | attach => simp only [Kind.taken, State.attachTaken_keeps, and_self]
  | setAttention => simp only [Kind.taken, State.attentionTaken_keeps, and_self]
  | queryTime => simp only [Kind.taken, State.queryTimeTaken_keeps, and_self]
  | start => simp only [Kind.taken, State.startTaken_keeps, and_self]
  | stop => simp only [Kind.taken, State.stopTaken_keeps, and_self]
  | step => simp only [Kind.taken, State.stepTaken_keeps, and_self]
  | slew => simp only [Kind.taken, State.slewTaken_keeps, and_self]
  | entryAdd => simp only [Kind.taken, State.addTaken_keeps, and_self]
  | entryCancel => simp only [Kind.taken, State.cancelTaken_keeps, and_self]
  | entryHold => simp only [Kind.taken, State.holdTaken_keeps, and_self]
  | entryResume => simp only [Kind.taken, State.resumeTaken_keeps, and_self]
  | entryQuery => simp only [Kind.taken, State.entryQueryTaken_keeps, and_self]
  | nextQuery => simp only [Kind.taken, State.nextQueryTaken_keeps, and_self]
  | entryList => simp only [Kind.taken, State.entryListTaken_keeps, and_self]
  | setQuota => simp only [Kind.taken, State.quotaTaken_keeps, and_self]
  | purgePort => simp only [Kind.taken, State.purgeTaken_keeps, and_self]
  | lineQuery => simp only [Kind.taken, State.lineQueryTaken_keeps, and_self]
  | setLinePolicy => simp only [Kind.taken, State.policyTaken_keeps, and_self]
  | forceLine => simp only [Kind.taken, State.forceTaken_keeps, and_self]
  | queryAuthority => simp only [Kind.taken, State.queryAuthorityTaken_keeps, and_self]
  | setCapture => simp only [Kind.taken, State.setCaptureTaken_keeps, and_self]
  | subscribe => simp only [Kind.taken, State.subscribeTaken_keeps, and_self]
  | readCaptures => simp only [Kind.taken, State.readTaken_keeps, and_self]
  | fetchNotices => simp only [Kind.taken, State.fetchTaken_keeps, and_self]
  | ackNotices => simp only [Kind.taken, State.ackTaken_keeps, and_self]

/-- ATTACH opens the session of its port and closes none (R179). -/
theorem State.attachTaken_attached (s : State) (p q : Port) (k : BitVec 16)
    (h : s.attached q = true) : (State.attachTaken p k s).attached q = true := by
  unfold State.attachTaken
  split
  · exact (s.attached_refuse p q k _).trans h
  · next hp =>
    have hne : p ≠ q := fun e => hp (e ▸ h)
    rw [State.attached_answer, State.attached_openSession_ne s hne]
    exact h

/-- The requests of the schedule and of the line unit change no session, whatever they do to entries. -/
theorem Kind.taken_attached_entries (k : Kind) (hk : k ∈ entryKinds) (hattach : k ≠ .attach)
    (hdetach : k ≠ .detach) (p q : Port) (pl : List Byte) (ticket : BitVec 16) (s : State) :
    (k.taken p pl ticket s).attached q = s.attached q := by
  have hrefuse (st : Status) := s.attached_refuse p q ticket st
  have hanswer {t : State} (ht : t.ports = s.ports) (st : Status) (out : List Byte)
      (fr : Option EntryName) : (t.answer p ticket st out fr).attached q = s.attached q :=
    (t.attached_answer p q ticket st out fr).trans (State.attached_congr ht q)
  cases k with
  | attach => exact absurd rfl hattach
  | detach => exact absurd rfl hdetach
  | step =>
    change (State.stepTaken p pl ticket s).attached q = _
    unfold State.stepTaken
    split
    · exact hrefuse _
    · split
      · exact hrefuse _
      · split
        · exact hrefuse _
        · exact State.attached_congr (s.takeStep_ports _ _) q
  | entryAdd =>
    change (State.addTaken p pl ticket s).attached q = _
    unfold State.addTaken
    split
    · exact hrefuse _
    · split
      · exact hrefuse _
      · split
        · exact hrefuse _
        · exact hrefuse _
        · exact hanswer rfl _ _ _
  | entryCancel =>
    exact s.ownEntry_induction (·.attached q = s.attached q) p pl ticket _ hrefuse
      fun i _ _ _ _ => hanswer (s.freeEntry_ports i) _ _ _
  | entryHold | entryResume =>
    refine s.ownEntry_induction (·.attached q = s.attached q) p pl ticket _ hrefuse
      fun i _ _ _ _ => ?_
    split
    · exact hanswer rfl _ _ _
    · exact hrefuse _
    · exact hrefuse _
  | setQuota =>
    change (State.quotaTaken p pl ticket s).attached q = _
    unfold State.quotaTaken
    split
    · exact hrefuse _
    · split
      · exact hrefuse _
      · exact hanswer rfl _ _ _
  | purgePort =>
    change (State.purgeTaken p pl ticket s).attached q = _
    unfold State.purgeTaken
    split
    · exact hrefuse _
    · split
      · exact hrefuse _
      · exact hanswer (s.purge_ports p _) _ _ _
  | setLinePolicy =>
    change (State.policyTaken p pl ticket s).attached q = _
    unfold State.policyTaken
    split
    · exact hrefuse _
    · dsimp only
      split
      · exact hrefuse _
      · exact hanswer rfl _ _ _
  | _ => exact absurd hk (by decide)

theorem Kind.taken_sameAuthority (k : Kind) (hk : k ∉ authorityKinds) (p : Port) (pl : List Byte)
    (ticket : BitVec 16) (s : State) : SameAuthority s (k.taken p pl ticket s) := by
  obtain ⟨hauthority, hreset⟩ := k.taken_authority hk p pl ticket s
  refine ⟨hauthority, fun q h => ?_, hreset⟩
  by_cases hentry : k ∈ entryKinds
  · by_cases hattach : k = .attach
    · subst hattach
      exact s.attachTaken_attached p q ticket h
    · have hdetach : k ≠ .detach := fun c => hk (c ▸ by decide)
      exact (k.taken_attached_entries hentry hattach hdetach p q pl ticket s).trans h
  · exact ((k.taken_sameEntries hentry p pl ticket s).attached q).trans h

/-- What a REQUEST frame can do, told once: outside a full reset it may take the slot, and otherwise it leaves
the unit alone (R164 to R167, R176). -/
theorem State.receive_reaches (s : State) (p : Port) (lags : List Nat) (tag kind : Byte)
    (pl : List Byte) (handle : BitVec 16 → State → State) :
    SameAuthority s (s.receive p lags tag kind pl handle)
      ∨ (s.inFullReset = false
        ∧ s.receive p lags tag kind pl handle =
          handle (s.ports.get p).nextTicket (s.takeRequest p lags tag kind pl)) := by
  unfold State.receive
  split
  · exact .inl (.frame s p _ id fun _ => rfl)
  · next hblocked =>
    have hfree : s.inFullReset = false := by
      rw [State.blocked, Bool.or_eq_true, not_or] at hblocked
      exact Bool.eq_false_iff.mpr hblocked.1
    split
    · exact .inl (.frame s p _ _ fun _ => rfl)
    · split
      · exact .inl (.frame s p _ _ fun _ => rfl)
      all_goals exact .inr ⟨hfree, rfl⟩

/-- What a request of a kind can do: it reaches its block, from a port that is attached where its kind asks for
it, or it leaves the unit alone (R172). -/
theorem State.request_reaches (s : State) (k : Kind) (p : Port) (lags : List Nat) (tag : Byte)
    (pl : List Byte) (block : BitVec 16 → State → State) :
    SameAuthority s (s.request k p lags tag pl block)
      ∨ (s.inFullReset = false ∧ (s.attached p || k.takenDetached) = true
        ∧ s.request k p lags tag pl block =
          block (s.ports.get p).nextTicket (s.takeRequest p lags tag k.code pl)) := by
  have htaken := SameAuthority.takeRequest s p lags tag k.code pl
  unfold State.request
  refine (s.receive_reaches p lags tag k.code pl _).elim .inl fun ⟨hfree, hreceived⟩ => ?_
  rw [hreceived]
  unfold State.portChecks
  split
  · exact .inl (htaken.trans (.refuse _ _ _ _))
  · split
    · exact .inl (htaken.trans (.refuse _ _ _ _))
    · next hattached =>
      rw [State.attached_takeRequest, Bool.not_eq_true, Bool.not_eq_false'] at hattached
      exact .inr ⟨hfree, hattached, rfl⟩

/-! ### The events and the other frames -/

theorem SameAuthority.completePass (s : State) : SameAuthority s s.completePass := by
  cases hpass : s.schedule.pass with
  | none =>
    rw [State.completePass_noPass s hpass]
    exact .refl s
  | some a =>
    have hanswered : SameAuthority s (s.passAnswered a) := .answer s _ _ _ _ _
    exact hanswered.trans (.of_ports s.completePass_authority (s.completePass_ports hpass)
      s.completePass_inFullReset)

theorem SameAuthority.advance (s : State) : SameAuthority s s.advance := by
  refine .of_attached s.advance_authority (fun q => ?_) s.advance_inFullReset
  have hadvanced := (SameEntries.advancedState s).attached q
  rw [State.advance_eq]
  split
  · exact (State.attached_congr (State.tellAdvance_ports _) q).trans hadvanced
  · exact hadvanced

theorem SameAuthority.microsecond (s : State) : SameAuthority s s.microsecond := by
  have hready (t : State) (hover : ¬ Overdue t) : SameAuthority t t.microsecond := by
    have hcounted : SameAuthority t t.countMicrosecond := .of_ports rfl rfl rfl
    rw [State.microsecond_notOverdue t hover]
    split
    · exact hcounted
    · exact hcounted.trans (.advance _)
  by_cases hover : Overdue s
  · rw [State.microsecond_overdue s hover]
    exact ((SameAuthority.completePass s).trans (.noted _)).trans
      (hready _ s.not_overdue_completePass_noted)
  · exact hready s hover

theorem SameAuthority.pollNotTaken (s : State) (p : Port) (lags : List Nat) (n : Nat) :
    SameAuthority s (s.pollNotTaken p lags n) := by
  have hframe : SameAuthority s (s.frameNotTaken p (s.statusBytes p lags 1 ++ s.freeBytes n)) :=
    .frame s p _ id fun _ => rfl
  exact hframe.trans (.of_ports rfl rfl rfl)

theorem SameAuthority.pollTaken (s : State) (p : Port) (lags : List Nat) (n : Nat) :
    SameAuthority s (s.pollTaken p lags n) := by
  unfold State.pollTaken
  split
  all_goals exact .frame s p _ _ fun _ => rfl

theorem SameAuthority.repeatTaken (s : State) (p : Port) (lags : List Nat) (n : Nat) :
    SameAuthority s (s.repeatTaken p lags n) := by
  unfold State.repeatTaken
  split
  · exact .frame s p _ _ fun _ => rfl
  · exact .frame s p _ _ fun _ => rfl
  · split
    all_goals exact .frame s p _ _ fun _ => rfl

theorem SameAuthority.badKind {s t : State} (a : Arrival) (tag kind : Byte) (pl : List Byte)
    (e : execBadKind a tag kind pl s = .next t) : SameAuthority s t := by
  unfold execBadKind at e
  split at e
  · cases e
  · cases e
    refine (s.receive_reaches _ _ _ _ _ _).elim id fun ⟨_, hreceived⟩ => ?_
    rw [hreceived]
    exact (SameAuthority.takeRequest s _ _ _ _ _).trans (.refuse _ _ _ _)

theorem SameAuthority.faultyFrame {s t : State} (a : Arrival) (bytes : List Byte)
    (e : execFaultyFrame a bytes s = .next t) : SameAuthority s t := by
  unfold execFaultyFrame at e
  split at e
  · cases e
    exact .refl s
  · cases e
  · cases e
    split
    · exact .frame s _ _ id fun _ => rfl
    · exact .frame s _ _ _ fun _ => rfl

end Sys2Proof.Machine

/-! PROOFS. Every step keeps the authority unit as R102 and R103 say. -/

namespace Sys2Proof.Machine

/-! ### The requests of the authority unit (R106 to R111, R122) -/

theorem decodeLease_range {pl : List Byte} {lease : Nat} (h : decodeLease pl = some lease) :
    1 ≤ lease ∧ lease ≤ 65535 := by
  have hlt := natAt_lt pl 0 2
  unfold decodeLease at h
  simp only [Option.ite_none_left_eq_some, Option.some.injEq] at h
  omega

theorem decodeClaim_lease {pl : List Byte} {lease : Nat} {urgent : Bool}
    (h : decodeClaim pl = some (lease, urgent)) : decodeLease pl = some lease := by
  unfold decodeClaim at h
  simp only [Option.bind_eq_bind, Option.bind_eq_some_iff, Option.some.injEq, Prod.mk.injEq] at h
  obtain ⟨_, hlease, _, _, rfl, _⟩ := h
  exact hlease

/-- The claimant holds the authority (R107). -/
theorem State.grantClaim_authority (s : State) (p : Port) (k : BitVec 16) (lease : Nat) :
    (s.grantClaim p k lease).authority =
      { s.authority with tenure := some { port := p, leaseRemaining := lease } } := by
  unfold State.grantClaim
  rw [State.answer_authority, State.postWhere_authority, State.clearForces_authority]
  rfl

/-- The claimant takes its place in the queue, and the demand is its own where it makes one (R108). -/
theorem State.queueClaim_authority (s : State) (p : Port) (k : BitVec 16) (w : WaiterRec)
    (holder : Port) :
    (s.queueClaim p k w holder).authority =
      { s.authority with
        waiters := joinQueue w s.authority.waiters
        demand := s.authority.claimDemand holder p w.urgent } := by
  unfold State.queueClaim Authority.claimDemand
  dsimp only
  rw [State.answer_authority]
  split
  · exact State.post_authority _ _ _
  · exact State.post_authority _ _ _

section Unit

variable {s : State} {ports : Port → Prop} (hseated : s.authority.Seated ports)
  (hdemanded : s.authority.Demanded)

include hseated hdemanded

/-- A CLAIM of a port that may claim (R106 to R108). -/
theorem State.claimTaken_unit {p : Port} (hp : ports p) (pl : List Byte) (k : BitVec 16) :
    (State.claimTaken p pl k s).authority.Seated ports
      ∧ (State.claimTaken p pl k s).authority.Demanded := by
  have hrefused (st : Status) : (s.refuse p k st).authority.Seated ports
      ∧ (s.refuse p k st).authority.Demanded := by
    rw [State.refuse_authority]
    exact ⟨hseated, hdemanded⟩
  unfold State.claimTaken
  split
  · exact hrefused _
  · next lease urgent hread =>
    have hlease := decodeLease_range (decodeClaim_lease hread)
    split
    · next hvacant =>
      split
      · exact hrefused _
      · rw [State.grantClaim_authority]
        exact hseated.granted hdemanded (Option.map_eq_none_iff.mp hvacant) hp hlease
    · next h hheld =>
      obtain ⟨x, hx, rfl⟩ := Option.map_eq_some_iff.mp hheld
      split
      · exact hrefused _
      · next hother =>
        split
        · exact hrefused _
        · next hwaits =>
          have hholder : s.authority.holder ≠ some p := fun c =>
            hother (Option.some.inj (hheld.symm.trans c))
          rw [State.queueClaim_authority]
          exact ⟨(hseated.joined (w := { port := p, lease := lease, urgent := urgent })
              (by rw [hx]; nofun) hp hlease hholder hwaits).of_demand,
            hdemanded.joined hx hseated.grace⟩

/-- A RELEASE of the holder or of a waiter (R109, R110). -/
theorem State.releaseTaken_unit (p : Port) (k : BitVec 16) :
    (State.releaseTaken p k s).authority.Seated ports
      ∧ (State.releaseTaken p k s).authority.Demanded := by
  unfold State.releaseTaken
  split
  · rw [State.answer_authority, State.fillVacancy_authority]
    exact hseated.filled hdemanded fun _ _ => id
  · next hother =>
    split
    · rw [State.answer_authority, State.withdraw_authority]
      exact hseated.withdrawn hdemanded p (fun _ _ _ => id) hother
    · rw [State.refuse_authority]
      exact ⟨hseated, hdemanded⟩

/-- A RENEW of the holder (R111). -/
theorem State.renewTaken_unit (p : Port) (pl : List Byte) (k : BitVec 16) :
    (State.renewTaken p pl k s).authority.Seated ports
      ∧ (State.renewTaken p pl k s).authority.Demanded := by
  unfold State.renewTaken
  split
  · rw [State.refuse_authority]
    exact ⟨hseated, hdemanded⟩
  · next lease hread =>
    split
    · rw [State.refuse_authority]
      exact ⟨hseated, hdemanded⟩
    · next hholder =>
      split
      · rw [State.refuse_authority]
        exact ⟨hseated, hdemanded⟩
      · obtain ⟨x, hx, rfl⟩ := Option.map_eq_some_iff.mp (not_not.mp hholder)
        rw [State.answer_authority]
        exact ⟨hseated.leased (not_not.mp hholder) (decodeLease_range hread), hdemanded.leased hx _⟩

/-- A SET_GRACE (R122). -/
theorem State.graceTaken_unit (p : Port) (pl : List Byte) (k : BitVec 16) :
    (State.graceTaken p pl k s).authority.Seated ports
      ∧ (State.graceTaken p pl k s).authority.Demanded := by
  unfold State.graceTaken
  dsimp only
  split
  · rw [State.refuse_authority]
    exact ⟨hseated, hdemanded⟩
  · next hzero =>
    have hgrace : 1 ≤ (byteAt pl 0).toNat ∧ (byteAt pl 0).toNat ≤ 255 :=
      ⟨Nat.pos_of_ne_zero hzero, Nat.le_of_lt_succ (byteAt pl 0).isLt⟩
    rw [State.answer_authority]
    exact ⟨⟨hseated.holder, hseated.waiters, hseated.distinct, hseated.urgentFirst,
      hseated.vacant, hgrace⟩, hdemanded.vacant, hdemanded.demand⟩

end Unit

/-- A part with the same sessions, outside a full reset, whose authority unit is in order. -/
theorem AuthorityWf.of_unit {s t : State} (hattached : ∀ q, t.attached q = s.attached q)
    (hfree : t.inFullReset = false)
    (hunit : t.authority.Seated (s.attached · = true) ∧ t.authority.Demanded) : AuthorityWf t := by
  obtain ⟨hseated, hdemanded⟩ := hunit
  rw [authorityWf_iff, hfree]
  exact ⟨hseated.of_ports fun q _ => (hattached q).trans, hdemanded, nofun⟩

/-! ### The detach (R125, R182) -/

/-- The authority unit after a detach (R125). -/
theorem State.detach_authority (s : State) (p : Port) :
    (s.detach p).authority =
      if s.holder = some p then s.authority.filled
      else if s.authority.waits p then s.authority.withdrawn p
      else s.authority := by
  unfold State.detach
  rw [State.orphanEntries_authority]
  unfold State.detachAuthority
  change State.authority (if s.holder = some p then _ else if s.authority.waits p then _ else _) = _
  split
  · exact State.fillVacancy_authority _ _ _
  · split
    · exact State.withdraw_authority _ _
    · rfl

/-- A detach closes the session of one port (R182 part 1). -/
theorem State.attached_detach_ne (s : State) {p q : Port} (hq : q ≠ p) :
    (s.detach p).attached q = s.attached q := by
  rw [State.attached, State.detach_ports, Table.get_upd_ne _ hq.symm]
  rfl

/-- The port that detaches leaves its place as holder or waiter, and the others stay attached (R125, R182). -/
theorem AuthorityWf.detach {s : State} (h : AuthorityWf s) (hfree : s.inFullReset = false) (p : Port) :
    AuthorityWf (s.detach p) := by
  obtain ⟨hseated, hdemanded, _⟩ := (authorityWf_iff s).mp h
  have hstays (q : Port) (hq : q ≠ p) : s.attached q = true → (s.detach p).attached q = true :=
    (s.attached_detach_ne hq).trans
  rw [authorityWf_iff, State.detach_inFullReset, hfree, State.detach_authority]
  suffices hunit : _ ∧ _ from ⟨hunit.1, hunit.2, nofun⟩
  split
  · next hholder =>
    refine hseated.filled hdemanded fun q hwaits => hstays q ?_
    rintro rfl
    obtain ⟨w, hw, rfl⟩ := (Authority.waits_iff _ _).mp hwaits
    obtain ⟨_, hne, _⟩ := hseated.waiters w hw
    exact hne hholder
  · next hother =>
    split
    · exact hseated.withdrawn hdemanded p (fun q hq _ => hstays q hq) hother
    · next hnone =>
      refine ⟨hseated.of_ports fun q hq => hstays q ?_, hdemanded⟩
      rintro rfl
      exact hq.elim hother hnone

/-! ### The reference millisecond (R112 to R116) -/

/-- In VACANT nothing is counted (R112). -/
theorem State.countMillisecond_vacant {s : State} (h : s.authority.tenure = none) :
    s.countMillisecond = s := by
  rw [State.countMillisecond, h]

/-- Where neither count reaches 0, lease and grace are counted (R112). -/
theorem State.countMillisecond_counts {s : State} {x : Tenure} (h : s.authority.tenure = some x)
    (hlease : 1 < x.leaseRemaining)
    (hgrace : ∀ d, s.authority.demand = some d → 1 < d.graceRemaining) :
    s.countMillisecond =
      s.mapAuthority fun a =>
        { a with
          tenure := some { port := x.port, leaseRemaining := x.leaseRemaining - 1 }
          demand := a.demand.map fun d => { d with graceRemaining := d.graceRemaining - 1 } } := by
  have hlease' : ¬ x.leaseRemaining ≤ 1 := Nat.not_le.mpr hlease
  unfold State.countMillisecond State.mapAuthority
  rw [h]
  dsimp only
  cases hd : s.authority.demand with
  | none =>
    dsimp only
    rw [if_neg hlease', Option.map_none, ← hd]
  | some d =>
    dsimp only
    rw [if_neg (Nat.not_le.mpr (hgrace d hd)), if_neg hlease']
    rfl

theorem AuthorityWf.millisecond {s : State} (h : AuthorityWf s) (hfree : s.inFullReset = false) :
    AuthorityWf s.millisecond := by
  obtain ⟨hseated, hdemanded, _⟩ := (authorityWf_iff s).mp h
  let due := s.mapTime fun b => { b with msDue := false }
  refine .of_unit (s := s) (State.attached_congr s.millisecond_ports)
    (s.millisecond_inFullReset.trans hfree) ?_
  change due.countMillisecond.authority.Seated _ ∧ due.countMillisecond.authority.Demanded
  cases hx : due.authority.tenure with
  | none =>
    rw [State.countMillisecond_vacant hx]
    exact ⟨hseated, hdemanded⟩
  | some x =>
    by_cases hend : x.leaseRemaining ≤ 1 ∨ due.authority.graceRunsOut = true
    · obtain ⟨hauthority, _⟩ := due.revoke_leaves x.port
        (if due.authority.graceRunsOut = true then .preempted else .leaseExpired)
      rw [State.countMillisecond_revokes hx hend, hauthority]
      exact hseated.filled hdemanded fun _ _ => id
    · rw [not_or, Nat.not_le, Authority.graceRunsOut_iff hx] at hend
      obtain ⟨hlease, hgrace⟩ := hend
      have hrunning (d : Demand) (hd : s.authority.demand = some d) : 1 < d.graceRemaining :=
        Nat.not_le.mp fun c => hgrace ⟨d, hd, c⟩
      obtain ⟨_, _, hhigh⟩ := hseated.holder x hx
      rw [State.countMillisecond_counts hx hlease hrunning]
      exact ⟨(hseated.leased (congrArg (Option.map Tenure.port) hx) ⟨by omega, by omega⟩).of_demand,
        (hdemanded.counted hrunning).leased hx _⟩

/-! ### The resets (R175, R187, R188) -/

theorem AuthorityWf.resetPort {s : State} (h : AuthorityWf s) (p : Port) :
    AuthorityWf (s.resetPort p) := by
  unfold State.resetPort
  split
  · exact h.of_same (.mapPort s p _ fun _ => rfl)
  · next hfree =>
    have hnoted := h.of_same (.noted s)
    refine AuthorityWf.of_same ?_ (.mapPort _ p PortIf.clear fun _ => rfl)
    split
    · exact hnoted.detach (Bool.eq_false_iff.mpr hfree) p
    · exact hnoted

/-- A reset leaves a unit that nobody holds (R124). -/
theorem AuthorityWf.beginReset (s : State) (cause : ResetCause) : AuthorityWf (s.beginReset cause) where
  holder := nofun
  waiters := nofun
  distinct := List.nodup_nil
  urgentFirst := List.Pairwise.nil
  vacant _ := ⟨rfl, rfl⟩
  demand := nofun
  grace := ⟨Nat.le_of_ble_eq_true rfl, Nat.le_of_ble_eq_true rfl⟩
  inReset _ := rfl

/-- The straps are sampled while nobody holds the authority (R100, R188). -/
theorem AuthorityWf.endReset {s : State} (h : AuthorityWf s) (rank1 rank0 : Bool) (levels : InputSet) :
    AuthorityWf (s.endReset rank1 rank0 levels) := by
  unfold State.endReset
  split
  · next hreset =>
    have hvacant := h.inReset hreset
    exact ⟨h.holder, h.waiters, h.distinct, h.urgentFirst, h.vacant,
      fun x hx => (nomatch hvacant.symm.trans hx), h.grace, nofun⟩
  · exact h

/-! ### Every command -/

/-- The block of a request, once it is reached (R104, R172). -/
theorem AuthorityWf.taken {s : State} (h : AuthorityWf s) (hfree : s.inFullReset = false) (k : Kind)
    (p : Port) (pl : List Byte) (ticket : BitVec 16)
    (hattached : (s.attached p || k.takenDetached) = true) : AuthorityWf (k.taken p pl ticket s) := by
  by_cases hk : k ∉ authorityKinds
  · exact h.of_same (k.taken_sameAuthority hk p pl ticket s)
  obtain ⟨hseated, hdemanded, _⟩ := (authorityWf_iff s).mp h
  have hsame (he : k ∉ entryKinds) := (k.taken_sameEntries he p pl ticket s).attached
  cases k with
  | detach =>
    have hcleared := (h.detach hfree p).of_same
      (.mapPort _ p (fun i => { i with lastResponse := none }) fun _ => rfl)
    exact hcleared.of_same (.answer _ _ _ _ _ _)
  | claim =>
    have hp : s.attached p = true := (Bool.or_false _).symm.trans hattached
    obtain ⟨_, _, _, _, _, hreset, _⟩ := s.claimTaken_keeps p pl ticket
    exact .of_unit (hsame (by decide)) (hreset.trans hfree)
      (State.claimTaken_unit hseated hdemanded hp pl ticket)
  | release =>
    obtain ⟨_, _, _, _, _, hreset, _⟩ := s.releaseTaken_keeps p ticket
    exact .of_unit (hsame (by decide)) (hreset.trans hfree)
      (State.releaseTaken_unit hseated hdemanded p ticket)
  | renew =>
    obtain ⟨_, _, _, _, _, _, _, hreset, _⟩ := s.renewTaken_keeps p pl ticket
    exact .of_unit (hsame (by decide)) (hreset.trans hfree)
      (State.renewTaken_unit hseated hdemanded p pl ticket)
  | setGrace =>
    obtain ⟨_, _, _, _, _, _, _, hreset, _⟩ := s.graceTaken_keeps p pl ticket
    exact .of_unit (hsame (by decide)) (hreset.trans hfree)
      (State.graceTaken_unit hseated hdemanded p pl ticket)
  | _ => exact absurd (by decide) hk

theorem AuthorityWf.request {s : State} (h : AuthorityWf s) (k : Kind) (a : Arrival) (tag : Byte)
    (pl : List Byte) : AuthorityWf (s.request k a.port a.lags tag pl (k.block a.port pl)) := by
  refine (s.request_reaches k a.port a.lags tag pl _).elim h.of_same
    fun ⟨hfree, hattached, hreached⟩ => ?_
  let asked := s.takeRequest a.port a.lags tag k.code pl
  have hasked : AuthorityWf asked := h.of_same (.takeRequest s _ _ _ _ _)
  have hblock : AuthorityWf (k.taken a.port pl (s.ports.get a.port).nextTicket asked) := by
    refine hasked.taken hfree k a.port pl _ ?_
    rwa [State.attached_takeRequest]
  rw [hreached]
  unfold Kind.block
  split
  · unfold State.privileged
    split
    · exact hblock
    · exact hasked.of_same (.refuse _ _ _ _)
  · exact hblock

theorem AuthorityWf.event {s : State} (h : AuthorityWf s) (f : State → State)
    (hf : ∀ t, AuthorityWf t → t.inFullReset = false → AuthorityWf (f t)) : AuthorityWf (s.event f) := by
  unfold State.event
  split
  · exact h
  · next hfree => exact hf _ (h.of_same (.noted s)) (Bool.eq_false_iff.mpr hfree)

theorem AuthorityWf.exec {s t : State} (h : AuthorityWf s) (c : Instr) (e : exec c s = .next t) :
    AuthorityWf t := by
  cases c with
  | attach a tag pl => cases e; exact h.request .attach a tag pl
  | detach a tag pl => cases e; exact h.request .detach a tag pl
  | setAttention a tag pl => cases e; exact h.request .setAttention a tag pl
  | queryTime a tag pl => cases e; exact h.request .queryTime a tag pl
  | start a tag pl => cases e; exact h.request .start a tag pl
  | stop a tag pl => cases e; exact h.request .stop a tag pl
  | step a tag pl => cases e; exact h.request .step a tag pl
  | slew a tag pl => cases e; exact h.request .slew a tag pl
  | entryAdd a tag pl => cases e; exact h.request .entryAdd a tag pl
  | entryCancel a tag pl => cases e; exact h.request .entryCancel a tag pl
  | entryHold a tag pl => cases e; exact h.request .entryHold a tag pl
  | entryResume a tag pl => cases e; exact h.request .entryResume a tag pl
  | entryQuery a tag pl => cases e; exact h.request .entryQuery a tag pl
  | nextQuery a tag pl => cases e; exact h.request .nextQuery a tag pl
  | entryList a tag pl => cases e; exact h.request .entryList a tag pl
  | setQuota a tag pl => cases e; exact h.request .setQuota a tag pl
  | purgePort a tag pl => cases e; exact h.request .purgePort a tag pl
  | lineQuery a tag pl => cases e; exact h.request .lineQuery a tag pl
  | setLinePolicy a tag pl => cases e; exact h.request .setLinePolicy a tag pl
  | forceLine a tag pl => cases e; exact h.request .forceLine a tag pl
  | claim a tag pl => cases e; exact h.request .claim a tag pl
  | release a tag pl => cases e; exact h.request .release a tag pl
  | renew a tag pl => cases e; exact h.request .renew a tag pl
  | queryAuthority a tag pl => cases e; exact h.request .queryAuthority a tag pl
  | setGrace a tag pl => cases e; exact h.request .setGrace a tag pl
  | setCapture a tag pl => cases e; exact h.request .setCapture a tag pl
  | subscribe a tag pl => cases e; exact h.request .subscribe a tag pl
  | readCaptures a tag pl => cases e; exact h.request .readCaptures a tag pl
  | fetchNotices a tag pl => cases e; exact h.request .fetchNotices a tag pl
  | ackNotices a tag pl => cases e; exact h.request .ackNotices a tag pl
  | badKind a tag kind pl => exact h.of_same (.badKind a tag kind pl e)
  | poll a clocked =>
    cases e
    refine h.of_same ?_
    split
    · exact .pollNotTaken s _ _ _
    · exact .pollTaken s _ _ _
  | repeatFrame a clocked =>
    cases e
    refine h.of_same ?_
    split
    · exact .pollNotTaken s _ _ _
    · exact .repeatTaken s _ _ _
  | faultyFrame a bytes => exact h.of_same (.faultyFrame a bytes e)
  | portReset p => cases e; exact h.resetPort p
  | portResetRelease p =>
    cases e
    have hends : SameAuthority s (s.frameEnds p) := .of_ports rfl rfl rfl
    exact h.of_same (hends.trans (.mapPort _ p _ fun _ => rfl))
  | fullReset cause => cases e; exact .beginReset s cause
  | fullResetEnd rank1 rank0 levels => cases e; exact h.endReset rank1 rank0 levels
  | referenceMicrosecond => cases e; exact h.event _ fun t ht _ => ht.of_same (.microsecond t)
  | referenceMillisecond => cases e; exact h.event _ fun t ht hfree => ht.millisecond hfree
  | slewDone =>
    cases e
    refine h.event _ fun t ht _ => ?_
    split
    · exact ht.of_same (.microsecond t)
    · exact ht
  | leaseExpiry =>
    cases e
    refine h.event _ fun t ht hfree => ?_
    split
    · exact ht.millisecond hfree
    · exact ht
  | graceExpiry =>
    cases e
    refine h.event _ fun t ht hfree => ?_
    split
    · exact ht.millisecond hfree
    · exact ht
  | captureEdge n edge =>
    cases e
    exact h.event _ fun t ht _ => ht.of_same
      (.of_ports (t.takeEdge_authority n edge) (t.takeEdge_ports n edge) (t.takeEdge_inFullReset n edge))
  | expiry =>
    cases e
    exact h.event _ fun t ht _ => ht.of_same
      (.of_ports t.takeExpiry_authority t.takeExpiry_ports t.takeExpiry_inFullReset)
  | pulseEnd l =>
    cases e
    refine h.event _ fun t ht _ => ht.of_same ?_
    split
    · exact .of_ports rfl rfl rfl
    · exact .refl t
  | passComplete => cases e; exact h.event _ fun t ht _ => ht.of_same (.completePass t)

/-- Settles O56: every command keeps holder, waiters and demand as they must be, and so do the events that the
part takes on an empty queue. -/
theorem stepsKeepTheAuthority : Obligations.StepsKeepTheAuthority := by
  unfold Obligations.StepsKeepTheAuthority
  intro s t h e
  unfold step at e
  split at e
  · next c rest _ =>
    have htaken : SameAuthority s { s with pending := rest } := .of_ports rfl rfl rfl
    exact (h.of_same htaken).exec c e
  · split at e
    · exact h.exec _ e
    · cases e
      unfold State.refclkPeriod
      split
      · exact h
      · exact h.of_same (.of_ports rfl rfl rfl)

end Sys2Proof.Machine

/-! PROOFS. The checks that go before every check of a block: NOT_AUTHORITY and RETRY (R71, R104). -/

namespace Sys2Proof.Machine

/-- A privileged request of a port that is not the holder never reaches what its kind does (R104). -/
theorem Kind.block_notAuthority {k : Kind} (hk : k ∈ privilegedKinds) {t : State} {p : Port}
    (hother : t.holder ≠ some p) (pl : List Byte) (ticket : BitVec 16) :
    k.block p pl ticket t = t.refuse p ticket .notAuthority := by
  rw [Kind.block, if_pos hk, State.privileged_other t p ticket _ hother]

/-- During a pass the block of each such kind answers RETRY before it looks at the payload (R71). -/
theorem taken_retry (t : State) (p : Port) (pl : List Byte) (ticket : BitVec 16) (k : Kind)
    (hk : k ∈ retryKinds) (hpass : t.schedule.pass.isSome = true) :
    k.taken p pl ticket t = t.refuse p ticket .retry := by
  cases k with
  | entryAdd | nextQuery | entryList | purgePort => exact if_pos hpass
  | entryCancel | entryHold | entryResume => exact if_pos (c := t.schedule.pass.isSome = true) hpass
  | _ => exact absurd hk (by decide)

/-- Settles O10: the authority check and the check of the pass each answer before the request's own checks. -/
theorem authorityAndRetryChecks : Obligations.AuthorityAndRetryChecks := by
  unfold Obligations.AuthorityAndRetryChecks
  intro p lags tag k pl s hready hattached hlen
  refine ⟨fun hk hother => ?_, fun hadm hk hpass => ?_⟩
  · rw [exec_requestCommand, State.request_block s k p lags tag pl _ hready hlen (.inl hattached),
      Kind.block_notAuthority (t := s.takeRequest p lags tag k.code pl) hk hother,
      State.refuse_takeRequest]
  · rw [exec_admitted s p lags tag k pl hready hadm hlen,
      taken_retry (s.takeRequest p lags tag k.code pl) p pl _ k hk hpass, State.refuse_takeRequest]

end Sys2Proof.Machine

/-! PROOFS. RENEW and SET_GRACE, and the counts of a reference millisecond (R111, R112, R122). -/

namespace Sys2Proof.Machine

/-! ### RENEW and SET_GRACE (R111, R122) -/

/-- A lease is read back from its two bytes, whatever follows them (R191, R193). -/
theorem decodeLease_leBytes {lease : Nat} (hlow : 1 ≤ lease) (hhigh : lease ≤ 65535)
    (rest : List Byte) : decodeLease (leBytes 2 lease ++ rest) = some lease := by
  have hread : natAt (leBytes 2 lease ++ rest) 0 2 = lease := leNat_leBytes (k := 2) (by omega)
  rw [decodeLease, hread, if_neg (by omega)]

/-- The authority unit is in HELD while its holder has no demand (R102). -/
theorem Authority.state_held_iff {a : Authority} {p : Port} (h : a.holder = some p) :
    a.state = .held ↔ a.demand = none := by
  obtain ⟨x, hx, _⟩ := Option.map_eq_some_iff.mp h
  rw [Authority.state, hx]
  cases a.demand <;> simp

section Renew

variable {t : State} {p : Port} {pl : List Byte} {lease : Nat} (k : BitVec 16)
  (hread : decodeLease pl = some lease)

include hread

theorem State.renewTaken_notHolder (h : t.holder ≠ some p) :
    State.renewTaken p pl k t = t.refuse p k .notHolder := by
  rw [State.renewTaken, hread]
  exact if_pos h

theorem State.renewTaken_yieldPending (h : t.holder = some p) (hdemand : t.authority.demand ≠ none) :
    State.renewTaken p pl k t = t.refuse p k .yieldPending := by
  have hstate : t.authority.state ≠ .held := mt (Authority.state_held_iff h).mp hdemand
  rw [State.renewTaken, hread]
  exact (if_neg (not_not.mpr h)).trans (if_pos hstate)

theorem State.renewTaken_held (h : t.holder = some p) (hdemand : t.authority.demand = none) :
    State.renewTaken p pl k t =
      (t.mapAuthority fun a =>
        { a with tenure := some { port := p, leaseRemaining := lease } }).answer p k .ok
          (leBytes 2 lease) := by
  have hstate : t.authority.state = .held := (Authority.state_held_iff h).mpr hdemand
  rw [State.renewTaken, hread]
  exact (if_neg (not_not.mpr h)).trans (if_neg (not_not.mpr hstate))

end Renew

/-- Settles O47: the checks of RENEW in their order, and the grace that SET_GRACE sets. -/
theorem renewAndSetGrace : Obligations.RenewAndSetGrace := by
  unfold Obligations.RenewAndSetGrace
  intro p lags tag lease grace s hready hattached hlow hhigh hgraceLow hgraceHigh renew
  have hread : decodeLease (leBytes 2 lease) = some lease := decodeLease_leBytes hlow hhigh []
  have hlen : (leBytes 2 lease).length = 2 := length_leBytes 2 lease
  let asked := s.takeRequest p lags tag 0x52 (leBytes 2 lease)
  have hrenew : exec renew s =
      .next (State.renewTaken p (leBytes 2 lease) (s.ports.get p).nextTicket asked) :=
    exec_admitted s p lags tag .renew _ hready ⟨hattached, fun c => absurd c (by decide)⟩ rfl
  refine ⟨fun hother => ?_, fun hholder hdemand => ?_, fun hholder hdemand => ?_, fun hholder => ?_⟩
  · rw [hrenew, State.renewTaken_notHolder (t := asked) _ hread hother, State.refuse_takeRequest, hlen]
  · rw [hrenew, State.renewTaken_yieldPending (t := asked) _ hread hholder hdemand,
      State.refuse_takeRequest, hlen]
  · rw [hrenew, State.renewTaken_held (t := asked) _ hread hholder hdemand,
      State.answer_asked s _ p lags tag 0x52 2 .ok _ rfl (.inl rfl)]
    rfl
  · have hgrace : (byteAt [natByte grace] 0).toNat = grace := toNat_natByte (by omega)
    have hexec := exec_admitted s p lags tag .setGrace [natByte grace] hready
      ⟨hattached, fun _ => hholder⟩ rfl
    refine hexec.trans (congrArg Host.Outcome.next ?_)
    change State.graceTaken p [natByte grace] _ _ = _
    rw [State.graceTaken, hgrace]
    exact (if_neg (by omega)).trans
      (State.answer_asked s _ p lags tag 0x54 1 .ok _ rfl (.inl rfl) none)

/-! ### The reference millisecond (R112) -/

/-- A reference millisecond outside a full reset: it is no longer due, and the counts run (R112). -/
theorem exec_referenceMillisecond {s : State} (hr : s.inFullReset = false) :
    exec .referenceMillisecond s = .next s.noted.millisecond :=
  congrArg _ (s.event_taken State.millisecond hr)

/-- Where every lease that runs has more than 1 left, none runs out (R113). -/
theorem Authority.leaseRunsOut_false {a : Authority}
    (h : ∀ x, a.tenure = some x → 1 < x.leaseRemaining) : a.leaseRunsOut = false := by
  unfold Authority.leaseRunsOut
  split
  · next x hx => exact decide_eq_false (Nat.not_le.mpr (h x hx))
  · rfl

/-- Where every grace that runs has more than 1 left, none runs out (R114). -/
theorem Authority.graceRunsOut_false {a : Authority}
    (h : ∀ d, a.demand = some d → 1 < d.graceRemaining) : a.graceRunsOut = false := by
  unfold Authority.graceRunsOut
  split
  · next d _ hd => exact decide_eq_false (Nat.not_le.mpr (h d hd))
  · rfl

/-- Settles O48: the counts of VACANT, HELD and YIELDING, and the milliseconds that are no expiry. -/
theorem millisecondCounts : Obligations.MillisecondCounts := by
  unfold Obligations.MillisecondCounts
  intro s hr timebase
  let due := s.noted.mapTime fun b => { b with msDue := false }
  have hnoEvent {b : Bool} (hb : b = false) :
      (if b = true then s.noted.millisecond else s.noted) = s.noted := if_neg (by rw [hb]; nofun)
  rw [exec_referenceMillisecond hr]
  refine ⟨fun hvacant => congrArg _ (State.countMillisecond_vacant (s := due) hvacant),
    fun x hx hdemand hlease => ?_, fun x hx d hd hlease hgrace => ?_, fun hnot => ?_, fun hnot => ?_⟩
  · refine congrArg _ ((State.countMillisecond_counts (s := due) hx hlease fun d hd => ?_).trans ?_)
    · exact nomatch hdemand.symm.trans hd
    · simp only [due, State.mapAuthority, State.mapTime_authority, State.noted_authority, hdemand,
        Option.map_none]
      rfl
  · refine congrArg _ ((State.countMillisecond_counts (s := due) hx hlease fun e he => ?_).trans ?_)
    · cases hd.symm.trans he
      exact hgrace
    · simp only [due, State.mapAuthority, State.mapTime_authority, State.noted_authority, hd,
        Option.map_some]
      rfl
  · refine congrArg _ ((s.event_taken _ hr).trans (hnoEvent ?_))
    exact Bool.and_eq_false_iff.mpr (hnot.imp_right Authority.leaseRunsOut_false)
  · refine congrArg _ ((s.event_taken _ hr).trans (hnoEvent ?_))
    exact Bool.and_eq_false_iff.mpr (hnot.imp_right Authority.graceRunsOut_false)

end Sys2Proof.Machine

/-! PROOFS. CLAIM: the rank order, the place in the queue, and what is told (R100, R101, R103, R106 to R108). -/

namespace Sys2Proof.Machine

/-! ### Ranks and places (R100, R101, R103) -/

/-- A port outranks another exactly when it stands before it in the rank order (R101): four settings of the
straps, nine pairs of ports each. -/
theorem Rank.outranks_iff_sublist (r : Rank) (x y : Port) :
    r.outranks x y = true ↔ List.Sublist [x, y] r.order := by
  obtain ⟨rank1, rank0⟩ := r
  revert rank1 rank0 x y
  decide

/-- A search for a port finds it behind records of other ports. -/
theorem findIdx_port_append {p : Port} {front : List WaiterRec} (h : ∀ w ∈ front, w.port ≠ p)
    {w : WaiterRec} (hw : w.port = p) (back : List WaiterRec) :
    (front ++ w :: back).findIdx (fun x => x.port = p) = front.length := by
  induction front with
  | nil => rw [List.nil_append, List.findIdx_cons, decide_eq_true hw]; rfl
  | cons x xs ih =>
    obtain ⟨hx, hxs⟩ := List.forall_mem_cons.mp h
    rw [List.cons_append, List.findIdx_cons, decide_eq_false hx, ih hxs]
    rfl

/-- How many stand before a waiter that joins a queue (R103). -/
def queuePlace (urgent : Bool) (ws : List WaiterRec) : Nat :=
  if urgent then (ws.takeWhile WaiterRec.urgent).length + 1 else ws.length + 1

/-- A port that joins a queue in which it does not wait yet is found in the place that R103 gives. -/
theorem joinQueue_place {w : WaiterRec} {ws : List WaiterRec} (h : ∀ x ∈ ws, x.port ≠ w.port) :
    (joinQueue w ws).findIdx (fun x => x.port = w.port) + 1 = queuePlace w.urgent ws := by
  cases hu : w.urgent with
  | false =>
    rw [joinQueue_plain w ws hu, findIdx_port_append h rfl]
    rfl
  | true =>
    have hfront : ∀ x ∈ ws.takeWhile WaiterRec.urgent, x.port ≠ w.port := fun x hx =>
      h x (List.takeWhile_subset _ hx)
    rw [joinQueue_urgent w ws hu, findIdx_port_append hfront rfl]
    rfl

/-! ### The claim that is granted (R107) -/

/-- The part once a claimant has been granted the authority, and before it is answered (R107). -/
def State.claimGranted (s : State) (p : Port) (lease : Nat) : State :=
  ((s.mapAuthority fun a =>
    { a with tenure := some { port := p, leaseRemaining := lease } }).clearForces).postWhere
      (fun q => q ≠ p) (.authorityChanged (some p) .claim)

theorem State.grantClaim_eq (s : State) (p : Port) (k : BitVec 16) (lease : Nat) :
    s.grantClaim p k lease =
      (s.claimGranted p lease).answer p k .granted (leBytes 2 lease ++ [s.authority.rank.code]) := rfl

theorem State.claimGranted_frame (s : State) (p : Port) (lease : Nat) :
    s.claimGranted p lease =
      { s with
        authority := { s.authority with tenure := some { port := p, leaseRemaining := lease } }
        lines := (s.claimGranted p lease).lines
        notices := (s.claimGranted p lease).notices } := by
  rw [State.claimGranted, State.postWhere_frame]
  rfl

/-- Every force is cleared at the grant (R95). -/
theorem State.claimGranted_unforced (s : State) (p : Port) (lease : Nat) :
    Unforced s (s.claimGranted p lease) := fun l => by
  rw [State.claimGranted, State.postWhere_lines, State.clearForces_line]
  rfl

/-- The other ports are told of the new holder (R107). -/
theorem State.claimGranted_told (s : State) (p : Port) (lease : Nat) :
    Told s (s.claimGranted p lease) fun q =>
      if q = p then [] else [.authorityChanged (some p) .claim] := by
  have hpost := (Told.none (s := s) (t := (s.mapAuthority fun a =>
    { a with tenure := some { port := p, leaseRemaining := lease } }).clearForces) rfl).postWhere
      (fun q => q ≠ p) (.authorityChanged (some p) .claim) fun _ => rfl
  refine hpost.congr fun q _ => ?_
  by_cases hq : q = p <;> simp [hq]

/-! ### The claim that is queued (R108) -/

/-- What the holder is told of a claimant: YIELD_DEMANDED where a demand is made, AUTHORITY_WANTED otherwise
(R108). -/
def Authority.claimNews (a : Authority) (holder p : Port) (urgent : Bool) : NoticeBody :=
  if a.demandsOf holder p urgent then .yieldDemanded p a.graceSetting
  else .authorityWanted p urgent (a.waiters.length + 1)

/-- The part once a claimant has joined the queue, and before it is answered (R108). -/
def State.claimQueued (s : State) (w : WaiterRec) (holder : Port) : State :=
  (s.mapAuthority fun a =>
    { a with
      waiters := joinQueue w a.waiters
      demand := a.claimDemand holder w.port w.urgent }).post holder
        (s.authority.claimNews holder w.port w.urgent)

theorem State.queueClaim_eq (s : State) (k : BitVec 16) (w : WaiterRec) (holder : Port) :
    s.queueClaim w.port k w holder =
      (s.claimQueued w holder).answer w.port k .queued
        [natByte ((joinQueue w s.authority.waiters).findIdx (fun x => x.port = w.port) + 1),
          boolByte (s.authority.demandsOf holder w.port w.urgent), portByte (some holder),
          s.authority.rank.code] := by
  have hlength := (joinQueue_perm w s.authority.waiters).length_eq
  unfold State.queueClaim State.claimQueued Authority.claimNews State.mapAuthority
    Authority.claimDemand
  dsimp only
  rw [hlength, List.length_cons]
  split <;> rfl

theorem State.claimQueued_frame (s : State) (w : WaiterRec) (holder : Port) :
    s.claimQueued w holder =
      { s with
        authority :=
          { s.authority with
            waiters := joinQueue w s.authority.waiters
            demand := s.authority.claimDemand holder w.port w.urgent }
        notices := (s.claimQueued w holder).notices } := by
  rw [State.claimQueued, State.post_frame]
  rfl

theorem State.claimQueued_told (s : State) (w : WaiterRec) (holder : Port) :
    Told s (s.claimQueued w holder) fun q =>
      if q ≠ holder then [] else [s.authority.claimNews holder w.port w.urgent] := by
  have hpost := (Told.none (s := s) (t := s.mapAuthority fun a =>
    { a with
      waiters := joinQueue w a.waiters
      demand := a.claimDemand holder w.port w.urgent }) rfl).post holder
        (s.authority.claimNews holder w.port w.urgent) fun _ => rfl
  refine hpost.congr fun q _ => ?_
  by_cases hq : holder = q
  · rw [if_pos hq, if_neg (not_not.mpr hq.symm)]
    rfl
  · rw [if_neg hq, if_pos (Ne.symm hq)]

/-! ### The four ways of a CLAIM (R106 to R108) -/

/-- Lease and urgency are read back from the payload of a CLAIM (R193). -/
theorem decodeClaim_bytes {lease : Nat} (hlow : 1 ≤ lease) (hhigh : lease ≤ 65535) (urgent : Bool) :
    decodeClaim (leBytes 2 lease ++ [boolByte urgent]) = some (lease, urgent) := by
  have hurgent : boolOfByte (byteAt (leBytes 2 lease ++ [boolByte urgent]) 2) = some urgent :=
    boolOfByte_boolByte urgent
  rw [decodeClaim, decodeLease_leBytes hlow hhigh, hurgent]
  rfl

section Claim

variable {t : State} {p : Port} {pl : List Byte} {lease : Nat} {urgent : Bool} (k : BitVec 16)
  (hread : decodeClaim pl = some (lease, urgent))

include hread

theorem State.claimTaken_granted (hvacant : t.holder = none) (hwaits : ¬ t.authority.waits p = true) :
    State.claimTaken p pl k t = t.grantClaim p k lease := by
  rw [State.claimTaken, hread, hvacant]
  exact if_neg hwaits

theorem State.claimTaken_alreadyHolder (hholder : t.holder = some p) :
    State.claimTaken p pl k t = t.refuse p k .alreadyHolder := by
  rw [State.claimTaken, hread, hholder]
  exact if_pos rfl

theorem State.claimTaken_alreadyWaiting (hother : t.holder ≠ some p)
    (hwaits : t.authority.waits p = true) :
    State.claimTaken p pl k t = t.refuse p k .alreadyWaiting := by
  rw [State.claimTaken, hread]
  cases hholder : t.holder with
  | none => exact if_pos hwaits
  | some h =>
    have hne : h ≠ p := fun e => hother (e ▸ hholder)
    exact (if_neg hne).trans (if_pos hwaits)

theorem State.claimTaken_queued {h : Port} (hholder : t.holder = some h) (hother : h ≠ p)
    (hwaits : ¬ t.authority.waits p = true) :
    State.claimTaken p pl k t =
      t.queueClaim p k { port := p, lease := lease, urgent := urgent } h := by
  rw [State.claimTaken, hread, hholder]
  exact (if_neg hother).trans (if_neg hwaits)

end Claim

theorem exec_claim {s : State} {p : Port} (lags : List Nat) (tag : Byte) (lease : Nat)
    (urgent : Bool) (hready : Ready s p) (hattached : s.attached p = true) :
    exec (.claim ⟨p, lags⟩ tag (leBytes 2 lease ++ [boolByte urgent])) s =
      .next (State.claimTaken p (leBytes 2 lease ++ [boolByte urgent]) (s.ports.get p).nextTicket
        (s.takeRequest p lags tag 0x50 (leBytes 2 lease ++ [boolByte urgent]))) :=
  exec_admitted s p lags tag .claim _ hready ⟨hattached, fun e => absurd e (by decide)⟩ rfl

/-- Settles O45: the rank order by its four tables, and the four ways of a CLAIM. -/
theorem claimTaken : Obligations.ClaimTaken := by
  unfold Obligations.ClaimTaken
  refine ⟨Rank.outranks_iff_sublist, ?_⟩
  intro p lags tag lease urgent s hready hattached hlow hhigh a c waits queue place
  have hread := decodeClaim_bytes hlow hhigh urgent
  have hwaitsIff : a.waits p = true ↔ waits := a.waits_iff p
  let pl := leBytes 2 lease ++ [boolByte urgent]
  let asked := s.takeRequest p lags tag 0x50 pl
  have hsame (q : Port) : asked.attached q = s.attached q := s.attached_takeRequest p q _ _ _ _
  rw [exec_claim lags tag lease urgent hready hattached]
  refine ⟨fun hvacant hnot => ?_, fun hholder => ?_, fun hother hwaits => ?_,
    fun h hholder hother hnot => ?_⟩
  · have hports : (asked.claimGranted p lease).ports =
        s.ports.set p (askedPort s p lags tag 0x50 3) := by
      rw [State.claimGranted_frame]
      rfl
    rw [State.claimTaken_granted (t := asked) _ hread hvacant (mt hwaitsIff.mp hnot),
      State.grantClaim_eq, State.answer_asked s _ p lags tag 0x50 3 .granted _ hports (.inl rfl)]
    refine ⟨_, rfl, ?_, asked.claimGranted_unforced p lease,
      ((asked.claimGranted_told p lease).of_start (s := s) rfl hsame).same rfl rfl rfl⟩
    rw [State.claimGranted_frame]
    rfl
  · rw [State.claimTaken_alreadyHolder (t := asked) _ hread hholder, State.refuse_takeRequest]
    rfl
  · rw [State.claimTaken_alreadyWaiting (t := asked) _ hread hother (hwaitsIff.mpr hwaits),
      State.refuse_takeRequest]
    rfl
  · let w : WaiterRec := { port := p, lease := lease, urgent := urgent }
    have hqueue : joinQueue w a.waiters = queue := by
      cases urgent with
      | false => exact joinQueue_plain w _ rfl
      | true => exact joinQueue_urgent w _ rfl
    have hplace : (joinQueue w a.waiters).findIdx (fun x => x.port = p) + 1 = place :=
      joinQueue_place (w := w) fun x hx e => hnot ⟨x, hx, e⟩
    have hports : (asked.claimQueued w h).ports = s.ports.set p (askedPort s p lags tag 0x50 3) := by
      rw [State.claimQueued_frame]
      rfl
    intro demands
    rw [State.claimTaken_queued (t := asked) _ hread hholder hother (mt hwaitsIff.mp hnot),
      State.queueClaim_eq asked _ w h,
      State.answer_asked s _ p lags tag 0x50 3 .queued _ hports (.inl rfl)]
    refine ⟨_, rfl, ?_, ?_⟩
    · rw [← hqueue, ← hplace, State.claimQueued_frame]
      rfl
    · refine (((asked.claimQueued_told w h).of_start (s := s) rfl hsame).same rfl rfl rfl).congr
        fun q _ => ?_
      split
      · rfl
      · exact apply_ite (fun b : NoticeBody => [b]) _ _ _

end Sys2Proof.Machine

/-! PROOFS. What leaving reader sets does to the capture log, and SET_CAPTURE, SUBSCRIBE and READ_CAPTURES (R127, R135, R136, R138, R139). -/

namespace Sys2Proof.Machine

/-! ### Leaving reader sets (R135, R136, R139) -/

/-- A record that is still in the log after a port has left reader sets: the record of before, with no reader
more, and without that port where it has left (R135). -/
theorem Capture.mem_leave {c : Capture} {p : Port} {test : CaptureRecord → Bool} {x : CaptureRecord}
    (h : x ∈ (c.leave p test).log) :
    ∃ r ∈ c.log, x.input = r.input ∧ (r.readers ≠ 0 → x.readers ≠ 0)
      ∧ ∀ q, hasBit x.readers q = true → hasBit r.readers q = true ∧ (q = p → test r = false) := by
  obtain ⟨r, hr, hx⟩ := List.mem_filterMap.mp h
  refine ⟨r, hr, ?_⟩
  split at hx
  · obtain ⟨hleft, rfl⟩ := (CaptureRecord.readBy_some p r x).mp hx
    refine ⟨rfl, fun _ => hleft, fun q hq => ?_⟩
    rw [hasBit_dropBit, Bool.and_eq_true, decide_eq_true_iff] at hq
    exact ⟨hq.1, fun e => absurd e.symm hq.2⟩
  · next hstays =>
    cases hx
    refine ⟨rfl, id, fun q hq => ⟨hq, ?_⟩⟩
    rintro rfl
    rwa [hq, Bool.true_and, Bool.not_eq_true] at hstays

/-- No record is added, and none changes its place or its number (R135). -/
theorem Capture.leave_seqs (c : Capture) (p : Port) (test : CaptureRecord → Bool) :
    ((c.leave p test).log.map CaptureRecord.seq).Sublist (c.log.map CaptureRecord.seq) := by
  unfold Capture.leave
  dsimp only
  induction c.log with
  | nil => exact .refl _
  | cons r rs ih =>
    rw [List.filterMap_cons]
    split
    · exact ih.cons _
    · next x hx =>
      have hseq : x.seq = r.seq := by
        split at hx
        · obtain ⟨_, rfl⟩ := (CaptureRecord.readBy_some p r x).mp hx
          rfl
        · cases hx
          rfl
      rw [List.map_cons, List.map_cons, hseq]
      exact ih.cons_cons _

/-- In a log without repetitions a read takes the port out of the reader sets of the oldest records owed to
it, and leaves every other record (R139). -/
theorem consume_eq_filterMap (p : Port) (max : Nat) {rs : List CaptureRecord} (h : rs.Nodup) :
    consume p max rs =
      rs.filterMap fun r =>
        if r ∈ (rs.filter fun x => hasBit x.readers p).take max then r.readBy p else some r := by
  induction rs generalizing max with
  | nil => cases max <;> rfl
  | cons r rs ih =>
    obtain ⟨hfresh, hrest⟩ := List.nodup_cons.mp h
    cases max with
    | zero => simp only [consume, List.take_zero, List.not_mem_nil, if_false, List.filterMap_some]
    | succ n =>
      by_cases howed : hasBit r.readers p = true
      · have hothers : rs.filterMap (fun x =>
              if x ∈ r :: (rs.filter fun x => hasBit x.readers p).take n then x.readBy p else some x) =
            consume p n rs := by
          rw [ih n hrest]
          refine List.filterMap_congr fun x hx => if_congr ?_ rfl rfl
          exact List.mem_cons.trans (or_iff_right fun e => hfresh (e ▸ hx))
        rw [consume, if_pos howed, List.filter_cons, if_pos howed, List.take_succ_cons,
          List.filterMap_cons, if_pos List.mem_cons_self, hothers]
        cases r.readBy p <;> rfl
      · have hkept : r ∉ (rs.filter fun x => hasBit x.readers p).take (n + 1) := fun c =>
          hfresh (List.mem_of_mem_filter (List.mem_of_mem_take c))
        rw [consume, if_neg howed, List.filter_cons, if_neg howed, List.filterMap_cons,
          if_neg hkept, ih (n + 1) hrest]

/-- A read is a leaving of the reader sets of the oldest records owed (R139). -/
theorem Capture.consume_eq_leave (c : Capture) (p : Port) (max : Nat) (h : c.log.Nodup) :
    consume p max c.log = (c.leave p fun r => decide (r ∈ c.oldestOwed p max)).log := by
  rw [consume_eq_filterMap p max h]
  refine List.filterMap_congr fun r _ => if_congr ?_ rfl rfl
  rw [Bool.and_eq_true, decide_eq_true_iff]
  refine (and_iff_right_of_imp fun hr => ?_).symm
  exact (List.mem_filter.mp (List.mem_of_mem_take hr)).2

/-- What a read leaves owed to the port (R139). -/
theorem countP_consume (p : Port) (max : Nat) (rs : List CaptureRecord) :
    (consume p max rs).countP (fun r => hasBit r.readers p) =
      rs.countP (fun r => hasBit r.readers p) - max := by
  induction rs generalizing max with
  | nil => cases max <;> simp [consume]
  | cons r rs ih =>
    cases max with
    | zero => rfl
    | succ n =>
      by_cases howed : hasBit r.readers p = true
      · have hread : (r.readBy p).toList.countP (fun r => hasBit r.readers p) = 0 := by
          refine List.countP_eq_zero.mpr fun x hx => ?_
          obtain ⟨_, rfl⟩ := (CaptureRecord.readBy_some p r x).mp (Option.mem_toList.mp hx)
          simp [hasBit_dropBit]
        rw [consume, if_pos howed, List.countP_append, hread, ih n, List.countP_cons, if_pos howed]
        omega
      · rw [consume, if_neg howed, List.countP_cons, List.countP_cons, if_neg howed]
        exact ih (n + 1)

/-! ### Payloads read back (R127, R136, R138, R193) -/

theorem EdgeSetting.ofByte_code (e : EdgeSetting) : EdgeSetting.ofByte e.code = some e := by
  cases e <;> rfl

theorem decodeCapture_bytes (n : InputIx) (edge : EdgeSetting) {holdoff : Nat}
    (h : holdoff ≤ 65535) :
    decodeCapture ([natByte n.val, edge.code] ++ leBytes 2 holdoff) =
      some { input := n, edge := edge, holdoff := holdoff } := by
  have hholdoff : natAt ([natByte n.val, edge.code] ++ leBytes 2 holdoff) 2 2 = holdoff :=
    leNat_leBytes (k := 2) (by omega)
  rw [decodeCapture, hholdoff]
  unfold byteAt
  simp only [List.cons_append, List.getD_cons_zero, List.getD_cons_succ,
    finOfByte_natByte (by decide : 4 ≤ 256), EdgeSetting.ofByte_code]
  rfl

/-- A set of inputs is read back from its byte (R191). -/
theorem setOfByte_setByte_inputs (m : InputSet) : setOfByte 4 (setByte m) = some m := by
  have hnat : (setByte m).toNat = m.toNat := BitVec.toNat_setWidth_of_le (by decide)
  have hback : (setByte m).setWidth 4 = m := BitVec.setWidth_setWidth_of_le _ (by decide)
  rw [setOfByte, if_pos (hnat.trans_lt m.isLt), hback]

theorem decodeMax_natByte {max : Nat} (hlow : 1 ≤ max) (hhigh : max ≤ 4) :
    decodeMax [natByte max] = some max := by
  have hread : (byteAt [natByte max] 0).toNat = max := toNat_natByte (by omega)
  rw [decodeMax, hread, if_pos ⟨hlow, hhigh⟩]

/-! ### SET_CAPTURE and SUBSCRIBE (R127, R136) -/

/-- The log after a SUBSCRIBE, in the words of R136. -/
theorem Capture.resubscribe_log (c : Capture) (p : Port) (new : InputSet) :
    (c.resubscribe p new).log =
      c.log.filterMap fun r =>
        if r.readers.getLsbD p && (c.subscriptions.get p).getLsbD r.input
            && !new.getLsbD r.input then unread p r
        else some r := by
  refine List.filterMap_congr fun r _ => if_congr ?_ rfl rfl
  rw [Bool.and_assoc]
  rfl

theorem State.setCaptureTaken_set (t : State) (p : Port) (n : InputIx) (edge : EdgeSetting)
    {holdoff : Nat} (h : holdoff ≤ 65535) (k : BitVec 16) :
    State.setCaptureTaken p ([natByte n.val, edge.code] ++ leBytes 2 holdoff) k t =
      (t.mapCapture fun c =>
        { c with
          inputs := c.inputs.upd n fun x => { x with edge := edge, holdoff := holdoff } }).answer p k
        .ok ((t.capture.inputs.get n).edge.code :: leBytes 2 (t.capture.inputs.get n).holdoff) := by
  rw [State.setCaptureTaken, decodeCapture_bytes n edge h]
  rfl

theorem State.subscribeTaken_set (t : State) (p : Port) (new : InputSet) (k : BitVec 16) :
    State.subscribeTaken p [setByte new] k t =
      (t.mapCapture fun _ => t.capture.resubscribe p new).answer p k .ok
        [setByte (t.capture.subscriptions.get p), setByte new,
          natByte ((t.capture.resubscribe p new).owed p)] := by
  have hread : setOfByte 4 (byteAt [setByte new] 0) = some new := setOfByte_setByte_inputs new
  rw [State.subscribeTaken, hread]

/-- Settles O51: the fields are read back, the input is set, and the port leaves the reader sets of the inputs
that it drops. -/
theorem setCaptureAndSubscribe : Obligations.SetCaptureAndSubscribe := by
  unfold Obligations.SetCaptureAndSubscribe
  intro p lags tag n edge holdoff set s hready hattached hmost x old log
  have hlog : (s.capture.resubscribe p set).log = log := s.capture.resubscribe_log p set
  refine ⟨fun hholder => ?_, ?_⟩
  · have hexec := exec_admitted s p lags tag .setCapture
      ([natByte n.val, edge.code] ++ leBytes 2 holdoff) hready ⟨hattached, fun _ => hholder⟩ rfl
    refine hexec.trans (congrArg Host.Outcome.next ?_)
    exact (State.setCaptureTaken_set _ p n edge hmost _).trans
      (State.answer_asked s _ p lags tag 0x60 4 .ok _ rfl (.inl rfl) none)
  · have hexec := exec_admitted s p lags tag .subscribe [setByte set] hready
      ⟨hattached, fun c => absurd c (by decide)⟩ rfl
    refine hexec.trans (congrArg Host.Outcome.next ?_)
    rw [← hlog]
    exact (State.subscribeTaken_set _ p set _).trans
      (State.answer_asked s _ p lags tag 0x61 1 .ok _ rfl (.inl rfl) none)

/-! ### READ_CAPTURES (R138, R139, R194) -/

theorem State.readTaken_read (t : State) (p : Port) {max : Nat} (hlow : 1 ≤ max) (hhigh : max ≤ 4)
    (k : BitVec 16) :
    State.readTaken p [natByte max] k t =
      (t.mapCapture fun c => { c with log := consume p max c.log }).answer p k .ok
        ([natByte (t.capture.oldestOwed p max).length,
            natByte ((consume p max t.capture.log).countP fun r => hasBit r.readers p)]
          ++ (t.capture.oldestOwed p max).flatMap captureBytes) := by
  rw [State.readTaken, decodeMax_natByte hlow hhigh]
  rfl

/-- Settles O52: the oldest records owed are answered, and the port leaves their reader sets. -/
theorem readCapturesConsumes : Obligations.ReadCapturesConsumes := by
  unfold Obligations.ReadCapturesConsumes
  intro p lags tag max s hready hattached hlow hhigh hwf owed taken record
  have hlog : consume p max s.capture.log =
      s.capture.log.filterMap fun r => if r ∈ taken then unread p r else some r :=
    consume_eq_filterMap p max (hwf.distinct.of_map _)
  have hleft : (consume p max s.capture.log).countP (fun r => hasBit r.readers p) =
      owed.length - taken.length := by
    rw [countP_consume, List.countP_eq_length_filter, List.length_take]
    change owed.length - max = owed.length - min max owed.length
    omega
  have hrecord : captureBytes = record := by
    funext r
    unfold captureBytes record
    cases r.edge <;> rfl
  have hexec := exec_admitted s p lags tag .readCaptures [natByte max] hready
    ⟨hattached, fun c => absurd c (by decide)⟩ rfl
  refine hexec.trans (congrArg Host.Outcome.next ?_)
  rw [← hlog, ← hleft, ← hrecord]
  exact (State.readTaken_read _ p hlow hhigh _).trans
    (State.answer_asked s _ p lags tag 0x62 1 .ok _ rfl (.inl rfl) none)

end Sys2Proof.Machine

/-! PROOFS. Every step keeps the capture log as R135 says. -/

namespace Sys2Proof.Machine

/-! ### What keeps the log in order -/

/-- The counts of an input lie in their ranges (06, head). -/
def CaptureInput.Wf (x : CaptureInput) : Prop :=
  x.holdoff ≤ 65535 ∧ ∀ n, x.sinceLast = some n → n ≤ 65535

/-- Where log and subscriptions stay and no session closes, the inputs alone are to be looked at. -/
theorem CaptureWf.of_inputs {s t : State} (h : CaptureWf s) (hlog : t.capture.log = s.capture.log)
    (hsubs : t.capture.subscriptions = s.capture.subscriptions)
    (hattached : ∀ q, s.attached q = true → t.attached q = true)
    (hinputs : ∀ i, (t.capture.inputs.get i).Wf) : CaptureWf t where
  room := hlog ▸ h.room
  distinct := hlog ▸ h.distinct
  readers r hr := by
    rw [hlog] at hr
    obtain ⟨hread, hreaders⟩ := h.readers r hr
    refine ⟨hread, fun p hp => ?_⟩
    obtain ⟨hatt, hsub⟩ := hreaders p hp
    exact ⟨hattached p hatt, hsubs ▸ hsub⟩
  detached p hp := by
    rw [hsubs]
    refine h.detached p (Bool.eq_false_iff.mpr fun c => ?_)
    exact Bool.false_ne_true (hp.symm.trans (hattached p c))
  inputs := hinputs

/-- Where the capture unit stays and no session closes. -/
theorem CaptureWf.of_sessions {s t : State} (h : CaptureWf s) (hcapture : t.capture = s.capture)
    (hattached : ∀ q, s.attached q = true → t.attached q = true) : CaptureWf t :=
  h.of_inputs (congrArg Capture.log hcapture) (congrArg Capture.subscriptions hcapture) hattached
    (hcapture ▸ h.inputs)

theorem CaptureWf.of_ports {s t : State} (h : CaptureWf s) (hcapture : t.capture = s.capture)
    (hports : t.ports = s.ports) : CaptureWf t :=
  h.of_sessions hcapture fun q => (State.attached_congr hports q).trans

theorem CaptureWf.mapPort {s : State} (h : CaptureWf s) (p : Port) (f : PortIf → PortIf)
    (hf : ∀ i, (f i).session = i.session) : CaptureWf (s.mapPort p f) :=
  h.of_sessions rfl fun q => (s.attached_mapPort p q f (hf _)).trans

theorem CaptureWf.frame {s : State} (h : CaptureWf s) (p : Port) (bytes : List Byte)
    (f : PortIf → PortIf) (hf : ∀ i, (f i).session = i.session) : CaptureWf (s.frame p bytes f) :=
  h.of_sessions rfl (SameAuthority.frame s p bytes f hf).attached

theorem CaptureWf.answer {s : State} (h : CaptureWf s) (p : Port) (k : BitVec 16) (st : Status)
    (pl : List Byte) (fr : Option EntryName) : CaptureWf (s.answer p k st pl fr) :=
  h.mapPort p _ fun i => i.takeAnswer_session k st pl fr

theorem CaptureWf.refuse {s : State} (h : CaptureWf s) (p : Port) (k : BitVec 16) (st : Status) :
    CaptureWf (s.refuse p k st) := h.answer p k st [] none

/-- A port leaves reader sets and takes another subscription: it may stay a reader where it is attached and
subscribes on, and a port that is not attached subscribes to nothing (R135, R142). -/
theorem CaptureWf.leave {s t : State} (h : CaptureWf s) {p : Port} {test : CaptureRecord → Bool}
    {new : InputSet}
    (hcapture : t.capture =
      { s.capture.leave p test with subscriptions := s.capture.subscriptions.set p new })
    (hothers : ∀ q, q ≠ p → t.attached q = s.attached q)
    (hstays : ∀ r ∈ s.capture.log, hasBit r.readers p = true → test r = false →
      t.attached p = true ∧ hasBit new r.input = true)
    (hdetached : t.attached p = false → new = 0) : CaptureWf t := by
  have hseqs := s.capture.leave_seqs p test
  have hsub (q : Port) (hq : q ≠ p) :
      (s.capture.subscriptions.set p new).get q = s.capture.subscriptions.get q :=
    Table.get_set_ne _ hq.symm new
  constructor <;> rw [hcapture] <;> dsimp only
  · have hlength := hseqs.length_le
    rw [List.length_map, List.length_map] at hlength
    exact hlength.trans h.room
  · exact h.distinct.sublist hseqs
  · intro x hx
    obtain ⟨r, hr, hinput, hnonempty, hread⟩ := Capture.mem_leave hx
    obtain ⟨hreaders, hbefore⟩ := h.readers r hr
    refine ⟨hnonempty hreaders, fun q hq => ?_⟩
    obtain ⟨hwas, hkept⟩ := hread q hq
    rw [hinput]
    by_cases hp : q = p
    · subst hp
      rw [Table.get_set_self]
      exact hstays r hr hwas (hkept rfl)
    · rw [hothers q hp, hsub q hp]
      exact hbefore q hwas
  · intro q hq
    by_cases hp : q = p
    · subst hp
      rw [Table.get_set_self]
      exact hdetached hq
    · rw [hsub q hp]
      exact h.detached q ((hothers q hp).symm.trans hq)
  · exact h.inputs

/-! ### The requests of the capture unit (R127, R136, R139) -/

theorem CaptureWf.setCaptureTaken {s : State} (h : CaptureWf s) (p : Port) (pl : List Byte)
    (k : BitVec 16) : CaptureWf (State.setCaptureTaken p pl k s) := by
  unfold State.setCaptureTaken
  split
  · exact h.refuse p k _
  · next f hread =>
    have hmost : f.holdoff ≤ 65535 := by
      have hlt := natAt_lt pl 2 2
      unfold decodeCapture at hread
      simp only [Option.bind_eq_bind, Option.bind_eq_some_iff, Option.some.injEq] at hread
      obtain ⟨_, _, _, _, rfl⟩ := hread
      exact Nat.le_of_lt_succ hlt
    refine CaptureWf.answer ?_ p k _ _ _
    refine h.of_inputs rfl rfl (fun _ => id) fun i => ?_
    rw [State.mapCapture_capture, Table.get_upd]
    split
    · exact ⟨hmost, (h.inputs f.input).2⟩
    · exact h.inputs i

theorem CaptureWf.subscribeTaken {s : State} (h : CaptureWf s) {p : Port}
    (hattached : s.attached p = true) (pl : List Byte) (k : BitVec 16) :
    CaptureWf (State.subscribeTaken p pl k s) := by
  unfold State.subscribeTaken
  split
  · exact h.refuse p k _
  · refine CaptureWf.answer ?_ p k _ _ _
    refine h.leave rfl (fun _ _ => rfl) (fun r hr hread hkept => ?_) fun c => ?_
    · obtain ⟨_, hreaders⟩ := h.readers r hr
      obtain ⟨_, hsub⟩ := hreaders p hread
      rw [hsub, Bool.true_and, Bool.not_eq_false'] at hkept
      exact ⟨hattached, hkept⟩
    · exact absurd (hattached.symm.trans c) Bool.noConfusion

theorem CaptureWf.readTaken {s : State} (h : CaptureWf s) (p : Port) (pl : List Byte)
    (k : BitVec 16) : CaptureWf (State.readTaken p pl k s) := by
  unfold State.readTaken
  split
  · exact h.refuse p k _
  · next max _ =>
    refine CaptureWf.answer ?_ p k _ _ _
    refine h.leave (p := p) (test := fun r => decide (r ∈ s.capture.oldestOwed p max)) ?_
      (fun _ _ => rfl) (fun r hr hread _ => ?_) (h.detached p)
    · rw [State.mapCapture_capture, s.capture.consume_eq_leave p max (h.distinct.of_map _),
        Table.set_get_self]
      rfl
    · obtain ⟨_, hreaders⟩ := h.readers r hr
      exact hreaders p hread

/-! ### The detach (R142) -/

/-- The capture unit after a detach (R142). -/
theorem State.detach_capture (s : State) (p : Port) : (s.detach p).capture = s.capture.detach p := by
  unfold State.detach
  rw [State.orphanEntries_capture, State.detachAuthority_capture, State.mapCapture_capture]
  rfl

/-- The port that detaches is in no reader set any more and subscribes to nothing (R142). -/
theorem CaptureWf.detach {s : State} (h : CaptureWf s) (p : Port) : CaptureWf (s.detach p) :=
  h.leave (s.detach_capture p) (fun _ hq => s.attached_detach_ne hq) (fun _ _ _ => nofun)
    fun _ => rfl

/-! ### An edge (R126, R129 to R135) -/

/-- The fate of a record whose readers are attached and subscribe to its input (R131, R133, R134). -/
theorem CaptureWf.storeCapture {s : State} (h : CaptureWf s) (r : CaptureRecord)
    (hreaders : ∀ p, hasBit r.readers p = true →
      s.attached p = true ∧ hasBit (s.capture.subscriptions.get p) r.input = true) :
    CaptureWf (s.storeCapture r) := by
  have hattached := State.attached_congr (s.storeCapture_ports r)
  have hcapture := s.storeCapture_capture r
  split at hcapture
  · exact h.of_ports hcapture (s.storeCapture_ports r)
  · next hstored =>
    obtain ⟨hread, hroom, hfresh⟩ := not_or.mp hstored |>.imp_right not_or.mp
    constructor <;> rw [hcapture]
    · rw [List.length_append, List.length_singleton]
      exact Nat.lt_of_not_le hroom
    · rw [List.map_append, List.map_singleton, List.nodup_append]
      refine ⟨h.distinct, List.nodup_singleton _, fun a ha b hb hab => ?_⟩
      obtain ⟨y, hy, rfl⟩ := List.mem_map.mp ha
      exact hfresh ⟨y, hy, hab.trans (List.mem_singleton.mp hb)⟩
    · intro x hx
      rcases List.mem_append.mp hx with hx | hx
      · obtain ⟨hne, hold⟩ := h.readers x hx
        exact ⟨hne, fun p hp => by rw [hattached]; exact hold p hp⟩
      · cases List.mem_singleton.mp hx
        exact ⟨hread, fun p hp => by rw [hattached]; exact hreaders p hp⟩
    · exact fun p hp => h.detached p ((hattached p).symm.trans hp)
    · exact h.inputs

theorem CaptureWf.acceptEdge {s : State} (h : CaptureWf s) (n : InputIx) (d : Edge) :
    CaptureWf (s.acceptEdge n d) := by
  have hedge : CaptureWf (s.mapCapture fun c =>
      { c with
        sequence := (s.newCapture n d).seq
        inputs := c.inputs.upd n fun x => { x with level := levelAfter d, sinceLast := some 0 } }) := by
    refine h.of_inputs rfl rfl (fun _ => id) fun i => ?_
    rw [State.mapCapture_capture, Table.get_upd]
    split
    · refine ⟨(h.inputs n).1, ?_⟩
      rintro _ ⟨⟩
      exact Nat.zero_le _
    · exact h.inputs i
  refine CaptureWf.storeCapture
    (hedge.of_ports (State.handOverCapture_capture _ _) (State.handOverCapture_ports _ _)) _
    fun p hp => ?_
  rw [State.attached_congr (State.handOverCapture_ports _ _), State.handOverCapture_capture]
  rw [State.newCapture, hasBit_portsWhere, Bool.and_eq_true] at hp
  exact hp

theorem CaptureWf.takeEdge {s : State} (h : CaptureWf s) (n : InputIx) (d : Edge) :
    CaptureWf (s.takeEdge n d) := by
  unfold State.takeEdge
  split
  · exact h
  · split
    · exact h.acceptEdge n d
    · refine h.of_inputs rfl rfl (fun _ => id) fun i => ?_
      rw [State.mapCapture_capture, Table.get_upd]
      split
      · exact h.inputs n
      · exact h.inputs i

/-! ### The reference microsecond (R128) -/

theorem CaptureWf.countMicrosecond {s : State} (h : CaptureWf s) : CaptureWf s.countMicrosecond := by
  refine h.of_inputs rfl rfl (fun _ => id) fun i => ?_
  rw [State.countMicrosecond_input]
  refine ⟨(h.inputs i).1, fun k hk => ?_⟩
  obtain ⟨old, _, rfl⟩ := Option.map_eq_some_iff.mp hk
  exact Nat.min_le_right _ _

theorem CaptureWf.completePass {s : State} (h : CaptureWf s) : CaptureWf s.completePass :=
  h.of_sessions s.completePass_capture (SameAuthority.completePass s).attached

theorem CaptureWf.microsecond {s : State} (h : CaptureWf s) : CaptureWf s.microsecond := by
  have hready (t : State) (ht : CaptureWf t) (hover : ¬ Overdue t) : CaptureWf t.microsecond := by
    rw [State.microsecond_notOverdue t hover]
    split
    · exact ht.countMicrosecond
    · exact ht.countMicrosecond.of_sessions (State.advance_capture _)
        (SameAuthority.advance _).attached
  by_cases hover : Overdue s
  · rw [State.microsecond_overdue s hover]
    exact hready _ (h.completePass.of_ports rfl rfl) s.not_overdue_completePass_noted
  · exact hready s h hover

theorem CaptureWf.millisecond {s : State} (h : CaptureWf s) : CaptureWf s.millisecond :=
  h.of_ports s.millisecond_capture s.millisecond_ports

/-! ### The resets (R141, R175, R188) -/

theorem CaptureWf.resetPort {s : State} (h : CaptureWf s) (p : Port) : CaptureWf (s.resetPort p) := by
  have hnoted : CaptureWf s.noted := h.of_ports rfl rfl
  unfold State.resetPort
  split
  · exact h.mapPort p _ fun _ => rfl
  · refine CaptureWf.mapPort ?_ p PortIf.clear fun _ => rfl
    split
    · exact hnoted.detach p
    · exact hnoted

/-- A full reset leaves an empty log and no subscription (R141). -/
theorem CaptureWf.beginReset (s : State) (cause : ResetCause) : CaptureWf (s.beginReset cause) where
  room := Nat.zero_le 32
  distinct := List.nodup_nil
  readers := nofun
  detached p _ := Table.get_fill _ p
  inputs i := by
    have hreset : (s.beginReset cause).capture.inputs.get i = .reset (s.capture.inputs.get i).level := by
      rw [State.beginReset, Capture.reset, Table.get_map, Table.get_map]
    rw [hreset]
    exact ⟨Nat.zero_le _, nofun⟩

theorem CaptureWf.endReset {s : State} (h : CaptureWf s) (rank1 rank0 : Bool) (levels : InputSet) :
    CaptureWf (s.endReset rank1 rank0 levels) := by
  unfold State.endReset
  split
  · refine h.of_inputs rfl rfl (fun _ => id) fun i => ?_
    rw [Table.get_ofFn]
    exact h.inputs i
  · exact h

/-! ### Every request -/

/-- The requests that reach the capture unit. -/
def captureKinds : List Kind := [.detach, .setCapture, .subscribe, .readCaptures]

theorem Kind.taken_capture (k : Kind) (hk : k ∉ captureKinds) (p : Port) (pl : List Byte)
    (ticket : BitVec 16) (s : State) : (k.taken p pl ticket s).capture = s.capture := by
  cases k with
  | detach | setCapture | subscribe | readCaptures => exact absurd (by decide) hk
  | _ =>
    simp only [Kind.taken, State.attachTaken_keeps, State.attentionTaken_keeps,
      State.queryTimeTaken_keeps, State.startTaken_keeps, State.stopTaken_keeps,
      State.stepTaken_keeps, State.slewTaken_keeps, State.addTaken_keeps, State.cancelTaken_keeps,
      State.holdTaken_keeps, State.resumeTaken_keeps, State.entryQueryTaken_keeps,
      State.nextQueryTaken_keeps, State.entryListTaken_keeps, State.quotaTaken_keeps,
      State.purgeTaken_keeps, State.lineQueryTaken_keeps, State.policyTaken_keeps,
      State.forceTaken_keeps, State.claimTaken_keeps, State.releaseTaken_keeps,
      State.renewTaken_keeps, State.queryAuthorityTaken_keeps, State.graceTaken_keeps,
      State.fetchTaken_keeps, State.ackTaken_keeps]

/-- DETACH alone closes a session. -/
theorem Kind.taken_attached (k : Kind) (hdetach : k ≠ .detach) (p q : Port) (pl : List Byte)
    (ticket : BitVec 16) (s : State) (h : s.attached q = true) :
    (k.taken p pl ticket s).attached q = true := by
  by_cases hentry : k ∈ entryKinds
  · by_cases hattach : k = .attach
    · subst hattach
      exact s.attachTaken_attached p q ticket h
    · exact (k.taken_attached_entries hentry hattach hdetach p q pl ticket s).trans h
  · exact ((k.taken_sameEntries hentry p pl ticket s).attached q).trans h

/-- The block of a request, once it is reached (R172). -/
theorem CaptureWf.taken {s : State} (h : CaptureWf s) (k : Kind) (p : Port) (pl : List Byte)
    (ticket : BitVec 16) (hattached : (s.attached p || k.takenDetached) = true) :
    CaptureWf (k.taken p pl ticket s) := by
  by_cases hk : k ∉ captureKinds
  · have hdetach : k ≠ .detach := fun c => hk (c ▸ by decide)
    exact h.of_sessions (k.taken_capture hk p pl ticket s)
      fun q => k.taken_attached hdetach p q pl ticket s
  cases k with
  | detach =>
    have hcleared := (h.detach p).mapPort p (fun i => { i with lastResponse := none }) fun _ => rfl
    exact hcleared.answer _ _ _ _ _
  | setCapture => exact h.setCaptureTaken p pl ticket
  | subscribe => exact h.subscribeTaken ((Bool.or_false _).symm.trans hattached) pl ticket
  | readCaptures => exact h.readTaken p pl ticket
  | _ => exact absurd (by decide) hk

/-- A REQUEST frame keeps the log in order when what becomes of the request does (R164 to R167). -/
theorem CaptureWf.receive {s : State} (h : CaptureWf s) (p : Port) (lags : List Nat)
    (tag kind : Byte) (pl : List Byte) (handle : BitVec 16 → State → State)
    (hhandle : ∀ k t, CaptureWf t → CaptureWf (handle k t)) :
    CaptureWf (s.receive p lags tag kind pl handle) := by
  unfold State.receive
  split
  · exact h.frame p _ id fun _ => rfl
  · split
    · exact h.frame p _ _ fun _ => rfl
    · split
      · exact h.frame p _ _ fun _ => rfl
      all_goals exact hhandle _ _ (h.frame p _ _ fun _ => rfl)

theorem CaptureWf.request {s : State} (h : CaptureWf s) (k : Kind) (a : Arrival) (tag : Byte)
    (pl : List Byte) : CaptureWf (s.request k a.port a.lags tag pl (k.block a.port pl)) := by
  refine h.receive a.port a.lags tag k.code pl _ fun ticket t ht => ?_
  unfold State.portChecks
  split
  · exact ht.refuse a.port ticket _
  · split
    · exact ht.refuse a.port ticket _
    · next hsends =>
      rw [Bool.not_eq_true, Bool.not_eq_false'] at hsends
      unfold Kind.block
      split
      · unfold State.privileged
        split
        · exact ht.taken k a.port pl ticket hsends
        · exact ht.refuse a.port ticket _
      · exact ht.taken k a.port pl ticket hsends

/-! ### The other frames, and every command -/

theorem CaptureWf.pollTaken {s : State} (h : CaptureWf s) (p : Port) (lags : List Nat) (n : Nat) :
    CaptureWf (s.pollTaken p lags n) := by
  unfold State.pollTaken
  split
  all_goals exact h.frame p _ _ fun _ => rfl

theorem CaptureWf.repeatTaken {s : State} (h : CaptureWf s) (p : Port) (lags : List Nat) (n : Nat) :
    CaptureWf (s.repeatTaken p lags n) := by
  unfold State.repeatTaken
  split
  · exact h.frame p _ _ fun _ => rfl
  · exact h.frame p _ _ fun _ => rfl
  · split
    all_goals exact h.frame p _ _ fun _ => rfl

theorem CaptureWf.pollNotTaken {s : State} (h : CaptureWf s) (p : Port) (lags : List Nat)
    (n : Nat) : CaptureWf (s.pollNotTaken p lags n) := by
  have hframe := h.frame p (s.statusBytes p lags 1 ++ s.freeBytes n) id fun _ => rfl
  exact hframe.of_ports rfl rfl

theorem CaptureWf.badKind {s t : State} (h : CaptureWf s) (a : Arrival) (tag kind : Byte)
    (pl : List Byte) (e : execBadKind a tag kind pl s = .next t) : CaptureWf t := by
  unfold execBadKind at e
  split at e
  · cases e
  · cases e
    exact h.receive _ _ _ _ _ _ fun k u hu => hu.refuse a.port k _

theorem CaptureWf.faultyFrame {s t : State} (h : CaptureWf s) (a : Arrival) (bytes : List Byte)
    (e : execFaultyFrame a bytes s = .next t) : CaptureWf t := by
  unfold execFaultyFrame at e
  split at e
  · cases e
    exact h
  · cases e
  · cases e
    split
    · exact h.frame _ _ id fun _ => rfl
    · exact h.frame _ _ _ fun _ => rfl

theorem CaptureWf.event {s : State} (h : CaptureWf s) (f : State → State)
    (hf : ∀ t, CaptureWf t → CaptureWf (f t)) : CaptureWf (s.event f) := by
  unfold State.event
  split
  · exact h
  · exact hf _ (h.of_ports rfl rfl)

/-- An event that is taken only where its condition holds (log 14, log 15). -/
theorem CaptureWf.ite {s t : State} (b : Prop) [Decidable b] (h : CaptureWf s) (ht : CaptureWf t) :
    CaptureWf (if b then t else s) := by
  split
  · exact ht
  · exact h

theorem CaptureWf.exec {s t : State} (h : CaptureWf s) (c : Instr) (e : exec c s = .next t) :
    CaptureWf t := by
  cases c with
  | attach a tag pl => cases e; exact h.request .attach a tag pl
  | detach a tag pl => cases e; exact h.request .detach a tag pl
  | setAttention a tag pl => cases e; exact h.request .setAttention a tag pl
  | queryTime a tag pl => cases e; exact h.request .queryTime a tag pl
  | start a tag pl => cases e; exact h.request .start a tag pl
  | stop a tag pl => cases e; exact h.request .stop a tag pl
  | step a tag pl => cases e; exact h.request .step a tag pl
  | slew a tag pl => cases e; exact h.request .slew a tag pl
  | entryAdd a tag pl => cases e; exact h.request .entryAdd a tag pl
  | entryCancel a tag pl => cases e; exact h.request .entryCancel a tag pl
  | entryHold a tag pl => cases e; exact h.request .entryHold a tag pl
  | entryResume a tag pl => cases e; exact h.request .entryResume a tag pl
  | entryQuery a tag pl => cases e; exact h.request .entryQuery a tag pl
  | nextQuery a tag pl => cases e; exact h.request .nextQuery a tag pl
  | entryList a tag pl => cases e; exact h.request .entryList a tag pl
  | setQuota a tag pl => cases e; exact h.request .setQuota a tag pl
  | purgePort a tag pl => cases e; exact h.request .purgePort a tag pl
  | lineQuery a tag pl => cases e; exact h.request .lineQuery a tag pl
  | setLinePolicy a tag pl => cases e; exact h.request .setLinePolicy a tag pl
  | forceLine a tag pl => cases e; exact h.request .forceLine a tag pl
  | claim a tag pl => cases e; exact h.request .claim a tag pl
  | release a tag pl => cases e; exact h.request .release a tag pl
  | renew a tag pl => cases e; exact h.request .renew a tag pl
  | queryAuthority a tag pl => cases e; exact h.request .queryAuthority a tag pl
  | setGrace a tag pl => cases e; exact h.request .setGrace a tag pl
  | setCapture a tag pl => cases e; exact h.request .setCapture a tag pl
  | subscribe a tag pl => cases e; exact h.request .subscribe a tag pl
  | readCaptures a tag pl => cases e; exact h.request .readCaptures a tag pl
  | fetchNotices a tag pl => cases e; exact h.request .fetchNotices a tag pl
  | ackNotices a tag pl => cases e; exact h.request .ackNotices a tag pl
  | badKind a tag kind pl => exact h.badKind a tag kind pl e
  | poll a clocked =>
    cases e
    split
    · exact h.pollNotTaken _ _ _
    · exact h.pollTaken _ _ _
  | repeatFrame a clocked =>
    cases e
    split
    · exact h.pollNotTaken _ _ _
    · exact h.repeatTaken _ _ _
  | faultyFrame a bytes => exact h.faultyFrame a bytes e
  | portReset p => cases e; exact h.resetPort p
  | portResetRelease p =>
    cases e
    have hends : CaptureWf (s.frameEnds p) := h.of_ports rfl rfl
    exact hends.mapPort p _ fun _ => rfl
  | fullReset cause => cases e; exact .beginReset s cause
  | fullResetEnd rank1 rank0 levels => cases e; exact h.endReset rank1 rank0 levels
  | referenceMicrosecond => cases e; exact h.event _ fun _ => CaptureWf.microsecond
  | referenceMillisecond => cases e; exact h.event _ fun _ => CaptureWf.millisecond
  | slewDone => cases e; exact h.event _ fun _ ht => ht.ite _ ht.microsecond
  | leaseExpiry => cases e; exact h.event _ fun _ ht => ht.ite _ ht.millisecond
  | graceExpiry => cases e; exact h.event _ fun _ ht => ht.ite _ ht.millisecond
  | captureEdge n edge => cases e; exact h.event _ fun _ ht => ht.takeEdge n edge
  | expiry =>
    cases e
    exact h.event _ fun u hu => hu.of_ports u.takeExpiry_capture u.takeExpiry_ports
  | pulseEnd l => cases e; exact h.event _ fun _ ht => ht.ite _ (ht.of_ports rfl rfl)
  | passComplete => cases e; exact h.event _ fun _ => CaptureWf.completePass

/-- Settles O57: every command keeps the capture log in order, and so do the events that the part takes on an
empty queue. -/
theorem stepsKeepTheCaptureLog : Obligations.StepsKeepTheCaptureLog := by
  unfold Obligations.StepsKeepTheCaptureLog
  intro s t h e
  unfold step at e
  split at e
  · next c rest _ =>
    have htaken : CaptureWf { s with pending := rest } := h.of_ports rfl rfl
    exact htaken.exec c e
  · split at e
    · exact h.exec _ e
    · cases e
      unfold State.refclkPeriod
      split
      · exact h
      · exact h.of_ports rfl rfl

end Sys2Proof.Machine

/-! PROOFS. Posting a notice; the attention line, the status byte, the status bytes of a frame, and SET_ATTENTION (R145, R149, R156, R157, R166, R190). -/

namespace Sys2Proof.Machine

/-! ### Posting (R145) -/

theorem State.post_detached (s : State) {p : Port} (b : NoticeBody) (h : s.attached p = false) :
    s.post p b = s := if_neg (Bool.eq_false_iff.mp h)

theorem State.post_attached (s : State) {p : Port} (b : NoticeBody) (h : s.attached p = true) :
    s.post p b =
      { s with
        notices :=
          s.notices.set p ((s.notices.get p).take s.timebase.now s.timebase.epoch b) } := if_pos h

/-- Settles O18: a detached port stores nothing, a full queue discards, and any other queue appends. -/
theorem postStoresOrDiscards : Obligations.PostStoresOrDiscards := by
  unfold Obligations.PostStoresOrDiscards
  intro p body s
  refine ⟨s.post_detached body, fun hattached hfull => ?_, fun hattached hroom => ?_⟩
  · rw [s.post_attached body hattached, NoticeQueue.take_discarded _ _ _ _ hfull]
    rfl
  · rw [s.post_attached body hattached, NoticeQueue.take_stored _ _ _ _ hroom]

/-! ### The attention line and the status byte (R156, R190) -/

theorem State.attached_iff (s : State) (p : Port) :
    s.attached p = true ↔ (s.ports.get p).session = .attached := decide_eq_true_iff

theorem State.attn_iff (s : State) (p : Port) :
    s.attn p = true ↔
      (s.ports.get p).session = .attached ∧ (s.notices.get p).queue ≠ []
        ∧ (s.notices.get p).attention = true := by
  rw [State.attn, Bool.and_eq_true, Bool.and_eq_true, State.attached_iff, Bool.not_eq_true',
    List.isEmpty_eq_false_iff, and_assoc]

/-- The fields of a status byte lie in bits of their own (R190). -/
theorem State.statusByte_toNat (s : State) (p : Port) :
    (s.statusByte p).toNat =
      160 + (if (s.ports.get p).session = .attached then 8 else 0) + (if s.attn p then 4 else 0)
        + (match (s.ports.get p).slot with | .empty => 0 | .working _ => 1 | .answered _ _ => 2) := by
  unfold State.statusByte
  simp only [State.attached_iff]
  cases (s.ports.get p).slot
  all_goals
    dsimp only [RequestSlot.code]
    split <;> split <;> decide

/-! ### The status bytes of a frame (R166) -/

/-- A byte of a frame shows the byte of the trail that lies as far back as the smallest lag up to it, and the
newest where no lag is given. -/
theorem statusRun_getElem? {trail : List Byte} (hne : trail ≠ []) (lags : List Nat) :
    ∀ (oldest n j : Nat), oldest < trail.length → j < n →
      (statusRun trail oldest n lags)[j]? =
        trail[if j < lags.length then (lags.take (j + 1)).foldl min oldest else 0]? := by
  induction lags with
  | nil =>
    intro oldest n j _ hj
    obtain ⟨newest, older, rfl⟩ := List.exists_cons_of_ne_nil hne
    rw [statusRun, List.getElem?_replicate, if_pos hj]
    rfl
  | cons lag more ih =>
    intro oldest n j holdest hj
    have hback : min oldest lag < trail.length := Nat.lt_of_le_of_lt (Nat.min_le_left _ _) holdest
    obtain ⟨m, rfl⟩ : ∃ m, n = m + 1 := ⟨n - 1, by omega⟩
    rw [statusRun]
    cases j with
    | zero =>
      rw [List.getElem?_cons_zero, List.getD_eq_getElem _ _ hback]
      exact (List.getElem?_eq_getElem hback).symm
    | succ i =>
      rw [List.getElem?_cons_succ, ih _ m i hback (Nat.lt_of_succ_lt_succ hj)]
      simp only [List.length_cons, Nat.add_lt_add_iff_right, List.take_succ_cons, List.foldl_cons]

/-- Each byte of a frame, out of the status bytes that have stood since the previous one (R166). -/
theorem State.statusBytes_getElem? (s : State) (p : Port) (lags : List Nat) {n j : Nat}
    (hj : j < n) :
    (s.statusBytes p lags n)[j]? =
      (s.trail p)[if j < lags.length
        then (lags.take (j + 1)).foldl min ((s.trail p).length - 1) else 0]? := by
  have hne : s.trail p ≠ [] := by
    intro hnil
    have hhead := s.trail_head p
    rw [hnil] at hhead
    cases hhead
  exact statusRun_getElem? hne lags _ n j
    (Nat.sub_lt (List.length_pos_iff.mpr hne) Nat.one_pos) hj

/-! ### SET_ATTENTION (R157) -/

theorem State.attentionTaken_set (t : State) (p : Port) (on : Bool) (k : BitVec 16) :
    State.attentionTaken p [boolByte on] k t =
      (t.mapQueue p fun q => { q with attention := on }).answer p k .ok
        [boolByte (t.notices.get p).attention] := by
  have hread : boolOfByte (byteAt [boolByte on] 0) = some on := boolOfByte_boolByte on
  rw [State.attentionTaken, hread]

/-- Settles O19: the attention line, the fields of the status byte, SET_ATTENTION, and the status bytes of a
frame. -/
theorem attentionLineAndStatusByte : Obligations.AttentionLineAndStatusByte := by
  unfold Obligations.AttentionLineAndStatusByte
  intro p lags tag on n s
  have hseen (q : Port) : s.noted.trails.get q = s.trail q := by
    rw [State.noted_trails, Table.get_ofFn]
  refine ⟨s.attn_iff p, s.statusByte_toNat p, fun hready hattached => ?_, rfl, rfl, hseen,
    s.statusBytes_length p lags n, fun j hj => ?_⟩
  · have hexec := exec_admitted s p lags tag .setAttention [boolByte on] hready
      ⟨hattached, fun c => absurd c (by decide)⟩ rfl
    refine hexec.trans (congrArg Host.Outcome.next ?_)
    exact (State.attentionTaken_set _ p on _).trans
      (State.answer_asked s _ p lags tag 0x12 1 .ok _ rfl (.inl rfl) none)
  · rw [hseen p]
    exact s.statusBytes_getElem? p lags hj

end Sys2Proof.Machine

/-! PROOFS. FETCH_NOTICES and the bytes of a notice; ACK_NOTICES (R151 to R153, R192 to R195). -/

namespace Sys2Proof.Machine

/-! ### The kind byte (R194) -/

/-- What the flags of a notice add up to, the first flag counting 1 (R194). -/
def flagSum (bits : List Bool) : Nat := bits.foldr (fun b n => (if b then 1 else 0) + 2 * n) 0

theorem flagByte_eq_natByte (bits : List Bool) : flagByte bits = natByte (flagSum bits) := rfl

theorem flagSum_singleton (a : Bool) : flagSum [a] = if a then 1 else 0 := by
  cases a <;> rfl

theorem flagSum_three (a b c : Bool) :
    flagSum [a, b, c] = (if a then 1 else 0) + (if b then 2 else 0) + if c then 4 else 0 := by
  revert a b c
  decide

theorem flagSum_four (a b c d : Bool) :
    flagSum [a, b, c, d] =
      (if a then 1 else 0) + (if b then 2 else 0) + (if c then 4 else 0) + if d then 8 else 0 := by
  revert a b c d
  decide

/-- The number of a capture input in two flags (R195). -/
theorem flagSum_input (a : Bool) (n : InputIx) :
    flagSum [a, n.val % 2 == 1, n.val / 2 == 1] = (if a then 1 else 0) + 2 * n.val := by
  revert a n
  decide

theorem NoticeKind.code_lt (k : NoticeKind) : k.code < 16 := by
  cases k <;> decide

/-- A kind code and flags in bits of their own make one number (R194). -/
theorem natByte_or_shift {code : Nat} (h : code < 16) (flags : Nat) :
    natByte code ||| (natByte flags <<< 4) = natByte (code + 16 * flags) := by
  have hshift : natByte flags <<< 4 = natByte (16 * flags) := by
    rw [natByte, natByte, BitVec.shiftLeft_eq_mul_twoPow, Nat.mul_comm, BitVec.ofNat_mul]
    rfl
  have hsum : code ||| 16 * flags = code + 16 * flags := by
    rw [Nat.or_comm, Nat.add_comm]
    exact (Nat.two_pow_add_eq_or_of_lt (i := 4) h flags).symm
  rw [hshift, natByte, natByte, ← BitVec.ofNat_or, hsum, natByte]

/-! ### The 23 bytes of a notice (R194, R195) -/

theorem NoticeBody.length_subjectBytes (b : NoticeBody) : b.subjectBytes.length = 2 := by
  cases b with
  | authorityChanged q _ | authorityLost q _ => cases q <;> rfl
  | _ => rfl

theorem NoticeBody.length_detailBytes_le (b : NoticeBody) : b.detailBytes.length ≤ 10 := by
  cases b <;>
    simp only [NoticeBody.detailBytes, labelBytes, wordBytes, List.length_append, List.length_cons,
      List.length_nil, length_leBytes] <;> decide

theorem length_padTo {n : Nat} {bytes : List Byte} (h : bytes.length ≤ n) :
    (padTo n bytes).length = n := by
  rw [padTo, List.length_append, List.length_replicate, Nat.add_sub_cancel' h]

theorem length_noticeBytes (n : Notice) : (noticeBytes n).length = 23 := by
  simp only [noticeBytes, wordBytes, List.length_append, List.length_singleton, length_leBytes,
    NoticeBody.length_subjectBytes, length_padTo n.body.length_detailBytes_le]

/-- The 23 bytes of a notice, its kind byte written as one number. -/
theorem noticeBytes_eq (n : Notice) :
    noticeBytes n =
      [natByte (n.body.kind.code + 16 * flagSum n.body.flags)] ++ wordBytes n.seq
        ++ leBytes 6 n.stamp ++ wordBytes n.epoch ++ n.body.subjectBytes ++ n.body.detailBytes
        ++ List.replicate (10 - n.body.detailBytes.length) 0 := by
  rw [noticeBytes, flagByte_eq_natByte, natByte_or_shift n.body.kind.code_lt, padTo,
    List.append_assoc _ n.body.detailBytes]

/-! ### FETCH_NOTICES (R152) -/

theorem State.fetchTaken_fetch (t : State) (p : Port) {max : Nat} (hlow : 1 ≤ max) (hhigh : max ≤ 4)
    (k : BitVec 16) :
    State.fetchTaken p [natByte max] k t =
      t.answer p k .ok ((t.notices.get p).fetchPayload max) := by
  rw [State.fetchTaken, decodeMax_natByte hlow hhigh]

/-- Settles O20: the payload is read back, and each notice is laid out by the fields of its kind. -/
theorem fetchNoticesReturnsTheOldest : Obligations.FetchNoticesReturnsTheOldest := by
  unfold Obligations.FetchNoticesReturnsTheOldest
  intro p lags tag max s hready hattached hlow hhigh one word bit handle port text cause fields record
  have htext (l : Option (BitVec 16)) : labelBytes l = text l := by cases l <;> rfl
  have hcause (reason : AuthReason) : reason.code = cause reason := by cases reason <;> rfl
  have hkind (b : NoticeBody) : b.kind.code = (fields b).1 := by cases b <;> rfl
  have hflags (b : NoticeBody) : flagSum b.flags = (fields b).2.1 := by
    cases b with
    | fired => exact flagSum_four _ _ _ _
    | entryCancelled | actionDenied => exact flagSum_singleton _
    | captureTriggered _ _ input => exact flagSum_input _ input
    | captureDropped _ edge _ _ _ _ reason =>
      cases edge <;> cases reason <;> exact flagSum_three _ _ _
    | _ => rfl
  have hsubject (b : NoticeBody) : b.subjectBytes = (fields b).2.2.1 := by
    cases b with
    | authorityChanged q | authorityLost q => cases q <;> rfl
    | _ => rfl
  have hdetail (b : NoticeBody) : b.detailBytes = (fields b).2.2.2 := by
    cases b with
    | fired _ label due _ _ _ missed =>
      exact congrArg (fun x => leBytes 6 due ++ x ++ leBytes 2 missed) (htext label)
    | entryCancelled _ label reason =>
      rw [NoticeBody.detailBytes, htext]
      cases reason <;> rfl
    | actionDenied _ label _ kind =>
      rw [NoticeBody.detailBytes, htext]
      cases kind <;> rfl
    | captureTriggered _ label _ seq _ due =>
      exact congrArg (fun x => leBytes 6 due ++ word seq ++ x) (htext label)
    | authorityChanged _ reason | authorityLost _ reason =>
      exact congrArg (fun c => [c]) (hcause reason)
    | authorityGranted _ lease reason =>
      exact congrArg (fun c => leBytes 2 lease ++ [c]) (hcause reason)
    | authorityWanted _ urgent => cases urgent <;> rfl
    | timebaseState news => cases news <;> rfl
    | slewEnded reason => cases reason <;> rfl
    | _ => rfl
  have hrecord : noticeBytes = record := by
    funext n
    rw [noticeBytes_eq, hkind, hflags, hsubject, hdetail]
    rfl
  refine ⟨?_, fun n => hrecord ▸ length_noticeBytes n⟩
  have hexec := exec_admitted s p lags tag .fetchNotices [natByte max] hready
    ⟨hattached, fun c => absurd c (by decide)⟩ rfl
  refine hexec.trans (congrArg Host.Outcome.next ?_)
  refine (State.fetchTaken_fetch _ p hlow hhigh _).trans ?_
  rw [State.takeRequest_notices, NoticeQueue.fetchPayload, hrecord, List.length_take]
  exact s.answer_takeRequest p lags tag 0x70 [natByte max] _ .ok (.inl rfl)

/-! ### ACK_NOTICES (R151, R153) -/

theorem noticesAfter_split {seq : BitVec 16} {n : Notice} (hn : n.seq = seq) (after : List Notice) :
    ∀ {before : List Notice}, (∀ x ∈ before, x.seq ≠ seq) →
      noticesAfter seq (before ++ n :: after) = after := by
  intro before hbefore
  induction before with
  | nil => exact if_pos hn
  | cons x xs ih =>
    obtain ⟨hx, hxs⟩ := List.forall_mem_cons.mp hbefore
    rw [List.cons_append, noticesAfter, if_neg hx]
    exact ih hxs

/-- A seq is read back from the payload of an ACK_NOTICES (R193). -/
theorem ofNat_natAt_seq (seq : BitVec 16) :
    BitVec.ofNat 16 (natAt (leBytes 2 seq.toNat) 0 2) = seq := by
  have hread : natAt (leBytes 2 seq.toNat) 0 2 = seq.toNat := leNat_leBytes (k := 2) seq.isLt
  rw [hread, BitVec.ofNat_toNat, BitVec.setWidth_eq]

/-- No notice bears the seq (R153). -/
theorem State.ackTaken_badSeq (t : State) (p : Port) (seq k : BitVec 16)
    (h : ∀ x ∈ (t.notices.get p).queue, x.seq ≠ seq) :
    State.ackTaken p (leBytes 2 seq.toNat) k t = t.refuse p k .badSeq := by
  unfold State.ackTaken
  rw [ofNat_natAt_seq]
  refine if_neg fun c => ?_
  obtain ⟨x, hx, hseq⟩ := List.any_eq_true.mp c
  exact h x hx (of_decide_eq_true hseq)

/-- A notice of the queue bears the seq (R153). -/
theorem State.ackTaken_through (t : State) (p : Port) (k : BitVec 16) {n : Notice}
    (h : n ∈ (t.notices.get p).queue) :
    State.ackTaken p (leBytes 2 n.seq.toNat) k t =
      (t.mapQueue p fun q => q.acknowledge n.seq t.timebase.now t.timebase.epoch).answer p k .ok
        ((t.notices.get p).ackPayload n.seq
          ((t.notices.get p).acknowledge n.seq t.timebase.now t.timebase.epoch)) := by
  unfold State.ackTaken
  rw [ofNat_natAt_seq]
  exact if_pos (List.any_eq_true.mpr ⟨n, h, decide_eq_true rfl⟩)

/-- Settles O21: the seq is read back; it names no notice, or the notices through it leave and the overflow set
decides whether OVERFLOW is appended. -/
theorem ackNoticesRemovesThroughSeq : Obligations.AckNoticesRemovesThroughSeq := by
  unfold Obligations.AckNoticesRemovesThroughSeq
  intro p lags tag seq before after n s hready hattached q
  have hexec := exec_admitted s p lags tag .ackNotices (leBytes 2 seq.toNat) hready
    ⟨hattached, fun c => absurd c (by decide)⟩ rfl
  refine ⟨fun hnone => hexec.trans (congrArg Host.Outcome.next ?_), fun hqueue hn hbefore => ?_⟩
  · exact (State.ackTaken_badSeq (s.takeRequest p lags tag 0x71 _) p seq _ hnone).trans
      (s.refuse_takeRequest p lags tag 0x71 _ _)
  subst hn
  have hmem : n ∈ q.queue := hqueue ▸ List.mem_append_right before List.mem_cons_self
  have hafter : noticesAfter n.seq q.queue = after := by
    rw [hqueue]
    exact noticesAfter_split rfl after hbefore
  have hremoved : q.queue.length - after.length = before.length + 1 := by
    rw [hqueue, List.length_append, List.length_cons]
    omega
  have hacked (left : NoticeQueue) (payload : List Byte)
      (hleft : q.acknowledge n.seq s.timebase.now s.timebase.epoch = left)
      (hpayload : q.ackPayload n.seq left = payload) :
      exec (.ackNotices ⟨p, lags⟩ tag (leBytes 2 n.seq.toNat)) s =
        .next
          { s.frameEnds p with
            notices := s.notices.set p left
            ports := answeredPorts s p lags tag 0x71 2 .ok payload } := by
    subst hleft hpayload
    refine hexec.trans (congrArg Host.Outcome.next ?_)
    exact (State.ackTaken_through (s.takeRequest p lags tag 0x71 _) p _ hmem).trans
      (State.answer_asked s _ p lags tag 0x71 2 .ok _ rfl (.inl rfl) none)
  refine ⟨fun hnone => hacked _ _ ?_ ?_, fun hsome => hacked _ _ ?_ ?_⟩
  · rw [NoticeQueue.acknowledge, hafter]
    exact if_pos hnone
  · rw [NoticeQueue.ackPayload, hafter, hremoved, hnone]
    rfl
  · rw [NoticeQueue.acknowledge, hafter]
    exact if_neg hsome
  · rw [NoticeQueue.ackPayload, hafter, hremoved, if_neg hsome, decide_eq_true hsome,
      List.length_append]
    rfl

end Sys2Proof.Machine

/-! PROOFS. What one notice queue keeps through a post, an acknowledgement and a detach, and what every procedure of the part keeps of all queues (R144, R145, R149, R160). -/

namespace Sys2Proof.Machine

/-! ### Consecutive seqs (R145, R151) -/

/-- The seqs of a list of notices run up to the one before `next`. -/
def Consecutive (next : BitVec 16) (l : List Notice) : Prop :=
  ∀ (j : Nat) (n : Notice), l[j]? = some n → n.seq = next - BitVec.ofNat 16 (l.length - j)

theorem Consecutive.nil (next : BitVec 16) : Consecutive next [] := nofun

/-- The notices that are left when the oldest go keep their places from the end. -/
theorem Consecutive.of_append {next : BitVec 16} {before after : List Notice}
    (h : Consecutive next (before ++ after)) : Consecutive next after := by
  intro j n hn
  have hplace := h (before.length + j) n (by
    rw [List.getElem?_append_right (Nat.le_add_right _ _), Nat.add_sub_cancel_left]
    exact hn)
  rw [hplace, List.length_append, Nat.add_sub_add_left]

/-- A notice that bears the next seq continues the run. -/
theorem Consecutive.concat {next : BitVec 16} {l : List Notice} (h : Consecutive next l)
    {n : Notice} (hn : n.seq = next) : Consecutive (next + 1) (l ++ [n]) := by
  intro j x hx
  rw [List.length_append, List.length_singleton]
  by_cases hj : j < l.length
  · rw [List.getElem?_append_left hj] at hx
    have hone : BitVec.ofNat 16 (l.length + 1 - j) = BitVec.ofNat 16 (l.length - j) + 1 := by
      rw [Nat.sub_add_comm hj.le, BitVec.ofNat_add]
      rfl
    rw [h j x hx, hone]
    bv_omega
  · rw [List.getElem?_append_right (Nat.not_lt.mp hj), List.getElem?_singleton] at hx
    split at hx
    · next hlast =>
      have hone : l.length + 1 - j = 1 := by omega
      rw [← Option.some.inj hx, hn, hone]
      bv_omega
    · cases hx

/-! ### One queue (R144, R145, R149, R151, R160) -/

theorem QueueWf.of_empty {q : NoticeQueue} (hqueue : q.queue = []) (hoverflow : q.overflow = 0) :
    QueueWf q where
  room := by rw [hqueue]; exact Nat.zero_le 16
  overflowing h := absurd hoverflow h
  noOverflowKind := by rw [hoverflow]; rfl
  consecutive := by rw [hqueue]; exact Consecutive.nil _

/-- The enable of the attention line is no part of what a queue keeps. -/
theorem QueueWf.attention {q : NoticeQueue} (h : QueueWf q) (on : Bool) :
    QueueWf { q with attention := on } := ⟨h.room, h.overflowing, h.noOverflowKind, h.consecutive⟩

/-- Of the bits 0 and 15 of an overflow set, only OVERFLOW itself would set one (R149, R192). -/
theorem NoticeKind.bit_and {k : NoticeKind} (h : k ≠ .overflow) : k.bit &&& 0x8001#16 = 0 := by
  cases k with
  | overflow => exact absurd rfl h
  | _ => rfl

/-- A notice of any kind but OVERFLOW is stored in a queue with room, or joins the set of a full one (R145). -/
theorem QueueWf.take {q : NoticeQueue} (h : QueueWf q) (now : Nat) (epoch : BitVec 16)
    {b : NoticeBody} (hb : b.kind ≠ .overflow) : QueueWf (q.take now epoch b) := by
  by_cases hfull : 16 ≤ q.queue.length
  · rw [q.take_discarded now epoch b hfull]
    refine ⟨h.room, fun _ => Nat.le_antisymm h.room hfull, ?_, h.consecutive⟩
    change (q.overflow ||| b.kind.bit) &&& 0x8001#16 = 0
    rw [BitVec.and_comm, BitVec.and_or_distrib_left, BitVec.and_comm, h.noOverflowKind,
      BitVec.and_comm, NoticeKind.bit_and hb]
    rfl
  · have hroom := Nat.not_le.mp hfull
    rw [q.take_stored now epoch b hroom]
    refine ⟨?_, fun hset => absurd (h.overflowing hset) hroom.ne, h.noOverflowKind,
      Consecutive.concat h.consecutive rfl⟩
    rw [List.length_append]
    exact hroom

theorem QueueWf.detach (q : NoticeQueue) : QueueWf q.detach := .of_empty rfl rfl

/-- The notices after one that the queue holds are the rest of the queue behind some notice (R153). -/
theorem exists_append_noticesAfter {n : Notice} {l : List Notice} (h : n ∈ l) :
    ∃ before x, l = (before ++ [x]) ++ noticesAfter n.seq l := by
  induction l with
  | nil => cases h
  | cons y ys ih =>
    rw [noticesAfter]
    split
    · exact ⟨[], y, rfl⟩
    · next hne =>
      have hys : n ∈ ys := (List.mem_cons.mp h).resolve_left fun c => hne (c ▸ rfl)
      obtain ⟨before, x, hbefore⟩ := ih hys
      exact ⟨y :: before, x, congrArg (y :: ·) hbefore⟩

/-- An acknowledgement frees a place for the OVERFLOW that it appends (R151, R153). -/
theorem QueueWf.acknowledge {q : NoticeQueue} (h : QueueWf q) {n : Notice} (hn : n ∈ q.queue)
    (now : Nat) (epoch : BitVec 16) : QueueWf (q.acknowledge n.seq now epoch) := by
  obtain ⟨before, x, hqueue⟩ := exists_append_noticesAfter hn
  have hrun : Consecutive q.nextSeq (noticesAfter n.seq q.queue) :=
    Consecutive.of_append (before := before ++ [x]) (hqueue ▸ h.consecutive)
  have hroom : (noticesAfter n.seq q.queue).length < 16 := by
    have hlength := congrArg List.length hqueue
    have hmost := h.room
    simp only [List.length_append, List.length_singleton] at hlength
    omega
  unfold NoticeQueue.acknowledge NoticeQueue.appendOverflow
  split
  · next hnone => exact ⟨hroom.le, fun c => absurd hnone c, h.noOverflowKind, hrun⟩
  · refine ⟨?_, fun c => absurd rfl c, BitVec.zero_and, hrun.concat rfl⟩
    rw [List.length_append]
    exact hroom

/-! ### All queues, and what leaves them alone -/

theorem NoticesWf.of_same {s t : State} (h : NoticesWf s) (hnotices : t.notices = s.notices)
    (hattached : ∀ q, t.attached q = s.attached q) : NoticesWf t where
  queues p := hnotices ▸ h.queues p
  detached p hp := hnotices ▸ h.detached p ((hattached p).symm.trans hp)

theorem NoticesWf.of_ports {s t : State} (h : NoticesWf s) (hnotices : t.notices = s.notices)
    (hports : t.ports = s.ports) : NoticesWf t := h.of_same hnotices (State.attached_congr hports)

theorem NoticesWf.mapPort {s : State} (h : NoticesWf s) (p : Port) (f : PortIf → PortIf)
    (hf : ∀ i, (f i).session = i.session) : NoticesWf (s.mapPort p f) :=
  h.of_same rfl fun q => s.attached_mapPort p q f (hf _)

theorem NoticesWf.mapTime {s : State} (h : NoticesWf s) (f : Timebase → Timebase) :
    NoticesWf (s.mapTime f) := h.of_ports rfl rfl

theorem NoticesWf.mapSchedule {s : State} (h : NoticesWf s) (f : Schedule → Schedule) :
    NoticesWf (s.mapSchedule f) := h.of_ports rfl rfl

theorem NoticesWf.mapAuthority {s : State} (h : NoticesWf s) (f : Authority → Authority) :
    NoticesWf (s.mapAuthority f) := h.of_ports rfl rfl

theorem NoticesWf.mapCapture {s : State} (h : NoticesWf s) (f : Capture → Capture) :
    NoticesWf (s.mapCapture f) := h.of_ports rfl rfl

theorem NoticesWf.mapLine {s : State} (h : NoticesWf s) (l : LineIx) (f : Line → Line) :
    NoticesWf (s.mapLine l f) := h.of_ports rfl rfl

theorem NoticesWf.withLines {s : State} (h : NoticesWf s) (lines : Table 16 Line) :
    NoticesWf { s with lines := lines } := h.of_ports rfl rfl

theorem NoticesWf.noted {s : State} (h : NoticesWf s) : NoticesWf s.noted := h.of_ports rfl rfl

theorem NoticesWf.frame {s : State} (h : NoticesWf s) (p : Port) (bytes : List Byte)
    (f : PortIf → PortIf) (hf : ∀ i, (f i).session = i.session) : NoticesWf (s.frame p bytes f) :=
  (h.of_ports rfl rfl : NoticesWf (s.frameEnds p)).mapPort p _ hf

theorem NoticesWf.answer {s : State} (h : NoticesWf s) (p : Port) (k : BitVec 16) (st : Status)
    (pl : List Byte) (fr : Option EntryName) : NoticesWf (s.answer p k st pl fr) :=
  h.mapPort p _ fun i => i.takeAnswer_session k st pl fr

theorem NoticesWf.refuse {s : State} (h : NoticesWf s) (p : Port) (k : BitVec 16) (st : Status) :
    NoticesWf (s.refuse p k st) := h.answer p k st [] none

theorem NoticesWf.answerStops {s : State} (h : NoticesWf s) (st : Status) :
    NoticesWf (s.answerStops st) := h.of_same (s.answerStops_notices st) (s.attached_answerStops st)

theorem NoticesWf.foldl {α : Type} {f : State → α → State}
    (hf : ∀ t a, NoticesWf t → NoticesWf (f t a)) (as : List α) {s : State} (h : NoticesWf s) :
    NoticesWf (as.foldl f s) := by
  induction as generalizing s with
  | nil => exact h
  | cons a as ih => exact ih (hf s a h)

/-! ### Changes of one queue, and posts (R145) -/

/-- A queue of an attached port may change alone. -/
theorem NoticesWf.mapQueue {s : State} (h : NoticesWf s) {p : Port} (hp : s.attached p = true)
    (f : NoticeQueue → NoticeQueue) (hf : QueueWf (f (s.notices.get p))) :
    NoticesWf (s.mapQueue p f) := by
  refine ⟨fun q => ?_, fun q hq => ?_⟩
  · rw [State.mapQueue_notices, Table.get_upd]
    split
    · exact hf
    · exact h.queues q
  · have hne : p ≠ q := by
      rintro rfl
      exact Bool.false_ne_true (hq.symm.trans hp)
    rw [State.mapQueue_notices, Table.get_upd_ne _ hne]
    exact h.detached q hq

theorem NoticesWf.post {s : State} (h : NoticesWf s) (p : Port) {b : NoticeBody}
    (hb : b.kind ≠ .overflow) : NoticesWf (s.post p b) := by
  unfold State.post
  split
  · next hp => exact h.mapQueue hp _ ((h.queues p).take _ _ hb)
  · exact h

theorem NoticesWf.postAll {s : State} (h : NoticesWf s) (ps : List Port) {b : NoticeBody}
    (hb : b.kind ≠ .overflow) : NoticesWf (s.postAll ps b) :=
  .foldl (fun _ p ht => ht.post p hb) ps h

theorem NoticesWf.postWhere {s : State} (h : NoticesWf s) (test : Port → Bool) {b : NoticeBody}
    (hb : b.kind ≠ .overflow) : NoticesWf (s.postWhere test b) := h.postAll _ hb

/-! ### The schedule (R28 to R74) -/

theorem NoticesWf.freeEntry {s : State} (h : NoticesWf s) (i : SlotIx) : NoticesWf (s.freeEntry i) :=
  h.of_ports (s.freeEntry_notices i) (s.freeEntry_ports i)

theorem NoticesWf.postCancelled {s : State} (h : NoticesWf s) (e : Entry) (n : Handle)
    (reason : CancelReason) : NoticesWf (s.postCancelled e n reason) := by
  unfold State.postCancelled
  split
  · exact h
  · exact h.post _ nofun

theorem NoticesWf.freeAndTell {s : State} (h : NoticesWf s) (i : SlotIx) (reason : CancelReason) :
    NoticesWf (s.freeAndTell i reason) := by
  unfold State.freeAndTell
  split
  · exact h
  · exact (h.freeEntry i).postCancelled _ _ reason

theorem NoticesWf.purge {s : State} (h : NoticesWf s) (p q : Port) : NoticesWf (s.purge p q) := by
  refine .foldl (fun t i ht => ?_) _ h
  split
  · exact ht.freeEntry i
  · exact ht.freeAndTell i .purged

theorem NoticesWf.postFired {s : State} (h : NoticesWf s) (e : Entry) (n : Handle)
    (due skipped : Nat) (final range : Bool) :
    NoticesWf (s.postFired e n due skipped final range) := by
  unfold State.postFired
  split
  · exact h.post _ nofun
  · exact h

theorem NoticesWf.lineAction {s : State} (h : NoticesWf s) (n : Handle) (e : Entry)
    (a : LineAction) : NoticesWf (s.lineAction n e a) := by
  unfold State.lineAction
  split
  · exact h.mapLine _ _
  · split
    · exact h
    · exact h.post _ nofun

theorem NoticesWf.expireEntry {s : State} (h : NoticesWf s) (i : SlotIx) (e : Entry) :
    NoticesWf (s.expireEntry i e) := by
  have hacted : NoticesWf
      ((s.mapSchedule fun c => c.leaveDueList i).lineActions (s.schedule.handleAt i) e) :=
    .foldl (fun _ a ht => ht.lineAction _ e a) e.actions (h.mapSchedule _)
  unfold State.expireEntry
  dsimp only
  split
  · exact (hacted.mapSchedule _).postFired _ _ _ _ _ _
  · have hfreed (skipped : Nat) (range : Bool) :=
      (hacted.postFired e (s.schedule.handleAt i) (s.schedule.dueAt i) skipped true range).freeEntry i
    split
    · exact (hfreed _ _).postCancelled _ _ _
    · exact hfreed _ _

theorem NoticesWf.closeIfDone {s : State} (h : NoticesWf s) : NoticesWf s.closeIfDone :=
  h.of_ports s.closeIfDone_notices s.closeIfDone_ports

theorem NoticesWf.takeExpiry {s : State} (h : NoticesWf s) : NoticesWf s.takeExpiry := by
  unfold State.takeExpiry
  split
  · exact h.closeIfDone
  · split
    · exact h.closeIfDone
    · exact (h.expireEntry _ _).closeIfDone

theorem NoticesWf.completePass {s : State} (h : NoticesWf s) : NoticesWf s.completePass := by
  cases hpass : s.schedule.pass with
  | none => rwa [State.completePass_noPass s hpass]
  | some a =>
    have hfreed : NoticesWf (s.passFreed a) :=
      .foldl (fun _ i ht => ht.freeEntry i) _ (h.answer _ _ _ _ _)
    rw [State.completePass_eq s hpass]
    split
    · exact (hfreed.mapSchedule _).of_ports (State.openSweep_notices _) (State.openSweep_ports _)
    · exact hfreed.mapSchedule _

/-- An entry that meets its step policy may be freed, and its owner told (R63 to R66). -/
theorem NoticesWf.meetPolicy {acc : State × Nat} (h : NoticesWf acc.1) (delta : Int) (i : SlotIx) :
    NoticesWf (meetPolicy delta acc i).1 := by
  unfold Machine.meetPolicy
  split
  · exact h
  · split
    · exact h
    all_goals
      split
      · exact h
      · exact h.freeAndTell i .step
      · dsimp only
        split
        · exact h.of_ports rfl rfl
        · exact h.freeAndTell i .stepRange

theorem NoticesWf.scheduleStep {s : State} (h : NoticesWf s) (w : Waiter) (oldNow newNow : Nat) :
    NoticesWf (s.scheduleStep w oldNow newNow) := by
  have hmet (is : List SlotIx) (acc : State × Nat) (hacc : NoticesWf acc.1) :
      NoticesWf (is.foldl (Machine.meetPolicy ((newNow : Int) - (oldNow : Int))) acc).1 := by
    induction is generalizing acc with
    | nil => exact hacc
    | cons i is ih => exact ih _ (hacc.meetPolicy _ i)
  rw [State.scheduleStep_eq]
  exact NoticesWf.mapSchedule (hmet (indices 64) (s, 0) h) _

/-! ### The capture unit (R129 to R134) -/

theorem NoticesWf.handOverOne {s : State} (h : NoticesWf s) (stamp : Nat) (i : SlotIx) :
    NoticesWf (s.handOverOne stamp i) := by
  unfold State.handOverOne
  split
  · exact h
  · dsimp only
    split
    · exact h.freeAndTell i .timeRange
    · exact h.mapSchedule _

theorem NoticesWf.postTriggered {s : State} (h : NoticesWf s) (r : CaptureRecord) (c : Schedule)
    (i : SlotIx) : NoticesWf (State.postTriggered r c s i) := by
  unfold State.postTriggered
  split
  · exact h
  · dsimp only
    split
    · exact h.post _ nofun
    · exact h

theorem NoticesWf.storeCapture {s : State} (h : NoticesWf s) (r : CaptureRecord) :
    NoticesWf (s.storeCapture r) := by
  unfold State.storeCapture
  split
  · exact h
  · split
    · exact h.postAll _ nofun
    · split
      · exact h.postAll _ nofun
      · exact (h.mapCapture _).postWhere _ nofun

theorem NoticesWf.takeEdge {s : State} (h : NoticesWf s) (n : InputIx) (d : Edge) :
    NoticesWf (s.takeEdge n d) := by
  unfold State.takeEdge
  split
  · exact h
  · split
    · refine NoticesWf.storeCapture ?_ _
      refine .foldl (fun _ i ht => ht.postTriggered _ _ i) _ ?_
      exact .foldl (fun _ i ht => ht.handOverOne _ i) _ ((h.mapCapture _).mapSchedule _)
    · exact h.mapCapture _

/-! ### The authority unit (R107, R108, R112 to R117) -/

theorem NoticesWf.reevaluate {s : State} (h : NoticesWf s) : NoticesWf s.reevaluate := by
  unfold State.reevaluate
  split
  · exact h.mapAuthority _
  · split
    · exact h.mapAuthority _
    · split
      · exact h
      · exact (h.mapAuthority _).post _ nofun

theorem NoticesWf.clearForces {s : State} (h : NoticesWf s) : NoticesWf s.clearForces :=
  h.withLines _

theorem NoticesWf.fillVacancy {s : State} (h : NoticesWf s) (former : Port) (reason : AuthReason) :
    NoticesWf (s.fillVacancy former reason) := by
  unfold State.fillVacancy
  split
  · refine NoticesWf.reevaluate (NoticesWf.clearForces ?_)
    exact (h.mapAuthority _).postWhere _ nofun
  · refine NoticesWf.reevaluate (NoticesWf.clearForces (NoticesWf.postWhere ?_ _ nofun))
    exact (h.mapAuthority _).post _ nofun

theorem NoticesWf.withdraw {s : State} (h : NoticesWf s) (p : Port) : NoticesWf (s.withdraw p) :=
  (h.mapAuthority _).reevaluate

theorem NoticesWf.revoke {s : State} (h : NoticesWf s) (former : Port) (reason : AuthReason) :
    NoticesWf (s.revoke former reason) := by
  refine NoticesWf.fillVacancy ?_ former reason
  exact h.post former nofun

theorem NoticesWf.millisecond {s : State} (h : NoticesWf s) : NoticesWf s.millisecond := by
  have hdue : NoticesWf (s.mapTime fun t => { t with msDue := false }) := h.mapTime _
  unfold State.millisecond State.countMillisecond
  split
  · exact hdue
  · split
    · split
      · exact hdue.revoke _ _
      · exact hdue.mapAuthority _
    · split
      · exact hdue.revoke _ _
      · split
        · exact hdue.revoke _ _
        · exact hdue.mapAuthority _

/-! ### The timebase (R3 to R17) -/

theorem NoticesWf.endSlew {s : State} (h : NoticesWf s) (reason : SlewReason) :
    NoticesWf (s.endSlew reason) := by
  unfold State.endSlew
  split
  · exact h
  · dsimp only
    split
    · exact (h.mapTime _).post _ nofun
    · exact h.mapTime _

theorem NoticesWf.endSlewIfDone {s : State} (h : NoticesWf s) : NoticesWf s.endSlewIfDone := by
  unfold State.endSlewIfDone
  split
  · split
    · exact h.endSlew .done
    · exact h
  · exact h

theorem NoticesWf.settleState {s : State} (h : NoticesWf s) : NoticesWf s.settleState := by
  have hstopped := (h.mapTime fun t => { t with state := .stopped }).answerStops .ok
  unfold State.settleState
  split
  · exact (hstopped.endSlew .timeEnd).postWhere _ nofun
  · split
    · exact hstopped.postWhere _ nofun
    · exact h

theorem NoticesWf.advance {s : State} (h : NoticesWf s) : NoticesWf s.advance := by
  have hadvanced : NoticesWf s.advancedState := (h.mapTime _).endSlewIfDone.settleState
  rw [State.advance_eq]
  split
  · exact hadvanced.of_ports (State.tellAdvance_notices _) (State.tellAdvance_ports _)
  · exact hadvanced

theorem NoticesWf.microsecond {s : State} (h : NoticesWf s) : NoticesWf s.microsecond := by
  have hcounted {t : State} (ht : NoticesWf t) : NoticesWf t.countMicrosecond := ht.of_ports rfl rfl
  have hready (t : State) (ht : NoticesWf t) (hover : ¬ Overdue t) : NoticesWf t.microsecond := by
    rw [State.microsecond_notOverdue t hover]
    split
    · exact hcounted ht
    · exact (hcounted ht).advance
  by_cases hover : Overdue s
  · rw [State.microsecond_overdue s hover]
    exact hready _ h.completePass.noted s.not_overdue_completePass_noted
  · exact hready s h hover

theorem NoticesWf.takeStep {s : State} (h : NoticesWf s) (w : Waiter) (newNow : Nat) :
    NoticesWf (s.takeStep w newNow) := by
  have hannounced : NoticesWf (s.stepAnnounced w newNow) :=
    ((h.mapTime _).endSlew .stepped).postWhere _ nofun
  rw [State.takeStep_eq]
  exact (hannounced.scheduleStep w s.timebase.now newNow).withLines _

/-! ### Sessions and resets (R160, R175, R179, R182, R188) -/

/-- A session opens with an empty queue (R179). -/
theorem NoticesWf.openSession {s : State} (h : NoticesWf s) (p : Port) :
    NoticesWf (s.openSession p) := by
  have hqueue (q : Port) (hq : p ≠ q) :
      (s.openSession p).notices.get q = s.notices.get q := Table.get_upd_ne _ hq _
  have hopened : (s.openSession p).attached p = true := by
    rw [State.attached_iff]
    exact congrArg PortIf.session (Table.get_upd_self _ p _)
  refine ⟨fun q => ?_, fun q hq => ?_⟩
  · by_cases hp : p = q
    · subst hp
      exact .of_empty (congrArg NoticeQueue.queue (Table.get_upd_self _ p _))
        (congrArg NoticeQueue.overflow (Table.get_upd_self _ p _))
    · exact hqueue q hp ▸ h.queues q
  · by_cases hp : p = q
    · subst hp
      exact absurd (hopened.symm.trans hq) Bool.noConfusion
    · rw [State.attached_openSession_ne s hp] at hq
      exact hqueue q hp ▸ h.detached q hq

/-- A session closes, and its queue is emptied in the same event (R160). -/
theorem NoticesWf.closeSession {s : State} (h : NoticesWf s) (p : Port) :
    NoticesWf ((s.mapPort p fun i => { i with session := .detached }).mapQueue p NoticeQueue.detach) := by
  refine ⟨fun q => ?_, fun q hq => ?_⟩
  · rw [State.mapQueue_notices, Table.get_upd]
    split
    · exact .detach _
    · exact h.queues q
  · rw [State.mapQueue_notices, Table.get_upd]
    split
    · exact ⟨rfl, rfl, rfl⟩
    · next hne =>
      refine h.detached q ?_
      rwa [State.attached_mapQueue, State.attached, State.mapPort_ports, Table.get_upd_ne _ hne] at hq

theorem NoticesWf.detachAuthority {s : State} (h : NoticesWf s) (p : Port) :
    NoticesWf (s.detachAuthority p) := by
  unfold State.detachAuthority
  split
  · exact h.fillVacancy p .detached
  · split
    · exact h.withdraw p
    · exact h

theorem NoticesWf.detach {s : State} (h : NoticesWf s) (p : Port) : NoticesWf (s.detach p) :=
  (((h.closeSession p).mapCapture fun c => c.detach p).detachAuthority p).of_ports
    (State.orphanEntries_notices _ p) (State.orphanEntries_ports _ p)

theorem NoticesWf.resetPort {s : State} (h : NoticesWf s) (p : Port) : NoticesWf (s.resetPort p) := by
  unfold State.resetPort
  split
  · exact h.mapPort p _ fun _ => rfl
  · refine NoticesWf.mapPort ?_ p PortIf.clear fun _ => rfl
    split
    · exact h.noted.detach p
    · exact h.noted

/-- After a full reset every queue is empty (R160, R188). -/
theorem NoticesWf.beginReset (s : State) (cause : ResetCause) : NoticesWf (s.beginReset cause) := by
  have hqueue (p : Port) : (s.beginReset cause).notices.get p = .reset := Table.get_fill _ p
  refine ⟨fun p => ?_, fun p _ => ?_⟩
  · rw [hqueue]
    exact .of_empty rfl rfl
  · rw [hqueue]
    exact ⟨rfl, rfl, rfl⟩

theorem NoticesWf.endReset {s : State} (h : NoticesWf s) (rank1 rank0 : Bool) (levels : InputSet) :
    NoticesWf (s.endReset rank1 rank0 levels) := by
  unfold State.endReset
  split
  · exact h.of_ports rfl rfl
  · exact h

end Sys2Proof.Machine

/-! PROOFS. Every step keeps the notice queues well formed (R144, R149, R160). -/

namespace Sys2Proof.Machine

/-! ### The requests that reach a queue or a session -/

theorem NoticesWf.startTaken {s : State} (h : NoticesWf s) (p : Port) (k : BitVec 16) :
    NoticesWf (State.startTaken p k s) := by
  unfold State.startTaken
  split
  · split
    · exact h.refuse p k _
    · refine NoticesWf.postWhere ?_ _ nofun
      exact (h.mapTime _).answer p k _ _ _
  · exact h.answer p k _ _ _
  · exact ((h.mapTime _).answerStops _).answer p k _ _ _

theorem NoticesWf.stepTaken {s : State} (h : NoticesWf s) (p : Port) (pl : List Byte)
    (k : BitVec 16) : NoticesWf (State.stepTaken p pl k s) := by
  unfold State.stepTaken
  split
  · exact h.refuse p k _
  · split
    · exact h.refuse p k _
    · split
      · exact h.refuse p k _
      · exact h.takeStep _ _

theorem NoticesWf.slewTaken {s : State} (h : NoticesWf s) (p : Port) (pl : List Byte)
    (k : BitVec 16) : NoticesWf (State.slewTaken p pl k s) := by
  unfold State.slewTaken
  split
  · exact h.refuse p k _
  · refine NoticesWf.answer ?_ p k _ _ _
    split
    · exact h.endSlew _
    · exact (h.endSlew _).mapTime _

theorem NoticesWf.purgeTaken {s : State} (h : NoticesWf s) (p : Port) (pl : List Byte)
    (k : BitVec 16) : NoticesWf (State.purgeTaken p pl k s) := by
  unfold State.purgeTaken
  split
  · exact h.refuse p k _
  · split
    · exact h.refuse p k _
    · exact (h.purge p _).answer p k _ _ _

theorem NoticesWf.claimTaken {s : State} (h : NoticesWf s) (p : Port) (pl : List Byte)
    (k : BitVec 16) : NoticesWf (State.claimTaken p pl k s) := by
  unfold State.claimTaken
  split
  · exact h.refuse p k _
  · split
    · split
      · exact h.refuse p k _
      · refine NoticesWf.answer ?_ p k _ _ _
        exact (h.mapAuthority _).clearForces.postWhere _ nofun
    · split
      · exact h.refuse p k _
      · split
        · exact h.refuse p k _
        · refine NoticesWf.answer ?_ p k _ _ _
          split
          · exact (h.mapAuthority _).post _ nofun
          · exact (h.mapAuthority _).post _ nofun

theorem NoticesWf.releaseTaken {s : State} (h : NoticesWf s) (p : Port) (k : BitVec 16) :
    NoticesWf (State.releaseTaken p k s) := by
  unfold State.releaseTaken
  split
  · exact (h.fillVacancy p _).answer p k _ _ _
  · split
    · exact (h.withdraw p).answer p k _ _ _
    · exact h.refuse p k _

theorem NoticesWf.attachTaken {s : State} (h : NoticesWf s) (p : Port) (k : BitVec 16) :
    NoticesWf (State.attachTaken p k s) := by
  unfold State.attachTaken
  split
  · exact h.refuse p k _
  · exact (h.openSession p).answer p k _ _ _

theorem NoticesWf.detachTaken {s : State} (h : NoticesWf s) (p : Port) (k : BitVec 16) :
    NoticesWf (State.detachTaken p k s) := by
  refine NoticesWf.answer ?_ p k _ _ _
  exact (h.detach p).mapPort p _ fun _ => rfl

theorem NoticesWf.attentionTaken {s : State} (h : NoticesWf s) {p : Port}
    (hattached : s.attached p = true) (pl : List Byte) (k : BitVec 16) :
    NoticesWf (State.attentionTaken p pl k s) := by
  unfold State.attentionTaken
  split
  · exact h.refuse p k _
  · next on _ => exact (h.mapQueue hattached _ ((h.queues p).attention on)).answer p k _ _ _

/-- The seq that an acknowledgement names is that of a notice of the queue, or it is refused (R153). -/
theorem NoticesWf.ackTaken {s : State} (h : NoticesWf s) {p : Port}
    (hattached : s.attached p = true) (pl : List Byte) (k : BitVec 16) :
    NoticesWf (State.ackTaken p pl k s) := by
  unfold State.ackTaken
  dsimp only
  split
  · next hnamed =>
    obtain ⟨n, hn, hseq⟩ := List.any_eq_true.mp hnamed
    refine NoticesWf.answer (h.mapQueue hattached _ ?_) p k _ _ _
    rw [← of_decide_eq_true hseq]
    exact (h.queues p).acknowledge hn _ _
  · exact h.refuse p k _

/-! ### Every request -/

/-- The requests that reach a notice queue or a session. -/
def noticeKinds : List Kind :=
  [.attach, .detach, .setAttention, .start, .step, .slew, .purgePort, .claim, .release, .ackNotices]

theorem Kind.taken_notices (k : Kind) (hk : k ∉ noticeKinds) (p : Port) (pl : List Byte)
    (ticket : BitVec 16) (s : State) : (k.taken p pl ticket s).notices = s.notices := by
  cases k with
  | attach | detach | setAttention | start | step | slew | purgePort | claim | release
  | ackNotices => exact absurd (by decide) hk
  | _ =>
    simp only [Kind.taken, State.queryTimeTaken_keeps, State.stopTaken_keeps, State.addTaken_keeps,
      State.cancelTaken_keeps, State.holdTaken_keeps, State.resumeTaken_keeps,
      State.entryQueryTaken_keeps, State.nextQueryTaken_keeps, State.entryListTaken_keeps,
      State.quotaTaken_keeps, State.lineQueryTaken_keeps, State.policyTaken_keeps,
      State.forceTaken_keeps, State.renewTaken_keeps, State.queryAuthorityTaken_keeps,
      State.graceTaken_keeps, State.setCaptureTaken_keeps, State.subscribeTaken_keeps,
      State.readTaken_keeps, State.fetchTaken_keeps]

/-- ATTACH and DETACH alone change a session. -/
theorem Kind.taken_sessions (k : Kind) (hattach : k ≠ .attach) (hdetach : k ≠ .detach) (p q : Port)
    (pl : List Byte) (ticket : BitVec 16) (s : State) :
    (k.taken p pl ticket s).attached q = s.attached q := by
  by_cases hk : k ∈ entryKinds
  · exact k.taken_attached_entries hk hattach hdetach p q pl ticket s
  · exact (k.taken_sameEntries hk p pl ticket s).attached q

/-- The block of a request, once it is reached: an attached port sent it, or its kind is taken from a
detached one too (R172). -/
theorem NoticesWf.taken {s : State} (h : NoticesWf s) (k : Kind) (p : Port) (pl : List Byte)
    (ticket : BitVec 16) (hsends : (s.attached p || k.takenDetached) = true) :
    NoticesWf (k.taken p pl ticket s) := by
  by_cases hk : k ∉ noticeKinds
  · have hattach : k ≠ .attach := fun c => hk (c ▸ by decide)
    have hdetach : k ≠ .detach := fun c => hk (c ▸ by decide)
    exact h.of_same (k.taken_notices hk p pl ticket s)
      fun q => k.taken_sessions hattach hdetach p q pl ticket s
  cases k with
  | attach => exact h.attachTaken p ticket
  | detach => exact h.detachTaken p ticket
  | setAttention => exact h.attentionTaken ((Bool.or_false _).symm.trans hsends) pl ticket
  | start => exact h.startTaken p ticket
  | step => exact h.stepTaken p pl ticket
  | slew => exact h.slewTaken p pl ticket
  | purgePort => exact h.purgeTaken p pl ticket
  | claim => exact h.claimTaken p pl ticket
  | release => exact h.releaseTaken p ticket
  | ackNotices => exact h.ackTaken ((Bool.or_false _).symm.trans hsends) pl ticket
  | _ => exact absurd (by decide) hk

/-- A REQUEST frame keeps the queues when what becomes of the request does (R164 to R167). -/
theorem NoticesWf.receive {s : State} (h : NoticesWf s) (p : Port) (lags : List Nat)
    (tag kind : Byte) (pl : List Byte) (handle : BitVec 16 → State → State)
    (hhandle : ∀ k t, NoticesWf t → NoticesWf (handle k t)) :
    NoticesWf (s.receive p lags tag kind pl handle) := by
  unfold State.receive
  split
  · exact h.frame p _ id fun _ => rfl
  · split
    · exact h.frame p _ _ fun _ => rfl
    · split
      · exact h.frame p _ _ fun _ => rfl
      all_goals exact hhandle _ _ (h.frame p _ _ fun _ => rfl)

theorem NoticesWf.request {s : State} (h : NoticesWf s) (k : Kind) (a : Arrival) (tag : Byte)
    (pl : List Byte) : NoticesWf (s.request k a.port a.lags tag pl (k.block a.port pl)) := by
  refine h.receive a.port a.lags tag k.code pl _ fun ticket t ht => ?_
  unfold State.portChecks
  split
  · exact ht.refuse a.port ticket _
  · split
    · exact ht.refuse a.port ticket _
    · next hsends =>
      rw [Bool.not_eq_true, Bool.not_eq_false'] at hsends
      unfold Kind.block
      split
      · unfold State.privileged
        split
        · exact ht.taken k a.port pl ticket hsends
        · exact ht.refuse a.port ticket _
      · exact ht.taken k a.port pl ticket hsends

/-! ### The other frames, the events, and every command -/

theorem NoticesWf.pollTaken {s : State} (h : NoticesWf s) (p : Port) (lags : List Nat) (n : Nat) :
    NoticesWf (s.pollTaken p lags n) := by
  unfold State.pollTaken
  split
  all_goals exact h.frame p _ _ fun _ => rfl

theorem NoticesWf.repeatTaken {s : State} (h : NoticesWf s) (p : Port) (lags : List Nat) (n : Nat) :
    NoticesWf (s.repeatTaken p lags n) := by
  unfold State.repeatTaken
  split
  · exact h.frame p _ _ fun _ => rfl
  · exact h.frame p _ _ fun _ => rfl
  · split
    all_goals exact h.frame p _ _ fun _ => rfl

theorem NoticesWf.pollNotTaken {s : State} (h : NoticesWf s) (p : Port) (lags : List Nat)
    (n : Nat) : NoticesWf (s.pollNotTaken p lags n) :=
  (h.frame p (s.statusBytes p lags 1 ++ s.freeBytes n) id fun _ => rfl).of_ports rfl rfl

theorem NoticesWf.badKind {s t : State} (h : NoticesWf s) (a : Arrival) (tag kind : Byte)
    (pl : List Byte) (e : execBadKind a tag kind pl s = .next t) : NoticesWf t := by
  unfold execBadKind at e
  split at e
  · cases e
  · cases e
    exact h.receive _ _ _ _ _ _ fun k u hu => hu.refuse a.port k _

theorem NoticesWf.faultyFrame {s t : State} (h : NoticesWf s) (a : Arrival) (bytes : List Byte)
    (e : execFaultyFrame a bytes s = .next t) : NoticesWf t := by
  unfold execFaultyFrame at e
  split at e
  · cases e
    exact h
  · cases e
  · cases e
    split
    · exact h.frame _ _ id fun _ => rfl
    · exact h.frame _ _ _ fun _ => rfl

theorem NoticesWf.event {s : State} (h : NoticesWf s) (f : State → State)
    (hf : ∀ t, NoticesWf t → NoticesWf (f t)) : NoticesWf (s.event f) := by
  unfold State.event
  split
  · exact h
  · exact hf _ h.noted

/-- An event that is taken only where its condition holds (log 14, log 15). -/
theorem NoticesWf.ite {s t : State} (b : Prop) [Decidable b] (h : NoticesWf s) (ht : NoticesWf t) :
    NoticesWf (if b then t else s) := by
  split
  · exact ht
  · exact h

/-- The 30 requests are one case; the other frames, the resets and the events are one each. -/
theorem NoticesWf.exec {s t : State} (h : NoticesWf s) (c : Instr) (e : exec c s = .next t) :
    NoticesWf t := by
  cases c with
  | badKind a tag kind pl => exact h.badKind a tag kind pl e
  | poll =>
    cases e
    split
    · exact h.pollNotTaken _ _ _
    · exact h.pollTaken _ _ _
  | repeatFrame =>
    cases e
    split
    · exact h.pollNotTaken _ _ _
    · exact h.repeatTaken _ _ _
  | faultyFrame a bytes => exact h.faultyFrame a bytes e
  | portReset p => cases e; exact h.resetPort p
  | portResetRelease p =>
    cases e
    have hends : NoticesWf (s.frameEnds p) := h.of_ports rfl rfl
    exact hends.mapPort p _ fun _ => rfl
  | fullReset cause => cases e; exact .beginReset s cause
  | fullResetEnd rank1 rank0 levels => cases e; exact h.endReset rank1 rank0 levels
  | referenceMicrosecond => cases e; exact h.event _ fun _ => NoticesWf.microsecond
  | referenceMillisecond => cases e; exact h.event _ fun _ => NoticesWf.millisecond
  | slewDone => cases e; exact h.event _ fun _ ht => ht.ite _ ht.microsecond
  | leaseExpiry => cases e; exact h.event _ fun _ ht => ht.ite _ ht.millisecond
  | graceExpiry => cases e; exact h.event _ fun _ ht => ht.ite _ ht.millisecond
  | captureEdge n edge => cases e; exact h.event _ fun _ ht => ht.takeEdge n edge
  | expiry => cases e; exact h.event _ fun _ => NoticesWf.takeExpiry
  | pulseEnd => cases e; exact h.event _ fun _ ht => ht.ite _ (ht.mapLine _ _)
  | passComplete => cases e; exact h.event _ fun _ => NoticesWf.completePass
  | _ => cases e; exact h.request _ _ _ _

/-- Settles O55: every command keeps the queues well formed, and so do the events that the part takes on an
empty queue of commands. -/
theorem stepsKeepTheNoticeQueues : Obligations.StepsKeepTheNoticeQueues := by
  unfold Obligations.StepsKeepTheNoticeQueues
  intro s t h e
  unfold step at e
  split at e
  · next c rest _ =>
    have htaken : NoticesWf { s with pending := rest } := h.of_ports rfl rfl
    exact htaken.exec c e
  · split at e
    · exact h.exec _ e
    · cases e
      unfold State.refclkPeriod
      split
      · exact h
      · exact h.mapTime _

end Sys2Proof.Machine

/-! PROOFS. Frames and commands: a command and its bytes are read from each other, and every well-formed command answers (R161 to R164, R189, R192). -/

namespace Sys2Proof.Machine

/-! ### Kind codes (R192) -/

theorem Kind.mem_allKinds (k : Kind) : k ∈ allKinds := by cases k <;> decide

theorem Kind.ofByte_code (k : Kind) : Kind.ofByte k.code = some k := by cases k <;> rfl

theorem Kind.code_of_ofByte {b : Byte} {k : Kind} (h : Kind.ofByte b = some k) : k.code = b :=
  eq_of_beq (List.find?_some h :)

theorem Kind.ofByte_eq_none {b : Byte} (h : ∀ j ∈ allKinds, j.code ≠ b) : Kind.ofByte b = none :=
  List.find?_eq_none.mpr fun j hj e => h j hj (eq_of_beq e)

/-! ### The command that a good REQUEST is (R161, R172) -/

/-- The command of a good REQUEST: by the kind that its code names, or BAD_KIND. -/
def requestOf (a : Arrival) (tag kind : Byte) (pl : List Byte) : Instr :=
  (Kind.ofByte kind).elim (.badKind a tag kind pl) fun k => requestCommand k a tag pl

theorem requestOf_code (k : Kind) (a : Arrival) (tag : Byte) (pl : List Byte) :
    requestOf a tag k.code pl = requestCommand k a tag pl := by
  rw [requestOf, Kind.ofByte_code, Option.elim_some]

theorem requestOf_unnamed {kind : Byte} (h : Kind.ofByte kind = none) (a : Arrival) (tag : Byte)
    (pl : List Byte) : requestOf a tag kind pl = .badKind a tag kind pl := by
  rw [requestOf, h, Option.elim_none]

theorem wellFormed_requestCommand (k : Kind) (a : Arrival) (tag : Byte) (pl : List Byte) :
    (requestCommand k a tag pl).wellFormed = decide (pl.length ≤ maxPayload) := by
  cases k <;> rfl

theorem encodeFrame_requestCommand (k : Kind) (a : Arrival) (tag : Byte) (pl : List Byte) :
    encodeFrame (requestCommand k a tag pl) = some (a, requestFrame tag k.code pl) := by
  cases k <;> rfl

theorem wellFormed_badKind {a : Arrival} {tag kind : Byte} {pl : List Byte} :
    (Instr.badKind a tag kind pl).wellFormed = true ↔
      pl.length ≤ maxPayload ∧ Kind.ofByte kind = none :=
  Bool.and_eq_true_iff.trans (and_congr decide_eq_true_iff decide_eq_true_iff)

theorem wellFormed_faultyFrame {a : Arrival} {bytes : List Byte} :
    (Instr.faultyFrame a bytes).wellFormed = true ↔ ∃ f, judgeFrame bytes = .faulty f := by
  rw [Instr.wellFormed]
  cases judgeFrame bytes <;> simp

theorem wellFormed_requestOf (a : Arrival) (tag kind : Byte) {pl : List Byte}
    (h : pl.length ≤ maxPayload) : (requestOf a tag kind pl).wellFormed = true := by
  cases hk : Kind.ofByte kind with
  | none =>
    rw [requestOf_unnamed hk]
    exact wellFormed_badKind.mpr ⟨h, hk⟩
  | some k =>
    rw [← Kind.code_of_ofByte hk, requestOf_code, wellFormed_requestCommand]
    exact decide_eq_true h

theorem encodeFrame_requestOf (a : Arrival) (tag kind : Byte) (pl : List Byte) :
    encodeFrame (requestOf a tag kind pl) = some (a, requestFrame tag kind pl) := by
  cases hk : Kind.ofByte kind with
  | none => rw [requestOf_unnamed hk]; rfl
  | some k => rw [← Kind.code_of_ofByte hk, requestOf_code, encodeFrame_requestCommand]

/-! ### The tests of R164 -/

theorem judgeFrame_poll (more : List Byte) : judgeFrame (pollType :: more) = .good := by
  rw [judgeFrame, if_pos (.inl rfl)]

theorem judgeFrame_repeat (more : List Byte) : judgeFrame (repeatType :: more) = .good := by
  rw [judgeFrame, if_pos (.inr rfl)]

/-- A frame of no type that R161 names. -/
theorem judgeFrame_unknownType {type : Byte} (more : List Byte) (hrequest : type ≠ requestType)
    (hpoll : type ≠ pollType) (hrepeat : type ≠ repeatType) :
    judgeFrame (type :: more) = .faulty .unknownType := by
  rw [judgeFrame, if_neg fun c => c.elim hpoll hrepeat, if_pos hrequest]

/-- The tests that a REQUEST meets, in their order (R164). -/
theorem judgeFrame_request (bytes more : List Byte) (h : bytes = requestType :: more) :
    judgeFrame bytes =
      if bytes.length < 5 then .faulty .truncated
      else if maxPayload < (byteAt bytes 3).toNat ∨ bytes.length ≠ (byteAt bytes 3).toNat + 5 then
        .faulty .length
      else if crc8 bytes.dropLast ≠ byteAt bytes (bytes.length - 1) then .faulty .crc
      else .good := by
  have htype : ¬ (requestType = pollType ∨ requestType = repeatType) := by decide
  rw [h, judgeFrame, if_neg htype, if_neg (not_not.mpr rfl)]

/-- Bytes that begin as a REQUEST, are as long as its length byte says and end with its CRC-8 are the frame
that R162 and R189 lay out. -/
theorem eq_requestFrame {bytes more : List Byte} (hrequest : bytes = requestType :: more)
    (hlength : bytes.length = (byteAt bytes 3).toNat + 5)
    (hcrc : crc8 bytes.dropLast = byteAt bytes (bytes.length - 1)) :
    ∃ tag kind pl, bytes = requestFrame tag kind pl ∧ pl.length = (byteAt bytes 3).toNat := by
  obtain ⟨tag, kind, n, rest, rfl⟩ : ∃ tag kind n rest, more = tag :: kind :: n :: rest := by
    subst hrequest
    match more, hlength with
    | tag :: kind :: n :: rest, _ => exact ⟨tag, kind, n, rest, rfl⟩
  obtain rfl | ⟨pl, c, rfl⟩ := rest.eq_nil_or_concat'
  · subst hrequest
    simp at hlength
  · have hbytes : bytes = (requestType :: tag :: kind :: n :: pl) ++ [c] := hrequest
    have hn : byteAt bytes 3 = n := by rw [hrequest]; rfl
    have hlen : pl.length = n.toNat := by
      rw [hn, hbytes] at hlength
      simpa using hlength
    have hnat : natByte pl.length = n := by
      rw [hlen, natByte, BitVec.ofNat_toNat, BitVec.setWidth_eq]
    have hlast : byteAt bytes (bytes.length - 1) = c := by
      rw [hbytes, byteAt, List.length_append, List.length_singleton, Nat.add_sub_cancel,
        List.getD_eq_getElem?_getD, List.getElem?_concat_length, Option.getD_some]
    have hbody : bytes.dropLast = requestBody tag kind pl := by
      rw [hbytes, List.dropLast_concat, requestBody, hnat]
    refine ⟨tag, kind, pl, ?_, hlen.trans (congrArg _ hn.symm)⟩
    rw [requestFrame, ← hbody, hcrc, hlast, hbytes, List.dropLast_concat]

/-- A good frame is a POLL, a REPEAT or a REQUEST of at most 96 payload bytes (R162, R164). -/
theorem judgeFrame_good {bytes : List Byte} (h : judgeFrame bytes = .good) :
    (∃ more, bytes = pollType :: more) ∨ (∃ more, bytes = repeatType :: more)
      ∨ ∃ tag kind pl, pl.length ≤ maxPayload ∧ bytes = requestFrame tag kind pl := by
  match hbytes : bytes with
  | [] => exact nomatch h
  | type :: more =>
    by_cases hpoll : type = pollType
    · exact .inl ⟨more, by rw [hpoll]⟩
    by_cases hrepeat : type = repeatType
    · exact .inr (.inl ⟨more, by rw [hrepeat]⟩)
    by_cases hrequest : type = requestType
    · rw [hrequest] at h ⊢
      rw [judgeFrame_request _ _ rfl] at h
      split at h
      · exact nomatch h
      split at h
      · exact nomatch h
      next hlength =>
      split at h
      · exact nomatch h
      next hcrc =>
      obtain ⟨hshort, hlength⟩ := not_or.mp hlength
      obtain ⟨tag, kind, pl, hframe, hpl⟩ :=
        eq_requestFrame rfl (not_not.mp hlength) (not_not.mp hcrc)
      exact .inr (.inr ⟨tag, kind, pl, hpl ▸ Nat.not_lt.mp hshort, hframe⟩)
    · rw [judgeFrame_unknownType more hrequest hpoll hrepeat] at h
      exact nomatch h

/-! ### Decoding (R161 to R164) -/

theorem decodeFrame_faulty {bytes : List Byte} {f : FrameFault} (h : judgeFrame bytes = .faulty f)
    (a : Arrival) : decodeFrame a bytes = some (.faultyFrame a bytes) := by
  rw [decodeFrame, h]

theorem decodeFrame_poll (a : Arrival) (clocked : List Byte) :
    decodeFrame a (pollType :: clocked) = some (.poll a clocked) := by
  rw [decodeFrame, judgeFrame_poll]
  exact if_pos rfl

theorem decodeFrame_repeat (a : Arrival) (clocked : List Byte) :
    decodeFrame a (repeatType :: clocked) = some (.repeatFrame a clocked) := by
  have htype : ¬ repeatType = pollType := by decide
  rw [decodeFrame, judgeFrame_repeat]
  exact (if_neg htype).trans (if_pos rfl)

theorem decodeFrame_requestFrame (a : Arrival) (tag kind : Byte) {pl : List Byte}
    (h : pl.length ≤ maxPayload) :
    decodeFrame a (requestFrame tag kind pl) = some (requestOf a tag kind pl) := by
  have hpayload : ((requestFrame tag kind pl).drop 4).dropLast = pl := List.dropLast_concat
  rw [decodeFrame, Laws.judgeFrame_requestFrame tag kind pl h, hpayload, requestOf]
  change (if requestType = pollType then _ else if requestType = repeatType then _ else
    match Kind.ofByte kind with | some k => some (requestCommand k a tag pl) | none => _) = _
  rw [if_neg (by decide), if_neg (by decide)]
  cases Kind.ofByte kind <;> rfl

theorem decodeFrame_requestCommand (k : Kind) (a : Arrival) (tag : Byte) (pl : List Byte)
    (h : pl.length ≤ maxPayload) :
    decodeFrame a (requestFrame tag k.code pl) = some (requestCommand k a tag pl) := by
  rw [decodeFrame_requestFrame a tag k.code h, requestOf_code]

/-- The frame of a well-formed command is decoded as that command. -/
theorem decodeFrame_of_encodeFrame {c : Instr} {a : Arrival} {bytes : List Byte}
    (hwf : c.wellFormed = true) (h : encodeFrame c = some (a, bytes)) :
    decodeFrame a bytes = some c := by
  cases c with
  | badKind _ tag kind pl =>
    cases h
    obtain ⟨hlen, hkind⟩ := wellFormed_badKind.mp hwf
    rw [decodeFrame_requestFrame _ tag kind hlen, requestOf_unnamed hkind]
  | poll _ clocked => cases h; exact decodeFrame_poll _ _
  | repeatFrame _ clocked => cases h; exact decodeFrame_repeat _ _
  | faultyFrame _ _ =>
    cases h
    obtain ⟨f, hf⟩ := wellFormed_faultyFrame.mp hwf
    exact decodeFrame_faulty hf _
  | portReset | fullReset | fullResetEnd | referenceMicrosecond | referenceMillisecond | slewDone
  | leaseExpiry | graceExpiry | captureEdge | expiry | pulseEnd | passComplete
  | portResetRelease => exact nomatch h
  | _ => cases h; exact decodeFrame_requestCommand _ _ _ _ (of_decide_eq_true hwf)

/-- The command that bytes are decoded as is well formed and has those bytes as its frame. -/
theorem encodeFrame_of_decodeFrame {c : Instr} {a : Arrival} {bytes : List Byte}
    (h : decodeFrame a bytes = some c) :
    c.wellFormed = true ∧ encodeFrame c = some (a, bytes) := by
  cases hj : judgeFrame bytes with
  | noFrame =>
    rw [decodeFrame, hj] at h
    exact nomatch h
  | faulty f =>
    rw [decodeFrame_faulty hj] at h
    cases h
    exact ⟨wellFormed_faultyFrame.mpr ⟨f, hj⟩, rfl⟩
  | good =>
    obtain ⟨more, rfl⟩ | ⟨more, rfl⟩ | ⟨tag, kind, pl, hlen, rfl⟩ := judgeFrame_good hj
    · rw [decodeFrame_poll] at h
      cases h
      exact ⟨rfl, rfl⟩
    · rw [decodeFrame_repeat] at h
      cases h
      exact ⟨rfl, rfl⟩
    · rw [decodeFrame_requestFrame a tag kind hlen] at h
      cases h
      exact ⟨wellFormed_requestOf a tag kind hlen, encodeFrame_requestOf a tag kind pl⟩

/-- Settles O4: decoding and encoding undo each other. -/
theorem framesAndCommandsCorrespond : Obligations.FramesAndCommandsCorrespond := by
  unfold Obligations.FramesAndCommandsCorrespond
  exact ⟨fun _ _ _ => decodeFrame_of_encodeFrame, fun _ _ _ => encodeFrame_of_decodeFrame⟩

/-! ### What BAD_KIND and FAULTY_FRAME answer (log 7) -/

/-- BAD_KIND with a code that names no kind is received and refused (R172). -/
theorem exec_badKind {kind : Byte} (h : Kind.ofByte kind = none) (a : Arrival) (tag : Byte)
    (pl : List Byte) (s : State) :
    exec (.badKind a tag kind pl) s =
      .next (s.receive a.port a.lags tag kind pl fun ticket t => t.refuse a.port ticket .badKind) := by
  change execBadKind a tag kind pl s = _
  rw [execBadKind, h]

theorem exec_badKind_named {kind : Byte} (h : Kind.ofByte kind ≠ none) (a : Arrival) (tag : Byte)
    (pl : List Byte) (s : State) : exec (.badKind a tag kind pl) s = .refused .notThisCommand := by
  obtain ⟨k, hk⟩ := Option.ne_none_iff_exists'.mp h
  change execBadKind a tag kind pl s = _
  rw [execBadKind, hk]

/-- FAULTY_FRAME with bytes that fail a test of R164. -/
theorem exec_faultyFrame {bytes : List Byte} {f : FrameFault} (h : judgeFrame bytes = .faulty f)
    (a : Arrival) (s : State) :
    exec (.faultyFrame a bytes) s =
      .next
        (if s.blocked a.port then s.frameNotTaken a.port (s.faultyShift a.port a.lags f bytes.length)
          else s.recordFault a.port a.lags f bytes.length) := by
  change execFaultyFrame a bytes s = _
  rw [execFaultyFrame, h]

theorem exec_faultyFrame_good {bytes : List Byte} (h : judgeFrame bytes = .good) (a : Arrival)
    (s : State) : exec (.faultyFrame a bytes) s = .refused .notThisCommand := by
  change execFaultyFrame a bytes s = _
  rw [execFaultyFrame, h]

/-- Every well-formed command answers a next state. -/
theorem exec_next_of_wellFormed {c : Instr} (h : c.wellFormed = true) (s : State) :
    ∃ t, exec c s = .next t := by
  cases c with
  | badKind a tag kind pl =>
    obtain ⟨_, hkind⟩ := wellFormed_badKind.mp h
    exact ⟨_, exec_badKind hkind a tag pl s⟩
  | faultyFrame a bytes =>
    obtain ⟨f, hf⟩ := wellFormed_faultyFrame.mp h
    exact ⟨_, exec_faultyFrame hf a s⟩
  | _ => exact ⟨_, rfl⟩

/-- Settles O3: well-formed commands and requests of any length answer, the terms of log 7 are refused. -/
theorem everyWellFormedCommandAnswersNext : Obligations.EveryWellFormedCommandAnswersNext := by
  unfold Obligations.EveryWellFormedCommandAnswersNext
  intro c s
  refine ⟨fun h => exec_next_of_wellFormed h s, ?_, ?_, ?_, ?_⟩
  · rintro k a tag pl rfl
    exact ⟨_, exec_requestCommand k a tag pl s⟩
  · rintro a tag kind pl rfl h
    exact exec_badKind_named h a tag pl s
  · rintro a bytes rfl h
    exact exec_faultyFrame_good h a s
  · rintro a rfl
    rfl

end Sys2Proof.Machine

/-! PROOFS. Frames at a port: those that a reset or a WORKING slot keeps from being taken, and those that fail a test (R164 to R167, R175, R176). -/

namespace Sys2Proof.Machine

variable (s : State)

/-! ### A port that takes frames, and one that does not (R175, R176) -/

theorem State.blocked_iff (p : Port) :
    s.blocked p = true ↔ s.inFullReset = true ∨ (s.ports.get p).inReset = true := by
  rw [State.blocked, Bool.or_eq_true]

theorem RequestSlot.isWorking_iff {slot : RequestSlot} :
    slot.isWorking = true ↔ ∃ h, slot = .working h := by
  cases slot <;> simp [RequestSlot.isWorking]

section Receive

variable {s} {p : Port}

/-- A port takes frames when neither reset holds it. -/
theorem State.blocked_false (hfree : s.inFullReset = false)
    (hrun : (s.ports.get p).inReset = false) : s.blocked p = false :=
  Bool.or_eq_false_iff.mpr ⟨hfree, hrun⟩

variable (lags : List Nat) (tag kind : Byte) {pl : List Byte}
  (handle : BitVec 16 → State → State)

/-- A REQUEST that a reset keeps from being taken (R175, R176). -/
theorem State.receive_blocked (hblocked : s.blocked p = true) :
    s.receive p lags tag kind pl handle =
      s.frameNotTaken p (s.statusBytes p lags (pl.length + 5)) := by
  rw [State.receive, if_pos hblocked]

/-- A request of more than 96 payload bytes has the length of no good frame (R164, log 16). -/
theorem State.receive_tooLong (hopen : s.blocked p = false) (hlong : maxPayload < pl.length) :
    s.receive p lags tag kind pl handle = s.requestFault p lags .length (pl.length + 5) := by
  rw [State.receive, if_neg (ne_true_of_eq_false hopen), if_pos hlong]

/-- A REQUEST that finds its slot WORKING is discarded (R167). -/
theorem State.receive_working (hopen : s.blocked p = false) (hfits : pl.length ≤ maxPayload)
    (hworking : (s.ports.get p).slot.isWorking = true) :
    s.receive p lags tag kind pl handle =
      s.requestFault p lags .requestWhileBusy (pl.length + 5) := by
  obtain ⟨h, hslot⟩ := RequestSlot.isWorking_iff.mp hworking
  rw [State.receive, if_neg (ne_true_of_eq_false hopen), if_neg (Nat.not_lt.mpr hfits), hslot]

end Receive

/-- A REQUEST is received whatever its kind code names; what is done with it once it has the slot depends on
the code. -/
theorem exec_receives {c : Instr} {a : Arrival} {tag kind : Byte} {k : Kind} {pl : List Byte}
    (hkind : Kind.ofByte kind = none)
    (hc : c ∈ [requestCommand k a tag pl, Instr.badKind a tag kind pl]) :
    ∃ code handle, exec c s = .next (s.receive a.port a.lags tag code pl handle) := by
  obtain rfl | rfl := List.mem_pair.mp hc
  · exact ⟨_, _, exec_requestCommand k a tag pl s⟩
  · exact ⟨_, _, exec_badKind hkind a tag pl s⟩

/-! ### What MISOp shows (R164, R166) -/

/-- A frame of unknown type shows the status byte and then 00h (R164). -/
theorem State.faultyShift_unknownType (p : Port) (lags : List Nat) (n : Nat) :
    s.faultyShift p lags .unknownType n =
      s.statusBytes p lags 1 ++ List.replicate (n - 1) 0 := by
  rw [State.faultyShift, if_pos rfl, shiftedOut, padTo, List.nil_append, List.length_nil,
    Nat.sub_zero]
  refine List.take_of_length_le ?_
  rw [List.length_append, State.statusBytes_length, List.length_replicate, Nat.add_comm]

/-- Every other faulty frame shows the status byte on each of its bytes (R166). -/
theorem State.faultyShift_request (p : Port) (lags : List Nat) {f : FrameFault}
    (hf : f ≠ .unknownType) (n : Nat) : s.faultyShift p lags f n = s.statusBytes p lags n :=
  if_neg hf

/-- A POLL or REPEAT that is not taken shows the status byte and then free bytes (log 5). -/
theorem State.pollNotTaken_miso (p : Port) (lags : List Nat) (n : Nat) :
    ((s.pollNotTaken p lags n).ports.get p).miso = s.statusBytes p lags 1 ++ s.freeBytes n := by
  change ((s.frameNotTaken p (s.statusBytes p lags 1 ++ s.freeBytes n)).ports.get p).miso = _
  rw [State.frameNotTaken, State.frame_ports, Table.get_upd_self]

@[simp] theorem State.freeBytes_length (n : Nat) : (s.freeBytes n).length = n := by
  rw [State.freeBytes, List.length_map, List.length_range]

/-! ### Frames that are not taken -/

/-- A faulty frame that a reset keeps from being taken (R175, R176). -/
theorem exec_faultyFrame_blocked {a : Arrival} {bytes : List Byte} {f : FrameFault}
    (hfault : judgeFrame bytes = .faulty f) (hblocked : s.blocked a.port = true) :
    exec (.faultyFrame a bytes) s =
      .next (s.frameNotTaken a.port (s.faultyShift a.port a.lags f bytes.length)) := by
  rw [exec_faultyFrame hfault, if_pos hblocked]

/-- A faulty frame that reaches its port (R164). -/
theorem exec_faultyFrame_taken {a : Arrival} {bytes : List Byte} {f : FrameFault}
    (hfault : judgeFrame bytes = .faulty f) (hopen : s.blocked a.port = false) :
    exec (.faultyFrame a bytes) s = .next (s.recordFault a.port a.lags f bytes.length) := by
  rw [exec_faultyFrame hfault, if_neg (ne_true_of_eq_false hopen)]

/-- A POLL or REPEAT that a reset keeps from being taken (R175, R176). -/
theorem exec_poll_blocked {c : Instr} {a : Arrival} {clocked : List Byte}
    (hc : c ∈ [Instr.poll a clocked, Instr.repeatFrame a clocked])
    (hblocked : s.blocked a.port = true) :
    exec c s = .next (s.pollNotTaken a.port a.lags clocked.length) := by
  obtain rfl | rfl := List.mem_pair.mp hc
  · exact congrArg _ (if_pos hblocked)
  · exact congrArg _ (if_pos hblocked)

/-- Settles O5: a WORKING slot discards a REQUEST, a reset keeps every frame from being taken. -/
theorem framesThatAreNotTaken : Obligations.FramesThatAreNotTaken := by
  unfold Obligations.FramesThatAreNotTaken
  intro p lags tag kind k pl bytes s hkind
  refine ⟨fun hfree hrun hworking hfits c hc => ?_, fun hreset => ?_⟩
  · obtain ⟨code, handle, hexec⟩ := exec_receives s hkind hc
    rw [hexec, State.receive_working _ _ _ _ (State.blocked_false hfree hrun) hfits hworking]
    rfl
  have hblocked : s.blocked p = true := (s.blocked_iff p).mpr hreset
  refine ⟨fun c hc => ?_, fun c hc => ?_⟩
  · obtain hrequest | hfaulty := List.mem_append.mp hc
    · obtain rfl | rfl := List.mem_pair.mp hrequest
      · rw [exec_requestCommand, State.request, State.receive_blocked _ _ _ _ hblocked]
        rfl
      · rw [exec_badKind hkind, State.receive_blocked _ _ _ _ hblocked]
        rfl
    · cases hverdict : judgeFrame bytes with
      | noFrame | good =>
        rw [hverdict] at hfaulty
        exact nomatch hfaulty
      | faulty f =>
        rw [hverdict] at hfaulty
        obtain rfl | hf := eq_or_ne f .unknownType
        · obtain rfl := List.mem_singleton.mp hfaulty
          rw [exec_faultyFrame_blocked s hverdict hblocked, State.faultyShift_unknownType]
          rfl
        · obtain rfl : c = (.faultyFrame ⟨p, lags⟩ bytes, s.statusBytes p lags bytes.length) := by
            cases f with
            | unknownType => exact absurd rfl hf
            | _ => exact List.mem_singleton.mp hfaulty
          rw [exec_faultyFrame_blocked s hverdict hblocked, s.faultyShift_request p lags hf]
          rfl
  · refine ⟨_, exec_poll_blocked s hc hblocked, ?_, ?_, ?_⟩
    · rw [State.pollNotTaken_miso]
      rfl
    · rw [State.pollNotTaken_miso]
      exact List.take_left' (s.statusBytes_length p lags 1)
    · rw [State.pollNotTaken_miso, List.length_append, State.statusBytes_length,
        State.freeBytes_length, Nat.add_comm]

/-! ### Faulty frames (R164) -/

/-- A faulty REQUEST frame records its fault and shows the status byte on each of its bytes. -/
theorem exec_faultyRequest {p : Port} {lags : List Nat} {bytes : List Byte} {f : FrameFault}
    (hopen : s.blocked p = false) (hfault : judgeFrame bytes = .faulty f) (hf : f ≠ .unknownType) :
    exec (.faultyFrame ⟨p, lags⟩ bytes) s = .next (s.requestFault p lags f bytes.length) := by
  rw [exec_faultyFrame_taken s hfault hopen, State.recordFault, s.faultyShift_request p lags hf]
  rfl

/-- Settles O6: the tests of R164, one after the other. -/
theorem faultyFrameSetsTheFrameFault : Obligations.FaultyFrameSetsTheFrameFault := by
  unfold Obligations.FaultyFrameSetsTheFrameFault
  intro p lags type more s hfree hrun bytes n faulted gives status
  have hopen : s.blocked p = false := State.blocked_false hfree hrun
  have hjudge (htype : type = 0x51) := judgeFrame_request bytes more (congrArg (· :: more) htype)
  refine ⟨fun hrequest hpoll hrepeat => ?_, fun htype hshort => ?_, fun htype hlong hlength => ?_,
    fun htype hlength hmax hcrc => ?_, fun tag kind k pl hlong hkind c hc => ?_⟩
  · have hfault := judgeFrame_unknownType more hrequest hpoll hrepeat
    change exec _ s = _
    rw [exec_faultyFrame_taken s hfault hopen, State.recordFault, State.faultyShift_unknownType]
    rfl
  · refine exec_faultyRequest (f := .truncated) s hopen ?_ nofun
    rw [hjudge htype, if_pos hshort]
  · refine exec_faultyRequest (f := .length) s hopen ?_ nofun
    rw [hjudge htype, if_neg (Nat.not_lt.mpr hlong)]
    exact if_pos hlength
  · refine exec_faultyRequest (f := .crc) s hopen ?_ nofun
    have hlong : ¬ bytes.length < 5 := by omega
    have hfits : ¬ (maxPayload < n ∨ bytes.length ≠ n + 5) :=
      not_or.mpr ⟨Nat.not_lt.mpr hmax, not_not.mpr hlength⟩
    have hbody : bytes.dropLast = bytes.take (n + 4) := by
      rw [List.dropLast_eq_take, hlength]
      rfl
    have hlast : byteAt bytes (bytes.length - 1) = bytes.getD (n + 4) 0 := by
      rw [hlength]
      rfl
    rw [hjudge htype, if_neg hlong, hbody, hlast]
    exact (if_neg hfits).trans (if_pos hcrc)
  · obtain ⟨code, handle, hexec⟩ := exec_receives s hkind hc
    rw [hexec, State.receive_tooLong _ _ _ _ hopen hlong]
    rfl

end Sys2Proof.Machine

/-! PROOFS. POLL and REPEAT: the response and the IDLE frame, and what becomes of the port interface (R163, R169, R170, R174, R189). -/

namespace Sys2Proof.Machine

variable {s : State} {p : Port}

/-! ### The bytes of the frames (R163, R169, R189) -/

/-- A frame padded up to a number of bytes begins as it does followed by 00h without end. -/
theorem take_padTo (n : Nat) (bytes : List Byte) :
    (padTo n bytes).take n = (bytes ++ List.replicate n 0).take n := by
  rw [padTo, List.take_append, List.take_append, List.take_replicate, List.take_replicate,
    Nat.min_self, Nat.min_eq_left (Nat.sub_le n bytes.length)]

/-- What is shifted out after the status byte of a type byte (R166, R169). -/
theorem shiftedOut_eq (status frame : List Byte) (n : Nat) (h : status.length = 1) :
    shiftedOut status frame n = (status ++ (frame ++ List.replicate n 0)).take (n + 1) := by
  rw [shiftedOut, List.take_append, List.take_append, h, Nat.add_sub_cancel, take_padTo]

/-- The fields of an IDLE frame: no ANSWERED slot answers with one (R169, R189). -/
theorem idleBody_unanswered (f : FrameFault) {slot : RequestSlot}
    (h : ∀ k r, slot ≠ .answered k r) :
    idleBody f slot = [0x6F, f.code, if slot.isWorking then 1 else 0] := by
  cases slot with
  | empty | working _ => rfl
  | answered k r => exact absurd rfl (h k r)

/-- The frame fault of an IDLE frame (R189). -/
theorem FrameFault.code_eq (f : FrameFault) :
    f.code =
      match f with
      | .none => 0 | .crc => 1 | .length => 2 | .truncated => 3 | .unknownType => 4
      | .requestWhileBusy => 5 := by
  cases f <;> rfl

/-- The CRC-8 of R163, bit by bit. -/
theorem crc8_eq_bitwise (bytes : List Byte) :
    crc8 bytes =
      bytes.foldl
        (fun c b =>
          (List.range 8).foldl (fun x _ => if x.msb then (x <<< 1) ^^^ 0x2F else x <<< 1) (c ^^^ b))
        0xFF := rfl

/-! ### What a POLL and a REPEAT do (R169, R170) -/

/-- A port shifts out a frame after the status byte of the type byte, and its interface is changed. -/
def shiftedState (s : State) (p : Port) (lags : List Nat) (n : Nat) (frame : List Byte)
    (f : PortIf → PortIf) : State :=
  { s.frameEnds p with
    ports :=
      s.ports.set p
        { f (s.ports.get p) with
          miso := (s.statusBytes p lags 1 ++ (frame ++ List.replicate n 0)).take (n + 1) } }

/-- A frame whose bytes follow the status byte. -/
theorem State.frame_shiftedOut (lags : List Nat) (n : Nat) (frame : List Byte) (f : PortIf → PortIf) :
    s.frame p (shiftedOut (s.statusBytes p lags 1) frame n) f = shiftedState s p lags n frame f := by
  rw [shiftedOut_eq _ _ _ (s.statusBytes_length p lags 1)]
  rfl

/-- The pending response is shifted out and becomes the last response. -/
theorem State.deliver_eq (lags : List Nat) (r : Response) (n : Nat) :
    s.deliver p lags r n =
      shiftedState s p lags n r.bytes fun i =>
        { i with slot := .empty, lastResponse := some r, frameFault := .none } :=
  State.frame_shiftedOut lags n r.bytes _

/-- The last response is shifted out again. -/
theorem State.shiftLast_eq (lags : List Nat) (r : Response) (n : Nat) :
    s.shiftLast p lags r n =
      shiftedState s p lags n r.bytes fun i => { i with frameFault := .none } :=
  State.frame_shiftedOut lags n r.bytes _

/-- An IDLE frame is shifted out with the frame fault and the slot state. -/
theorem State.shiftIdle_eq (lags : List Nat) (n : Nat) :
    s.shiftIdle p lags n =
      shiftedState s p lags n (idleFrame (s.ports.get p).frameFault (s.ports.get p).slot)
        fun i => { i with frameFault := .none } :=
  State.frame_shiftedOut lags n _ _

theorem exec_poll (hopen : s.blocked p = false) (lags : List Nat) (clocked : List Byte) :
    exec (.poll ⟨p, lags⟩ clocked) s = .next (s.pollTaken p lags clocked.length) :=
  congrArg _ (if_neg (ne_true_of_eq_false hopen))

theorem exec_repeatFrame (hopen : s.blocked p = false) (lags : List Nat) (clocked : List Byte) :
    exec (.repeatFrame ⟨p, lags⟩ clocked) s = .next (s.repeatTaken p lags clocked.length) :=
  congrArg _ (if_neg (ne_true_of_eq_false hopen))

theorem State.pollTaken_answered {k : Held} {r : Response} (h : (s.ports.get p).slot = .answered k r)
    (lags : List Nat) (n : Nat) : s.pollTaken p lags n = s.deliver p lags r n := by
  rw [State.pollTaken, h]

theorem State.pollTaken_unanswered (h : ∀ k r, (s.ports.get p).slot ≠ .answered k r)
    (lags : List Nat) (n : Nat) : s.pollTaken p lags n = s.shiftIdle p lags n := by
  unfold State.pollTaken
  split
  · next k r hslot => exact absurd hslot (h k r)
  · rfl
  · rfl

theorem State.repeatTaken_answered {k : Held} {r : Response}
    (h : (s.ports.get p).slot = .answered k r) (lags : List Nat) (n : Nat) :
    s.repeatTaken p lags n = s.deliver p lags r n := by
  rw [State.repeatTaken, h]

theorem State.repeatTaken_last {r : Response} (hslot : (s.ports.get p).slot = .empty)
    (hlast : (s.ports.get p).lastResponse = some r) (lags : List Nat) (n : Nat) :
    s.repeatTaken p lags n = s.shiftLast p lags r n := by
  rw [State.repeatTaken, hslot]
  dsimp only
  rw [hlast]

theorem State.repeatTaken_idle
    (h : (s.ports.get p).slot = .empty ∧ (s.ports.get p).lastResponse = none
      ∨ (s.ports.get p).slot.isWorking = true) (lags : List Nat) (n : Nat) :
    s.repeatTaken p lags n = s.shiftIdle p lags n := by
  obtain ⟨hslot, hlast⟩ | hworking := h
  · rw [State.repeatTaken, hslot]
    dsimp only
    rw [hlast]
  · obtain ⟨k, hslot⟩ := RequestSlot.isWorking_iff.mp hworking
    rw [State.repeatTaken, hslot]

/-- Settles O7: the pending response or an IDLE frame, byte by byte. -/
theorem pollDeliversOrIdles : Obligations.PollDeliversOrIdles := by
  unfold Obligations.PollDeliversOrIdles
  intro p lags clocked s hfree hrun crc withCrc shifted fault
  have hopen : s.blocked p = false := State.blocked_false hfree hrun
  have hfault : (s.ports.get p).frameFault.code = fault := FrameFault.code_eq _
  refine ⟨crc8_eq_bitwise, fun k r hslot => ?_, fun hslot => ?_, rfl⟩
  · rw [exec_poll hopen, State.pollTaken_answered hslot, State.deliver_eq]
    rfl
  · rw [exec_poll hopen, State.pollTaken_unanswered hslot, State.shiftIdle_eq, idleFrame,
      idleBody_unanswered _ hslot, hfault]
    rfl

/-- Settles O8: a pending response is delivered, the last response is repeated, otherwise an IDLE frame. -/
theorem repeatReturnsTheLastResponse : Obligations.RepeatReturnsTheLastResponse := by
  unfold Obligations.RepeatReturnsTheLastResponse
  intro p lags clocked s hfree hrun response idle shifted
  have hopen : s.blocked p = false := State.blocked_false hfree hrun
  have hfault := FrameFault.code_eq (s.ports.get p).frameFault
  refine ⟨fun k r hslot => ?_, fun r hslot hlast => ?_, fun hidle => ?_⟩
  · rw [exec_repeatFrame hopen, State.repeatTaken_answered hslot, State.deliver_eq]
    rfl
  · rw [exec_repeatFrame hopen, State.repeatTaken_last hslot hlast, State.shiftLast_eq]
    rfl
  · have hslot : ∀ k r, (s.ports.get p).slot ≠ .answered k r := by
      rintro k r hslot
      rw [hslot] at hidle
      exact hidle.elim (fun h => nomatch h.1) nofun
    rw [exec_repeatFrame hopen, State.repeatTaken_idle hidle, State.shiftIdle_eq, idleFrame,
      idleBody_unanswered _ hslot, hfault]
    rfl

end Sys2Proof.Machine

/-! PROOFS. The checks of the port on a request, and the answer that bears its ticket (R168, R172, R192, R193). -/

namespace Sys2Proof.Machine

variable {s : State} {p : Port}

/-! ### The payload lengths (R193) -/

/-- The payload lengths of a kind (R193). -/
def Kind.lengths : Kind → List Nat
  | .attach | .detach | .queryTime | .start | .stop | .nextQuery | .release | .queryAuthority => [0]
  | .setAttention | .entryList | .purgePort | .lineQuery | .setGrace | .subscribe
  | .readCaptures | .fetchNotices => [1]
  | .entryCancel | .entryHold | .entryResume | .entryQuery | .setQuota | .forceLine | .renew
  | .ackNotices => [2]
  | .claim => [3]
  | .slew | .setLinePolicy | .setCapture => [4]
  | .step => [8]
  | .entryAdd => (List.range 5).map fun c => 22 + 5 * c

theorem Kind.takesLength_iff (k : Kind) (n : Nat) : k.takesLength n = true ↔ n ∈ k.lengths := by
  cases k with
  | entryAdd =>
    change (n == 22 || n == 27 || n == 32 || n == 37 || n == 42) = true ↔ n ∈ [22, 27, 32, 37, 42]
    simp [or_assoc]
  | _ => exact beq_iff_eq.trans List.mem_singleton.symm

/-- All kinds but three are answered to an attached port alone (R172 check 3). -/
theorem Kind.takenDetached_false {k : Kind}
    (h : k ∉ [Kind.attach, Kind.queryTime, Kind.queryAuthority]) : k.takenDetached = false := by
  cases k with
  | attach | queryTime | queryAuthority => exact absurd (by decide) h
  | _ => rfl

/-! ### The checks (R172) -/

/-- A REQUEST whose kind code names no kind is answered BAD_KIND (R172 check 1). -/
theorem exec_badKind_ready {kind : Byte} {pl : List Byte} (hready : Ready s p)
    (hfits : pl.length ≤ 96) (hkind : Kind.ofByte kind = none) (lags : List Nat) (tag : Byte) :
    exec (.badKind ⟨p, lags⟩ tag kind pl) s =
      .next (answeredState s p lags tag kind pl.length .badKind []) := by
  rw [exec_badKind hkind, State.receive_ready s p lags tag kind pl _ hready hfits,
    State.refuse_takeRequest]

/-- Settles O9: the three checks, in their order. -/
theorem portChecksRefuse : Obligations.PortChecksRefuse := by
  unfold Obligations.PortChecksRefuse
  intro p lags tag kind k pl s hready hfits lengths
  have hlengths : lengths = k.lengths := by cases k <;> rfl
  have hiff : k.takesLength pl.length = true ↔ pl.length ∈ lengths :=
    hlengths ▸ k.takesLength_iff pl.length
  refine ⟨fun hkind => ?_, rfl, k.mem_allKinds, hiff, fun hlength => ?_,
    fun hlength hdetached hk => ?_⟩
  · exact exec_badKind_ready hready hfits (Kind.ofByte_eq_none hkind) lags tag
  · have hbad := Bool.eq_false_iff.mpr (mt hiff.mp hlength)
    rw [exec_requestCommand, State.request_badLength s k p lags tag pl _ hready hbad hfits]
  · rw [exec_requestCommand, State.request_notAttached s k p lags tag pl _ hready
      (hiff.mpr hlength) hdetached (Kind.takenDetached_false hk)]

/-! ### The answer (R168) -/

/-- Settles O12: the ticket decides whether an answer is taken or discarded. -/
theorem answersGoToTheirTicket : Obligations.AnswersGoToTheirTicket := by
  unfold Obligations.AnswersGoToTheirTicket
  intro p ticket st pl s
  refine ⟨?_, fun hother => ?_⟩
  · rintro h hslot rfl
    rw [State.answer, State.mapPort, Table.upd, PortIf.takeAnswer_working _ h st pl none hslot]
    rfl
  · rw [State.answer, State.mapPort, Table.upd,
      PortIf.takeAnswer_discarded _ ticket st pl none hother, Table.set_get_self]

end Sys2Proof.Machine

/-! PROOFS. The detach and the port reset: the entries of the port, its place in the authority unit, its reader sets, its interface (R50, R125, R142, R175, R182, R187). -/

namespace Sys2Proof.Machine

/-! ### One entry meets its orphan policy (R50, R73) -/

/-- A slot without an entry of the port is left as it is. -/
theorem detachedSlot_other {p : Port} {sl : Slot} (inPass : Bool)
    (h : ∀ e, sl.entry = some e → e.owner ≠ p) : detachedSlot p inPass sl = sl := by
  unfold detachedSlot
  split
  · rfl
  · next e he => rw [if_pos (h e he)]

theorem detachedSlot_continue {sl : Slot} {e : Entry} (inPass : Bool) (he : sl.entry = some e)
    (hpolicy : e.orphanPolicy = .continue) :
    detachedSlot e.owner inPass sl = { sl with entry := some { e with orphaned := true } } := by
  rw [detachedSlot, he]
  dsimp only
  rw [if_neg (not_not.mpr rfl), hpolicy]

theorem detachedSlot_cancel {sl : Slot} {e : Entry} (inPass : Bool) (he : sl.entry = some e)
    (hpolicy : e.orphanPolicy = .cancel) :
    detachedSlot e.owner inPass sl =
      if inPass then { sl with entry := some { e with cancelPending := true } }
      else { tag := sl.tag + 1, entry := none } := by
  rw [detachedSlot, he]
  dsimp only
  rw [if_neg (not_not.mpr rfl), hpolicy]

section OrphanOne

variable (s : State) {i : SlotIx} {e : Entry}

theorem State.orphanOne_continue (he : s.schedule.entryAt i = some e)
    (hpolicy : e.orphanPolicy = .continue) :
    s.orphanOne i = s.mapSchedule fun c => c.mapEntry i fun x => { x with orphaned := true } := by
  rw [State.orphanOne, he]
  dsimp only
  rw [hpolicy]

/-- In a pass a CANCEL entry waits for its end (R73). -/
theorem State.orphanOne_inPass (he : s.schedule.entryAt i = some e)
    (hpolicy : e.orphanPolicy = .cancel) {a : Pass} (hpass : s.schedule.pass = some a) :
    s.orphanOne i = s.mapSchedule fun c => c.mapEntry i fun x => { x with cancelPending := true } := by
  rw [State.orphanOne, he]
  dsimp only
  rw [hpolicy, hpass]

theorem State.orphanOne_cancel (he : s.schedule.entryAt i = some e)
    (hpolicy : e.orphanPolicy = .cancel) (hpass : s.schedule.pass = none) :
    s.orphanOne i = s.freeEntry i := by
  rw [State.orphanOne, he]
  dsimp only
  rw [hpolicy, hpass]

/-- The slot of an entry that is changed in place, and every other slot. -/
theorem State.mapEntry_slot_some (he : s.schedule.entryAt i = some e) (f : Entry → Entry)
    (j : SlotIx) :
    (s.mapSchedule fun c => c.mapEntry i f).schedule.slots.get j =
      if i = j then { s.schedule.slots.get j with entry := some (f e) }
      else s.schedule.slots.get j := by
  rw [State.mapSchedule_schedule, Schedule.mapEntry_slot]
  split
  · next hj => rw [← hj, he, Option.map_some]
  · rfl

/-- The slots after an entry has met its orphan policy. -/
theorem State.orphanOne_slot (he : s.schedule.entryAt i = some e) (j : SlotIx) :
    (s.orphanOne i).schedule.slots.get j =
      if i = j then detachedSlot e.owner s.schedule.pass.isSome (s.schedule.slots.get j)
      else s.schedule.slots.get j := by
  cases hpolicy : e.orphanPolicy with
  | cancel =>
    cases hpass : s.schedule.pass with
    | some _ =>
      rw [s.orphanOne_inPass he hpolicy hpass, s.mapEntry_slot_some he]
      refine ite_congr rfl (fun hj => ?_) fun _ => rfl
      rw [← hj, detachedSlot_cancel _ he hpolicy, Option.isSome_some, if_pos rfl]
    | none =>
      rw [s.orphanOne_cancel he hpolicy hpass, State.freeEntry_some s i e he, Schedule.free_slot]
      refine ite_congr rfl (fun hj => ?_) fun _ => rfl
      rw [← hj, detachedSlot_cancel _ he hpolicy, Option.isSome_none, if_neg Bool.false_ne_true]
  | _ =>
    rw [s.orphanOne_continue he hpolicy, s.mapEntry_slot_some he]
    refine ite_congr rfl (fun hj => ?_) fun _ => rfl
    rw [← hj, detachedSlot_continue _ he hpolicy]

end OrphanOne

/-- From `s` to `t` entries have been freed or changed in place; those that are gone have left the sweep,
and the pass stands. -/
structure Orphaned (s t : State) : Prop where
  freed : EntriesFreed s t
  sweep : t.schedule.sweep = s.schedule.sweep.map fun m => m.filter fun i => !gone s t i
  pass : t.schedule.pass = s.schedule.pass

theorem Orphaned.trans {s t u : State} (h1 : Orphaned s t) (h2 : Orphaned t u) : Orphaned s u where
  freed := h1.freed.trans h2.freed
  sweep := by
    rw [h2.sweep, h1.sweep, Option.map_map]
    congr 1
    funext m
    rw [Function.comp_apply, List.filter_filter]
    congr 1
    funext i
    rw [gone_trans h1.freed.kept h2.freed.kept, Bool.not_or, Bool.and_comm]
  pass := h2.pass.trans h1.pass

theorem Orphaned.refl (s : State) : Orphaned s s where
  freed := .unfreed (fun _ => rfl) rfl rfl
  sweep := by
    have hgone (i : SlotIx) : gone s s i = false := gone_eq_false rfl
    simp only [hgone, Bool.not_false, List.filter_true, Option.map_id']
  pass := rfl

/-- An entry that is changed in place stays in the lists (R50, R73). -/
theorem Orphaned.mapEntry (s : State) (i : SlotIx) (f : Entry → Entry)
    (howner : ∀ e, (f e).owner = e.owner) (hlines : ∀ e, (f e).lines = e.lines) :
    Orphaned s (s.mapSchedule fun c => c.mapEntry i f) where
  freed := s.mapEntry_entriesFreed i f howner hlines
  sweep := by
    have hgone (j : SlotIx) : gone s (s.mapSchedule fun c => c.mapEntry i f) j = false := by
      refine gone_eq_false ?_
      rw [State.mapSchedule_schedule, Schedule.mapEntry_entryAt]
      split
      · simp only [Option.map_map, Function.comp_def, howner, hlines]
      · rfl
    simp only [hgone, Bool.not_false, List.filter_true, Option.map_id']
    rfl
  pass := rfl

/-- An entry that is freed leaves the sweep (R28). -/
theorem Orphaned.freeEntry (s : State) (i : SlotIx) : Orphaned s (s.freeEntry i) := by
  cases he : s.schedule.entryAt i with
  | none =>
    rw [State.freeEntry_none s i he]
    exact .refl s
  | some e =>
    have hschedule : (s.freeEntry i).schedule = s.schedule.free i e.owner := by
      rw [State.freeEntry_some s i e he]
    refine ⟨s.freeEntry_entriesFreed i, ?_, ?_⟩
    · simp only [s.gone_freeEntry he, hschedule, Schedule.free_sweep, eq_comm, decide_not]
    · rw [hschedule, Schedule.free_pass]

theorem Orphaned.orphanOne (s : State) (i : SlotIx) : Orphaned s (s.orphanOne i) := by
  unfold State.orphanOne
  split
  · exact .refl s
  · split
    · exact .mapEntry s i _ (fun _ => rfl) fun _ => rfl
    · split
      · exact .mapEntry s i _ (fun _ => rfl) fun _ => rfl
      · exact .freeEntry s i

/-! ### The entries of a detaching port (R50, R182 part 5) -/

theorem Orphaned.foldl (s : State) (is : List SlotIx) : Orphaned s (is.foldl State.orphanOne s) := by
  induction is generalizing s with
  | nil => exact .refl s
  | cons i is ih => exact (Orphaned.orphanOne s i).trans (ih _)

/-- The slots after the entries of one port in some different slots have met their policies. -/
theorem foldl_orphanOne_slot {p : Port} (s : State) (is : List SlotIx) (hn : is.Nodup)
    (hown : ∀ i ∈ is, ∃ e, s.schedule.entryAt i = some e ∧ e.owner = p) (j : SlotIx) :
    (is.foldl State.orphanOne s).schedule.slots.get j =
      if j ∈ is then detachedSlot p s.schedule.pass.isSome (s.schedule.slots.get j)
      else s.schedule.slots.get j := by
  induction is generalizing s with
  | nil => rfl
  | cons i is ih =>
    obtain ⟨hi, hn⟩ := List.nodup_cons.mp hn
    obtain ⟨e, he, rfl⟩ := hown i List.mem_cons_self
    have hslot := s.orphanOne_slot he
    have hrest : ∀ k ∈ is, ∃ x, (s.orphanOne i).schedule.entryAt k = some x ∧ x.owner = e.owner := by
      intro k hk
      have hne : i ≠ k := fun c => hi (c ▸ hk)
      rw [Schedule.entryAt, hslot, if_neg hne]
      exact hown k (List.mem_cons_of_mem i hk)
    rw [List.foldl_cons, ih _ hn hrest, (Orphaned.orphanOne s i).pass, hslot]
    obtain rfl | hj := eq_or_ne i j
    · rw [if_neg hi, if_pos rfl, if_pos List.mem_cons_self]
    · simp only [if_neg hj, List.mem_cons, hj.symm, false_or]

/-- The slots after a detach (R50, R73). -/
theorem State.orphanEntries_slot (s : State) (p : Port) (j : SlotIx) :
    (s.orphanEntries p).schedule.slots.get j =
      detachedSlot p s.schedule.pass.isSome (s.schedule.slots.get j) := by
  have hown (i : SlotIx) : i ∈ s.schedule.slotsWhere (fun e => e.owner = p) ↔
      ∃ e, s.schedule.entryAt i = some e ∧ e.owner = p := by
    simp only [Schedule.mem_slotsWhere, decide_eq_true_eq]
  rw [State.orphanEntries,
    foldl_orphanOne_slot s _ (s.schedule.slotsWhere_nodup _) (fun i hi => (hown i).mp hi)]
  split
  · rfl
  · next hj =>
    exact (detachedSlot_other _ fun e he c => hj ((hown j).mpr ⟨e, he, c⟩)).symm

/-- What a detach frees are entries of its port. -/
theorem gone_eq_freedOf {s t : State} {p : Port} {inPass : Bool}
    (h : ∀ i, t.schedule.slots.get i = detachedSlot p inPass (s.schedule.slots.get i)) :
    gone s t = freedOf s t p := by
  funext i
  rw [gone, freedOf]
  cases hs : s.schedule.entryAt i with
  | none => rfl
  | some e =>
    by_cases howner : e.owner = p
    · simp [howner]
    · have hsame : t.schedule.entryAt i = some e := by
        rw [Schedule.entryAt, h, detachedSlot_other inPass]
        · exact hs
        · rintro x hx
          rwa [← Option.some.inj (hs.symm.trans hx)]
      simp [hsame]

/-- What the schedule's part of a detach leaves, with freed entries told by their owner. -/
theorem State.orphanEntries_schedule (s : State) (p : Port) :
    (s.orphanEntries p).schedule =
      { s.schedule with
        slots := (s.orphanEntries p).schedule.slots
        usage := (s.orphanEntries p).schedule.usage
        dueList := s.schedule.dueList.filter fun i => !freedOf s (s.orphanEntries p) p i
        waiting := s.schedule.waiting.map fun w => w.filter fun i => !freedOf s (s.orphanEntries p) p i
        sweep := s.schedule.sweep.map fun m => m.filter fun i => !freedOf s (s.orphanEntries p) p i } := by
  have horphaned : Orphaned s (s.orphanEntries p) := .foldl s _
  obtain ⟨hfreed, hsweep, hpass⟩ := horphaned
  have hgone := gone_eq_freedOf (s.orphanEntries_slot p)
  have hdue := hfreed.dueList
  have hwaiting := hfreed.waiting
  rw [hgone] at hsweep hdue hwaiting
  rw [← hsweep, ← hdue, ← hwaiting]
  dsimp only
  rw [← hpass, ← hfreed.quota]

/-! ### The authority unit (R125, R182 part 4) -/

/-- The lines after the authority unit's part of a detach: the forces go with the holder (R95). -/
theorem State.detachAuthority_line (s : State) (p : Port) (l : LineIx) :
    (s.detachAuthority p).lines.get l =
      { s.lines.get l with force := if s.holder = some p then none else (s.lines.get l).force } := by
  unfold State.detachAuthority
  split
  · exact s.fillVacancy_line p _ l
  · split
    · rw [State.withdraw_lines]
    · rfl

/-- What the authority unit's part of a detach tells (R116, R117). -/
def detachNews (s : State) (p q : Port) : List NoticeBody :=
  if s.holder = some p then fillNews s p .detached q
  else if s.authority.waits p then withdrawNews s p q else []

theorem State.detachAuthority_told (s : State) (p : Port) :
    Told s (s.detachAuthority p) (detachNews s p) := by
  unfold State.detachAuthority
  split
  · next h => exact (s.fillVacancy_told p _).congr fun q _ => by rw [detachNews, if_pos h]
  · next h =>
    split
    · next hw => exact (s.withdraw_told p).congr fun q _ => by rw [detachNews, if_neg h, if_pos hw]
    · next hw => exact (Told.none rfl).congr fun q _ => by rw [detachNews, if_neg h, if_neg hw]

/-! ### The reader sets (R142, R182 part 3) -/

/-- The capture unit after a detach: the port has left every reader set and subscribes to nothing. -/
theorem Capture.detach_eq (c : Capture) (p : Port) :
    c.detach p =
      { c with
        subscriptions := c.subscriptions.set p 0
        log := c.log.filterMap fun r => if r.readers.getLsbD p then unread p r else some r } := by
  unfold Capture.detach Capture.leave
  simp only [Bool.and_true]
  rfl

/-- A record from whose reader set the port has gone is owed to the others as before. -/
theorem countP_unread {p q : Port} (hq : q ≠ p) (r : CaptureRecord) :
    (unread p r).toList.countP (fun x => hasBit x.readers q) =
      if hasBit r.readers q then 1 else 0 := by
  have hkeeps : hasBit (dropBit r.readers p) q = hasBit r.readers q := by
    rw [hasBit_dropBit, decide_eq_true hq.symm, Bool.and_true]
  unfold unread
  split
  · next hlast =>
    have hnone : hasBit (0 : PortSet) q = false := BitVec.getLsbD_zero
    rw [← hkeeps, hlast, hnone]
    rfl
  · rw [Option.toList_some, List.countP_singleton]
    dsimp only
    rw [hkeeps]

/-- What is owed to the other ports stays (R142). -/
theorem Capture.owed_detach_ne (c : Capture) {p q : Port} (hq : q ≠ p) :
    (c.detach p).owed q = c.owed q := by
  rw [Capture.detach_eq, Capture.owed, Capture.owed, List.filterMap_eq_flatMap_toList,
    List.countP_flatMap, countP_eq_sum]
  congr 1
  refine List.map_congr_left fun r _ => ?_
  rw [Function.comp_apply]
  split
  · exact countP_unread hq r
  · rw [Option.toList_some, List.countP_singleton]

/-! ### The whole detach (R182) -/

/-- The part after the first three parts of a detach: session, queue and reader sets (R182). -/
def State.leaveSession (s : State) (p : Port) : State :=
  ((s.mapPort p fun i => { i with session := .detached }).mapQueue p NoticeQueue.detach).mapCapture
    fun c => c.detach p

theorem State.detach_eq (s : State) (p : Port) :
    s.detach p = ((s.leaveSession p).detachAuthority p).orphanEntries p := rfl

theorem State.attached_leaveSession_ne (s : State) {p q : Port} (hq : q ≠ p) :
    (s.leaveSession p).attached q = s.attached q := by
  change decide (((s.ports.upd p fun i => { i with session := .detached }).get q).session = _) = _
  rw [Table.get_upd_ne _ hq.symm]
  rfl

theorem State.attached_detach_self (s : State) (p : Port) : (s.detach p).attached p = false := by
  rw [State.attached, State.detach_ports, Table.get_upd_self]
  rfl

/-- The notice queues after a detach: empty for the port, the news of the authority unit for the others. -/
theorem State.detach_queue (s : State) (p q : Port) :
    (s.detach p).notices.get q =
      if q = p then (s.notices.get p).detach
      else if s.attached q then
        (detachNews s p q).foldl (fun k b => k.take s.timebase.now s.timebase.epoch b)
          (s.notices.get q)
      else s.notices.get q := by
  have htold := (s.leaveSession p).detachAuthority_told p q
  have htime : ((s.leaveSession p).detachAuthority p).timebase = s.timebase :=
    State.detachAuthority_timebase _ p
  rw [State.detach_eq, State.orphanEntries_notices, htold, htime]
  obtain rfl | hq := eq_or_ne q p
  · have hdetached : (s.leaveSession q).attached q = false := by
      change decide (((s.ports.upd q fun i => { i with session := .detached }).get q).session = _) = _
      rw [Table.get_upd_self]
      rfl
    rw [if_neg (ne_true_of_eq_false hdetached), if_pos rfl]
    exact Table.get_upd_self s.notices q _
  · have hqueue : (s.leaveSession p).notices.get q = s.notices.get q :=
      Table.get_upd_ne s.notices hq.symm _
    rw [s.attached_leaveSession_ne hq, hqueue, if_neg hq]
    rfl

/-- The port that detaches is neither holder nor waiter (R102, R125). -/
theorem State.detach_gone (s : State) (p : Port) (hfree : s.inFullReset = false)
    (h : AuthorityWf s) :
    (s.detach p).holder ≠ some p ∧ (s.detach p).authority.waits p = false := by
  have hwf := h.detach hfree p
  have hdetached := ne_true_of_eq_false (s.attached_detach_self p)
  refine ⟨fun hholder => ?_, Bool.eq_false_iff.mpr fun hwaits => ?_⟩
  · obtain ⟨x, hx, hport⟩ := Option.map_eq_some_iff.mp hholder
    obtain ⟨hattached, _⟩ := hwf.holder x hx
    exact hdetached (hport ▸ hattached)
  · obtain ⟨w, hw, hport⟩ := (Authority.waits_iff _ _).mp hwaits
    obtain ⟨hattached, _⟩ := hwf.waiters w hw
    exact hdetached (hport ▸ hattached)

/-- What a detach does to a line: the entries freed take their references with them (R87, R89), a holder its
forces (R95). -/
theorem State.detach_line (s : State) (p : Port) (l : LineIx) :
    (s.detach p).lines.get l =
      { s.lines.get l with
        force := if s.holder = some p then none else (s.lines.get l).force
        refs := ((s.detach p).lines.get l).refs
        exclHolder := ((s.detach p).lines.get l).exclHolder } := by
  have horphaned : Orphaned ((s.leaveSession p).detachAuthority p) (s.detach p) := .foldl _ _
  have hframe := (horphaned.freed.lines l).frame
  rw [State.detachAuthority_line] at hframe
  exact hframe

theorem State.detach_force (s : State) (p : Port) (l : LineIx) :
    ((s.detach p).lines.get l).force =
      if s.holder = some p then none else (s.lines.get l).force := by
  rw [State.detach_line]

/-- Freed entries are counted from every part with the same schedule and the same references to lines. -/
theorem Uncounted.of_refs {s u t : State} (h : Uncounted u t) (hschedule : u.schedule = s.schedule)
    (hrefs : ∀ l, (u.lines.get l).refs = (s.lines.get l).refs)
    (hholder : ∀ l, (u.lines.get l).exclHolder = (s.lines.get l).exclHolder) : Uncounted s t := by
  have hsame : Uncounted { u with schedule := s.schedule } t := h.of_start hschedule rfl
  have hfreed : freedRefs s t = freedRefs { u with schedule := s.schedule } t := rfl
  exact ⟨hsame.usage, fun l q => by rw [hsame.refs, ← hrefs, hfreed],
    fun l => by rw [hsame.holders, ← hholder, ← hrefs, hfreed]⟩

/-- What a detach frees is counted no longer (R28, R33, R87, R89). -/
theorem State.detach_uncounted (s : State) (p : Port) : Uncounted s (s.detach p) := by
  have horphaned : Orphaned ((s.leaveSession p).detachAuthority p) (s.detach p) := .foldl _ _
  refine (horphaned.freed.uncounted rfl rfl (fun _ => rfl) fun _ => rfl).of_refs
    (State.detachAuthority_schedule _ p) (fun l => ?_) fun l => ?_
  · rw [State.detachAuthority_line]
    rfl
  · rw [State.detachAuthority_line]
    rfl

/-- The slots after a detach (R50, R73). -/
theorem State.detach_slot (s : State) (p : Port) (i : SlotIx) :
    (s.detach p).schedule.slots.get i =
      detachedSlot p s.schedule.pass.isSome (s.schedule.slots.get i) := by
  rw [State.detach_eq, State.orphanEntries_slot, State.detachAuthority_schedule]
  rfl

/-- The schedule after a detach: the entries freed have left every list. -/
theorem State.detach_schedule (s : State) (p : Port) :
    (s.detach p).schedule =
      { s.schedule with
        slots := (s.detach p).schedule.slots
        usage := (s.detach p).schedule.usage
        dueList := s.schedule.dueList.filter fun i => !freedOf s (s.detach p) p i
        waiting := s.schedule.waiting.map fun w => w.filter fun i => !freedOf s (s.detach p) p i
        sweep := s.schedule.sweep.map fun m => m.filter fun i => !freedOf s (s.detach p) p i } := by
  have hstart : ((s.leaveSession p).detachAuthority p).schedule = s.schedule :=
    State.detachAuthority_schedule _ p
  have hfreed : freedOf ((s.leaveSession p).detachAuthority p) = freedOf s := by
    unfold freedOf
    rw [hstart]
  have hentries := ((s.leaveSession p).detachAuthority p).orphanEntries_schedule p
  rw [hstart, hfreed] at hentries
  exact hentries

/-- What the detach of a port leaves (R182). -/
theorem State.detach_leaves (s : State) (p : Port) (hfree : s.inFullReset = false) :
    DetachLeaves s (s.detach p) p where
  queue := by
    rw [State.detach_queue, if_pos rfl]
    rfl
  capture := (s.detach_capture p).trans (s.capture.detach_eq p)
  owed := fun q hq => by rw [State.detach_capture, Capture.owed_detach_ne _ hq]
  authority := s.detach_authority p
  forces := s.detach_force p
  told := fun q hq => by
    rw [State.detach_queue, if_neg hq, State.detach_timebase]
    rfl
  gone := s.detach_gone p hfree
  slots := s.detach_slot p
  schedule := s.detach_schedule p
  uncounted := s.detach_uncounted p
  rest := ⟨s.detach_timebase p, s.detach_resetCause p, s.detach_inFullReset p, s.detach_pending p,
    s.detach_freeCount p⟩
  policies := fun l => by
    rw [State.detach_force]
    exact s.detach_line p l

/-- What a detach leaves stands whatever the ports hold after it, and whatever status bytes are noted. -/
theorem DetachLeaves.of_ports {s t : State} {p : Port} (h : DetachLeaves s t p)
    (ports : Table 3 PortIf) (before after : Table 3 (List Byte)) :
    DetachLeaves { s with trails := before } { t with ports := ports, trails := after } p where
  queue := h.queue
  capture := h.capture
  owed := h.owed
  authority := h.authority
  forces := h.forces
  told := h.told
  gone := fun hwf => h.gone ⟨hwf.holder, hwf.waiters, hwf.distinct, hwf.urgentFirst, hwf.vacant,
    hwf.demand, hwf.grace, hwf.inReset⟩
  slots := h.slots
  schedule := h.schedule
  uncounted := ⟨h.uncounted.usage, h.uncounted.refs, h.uncounted.holders⟩
  rest := h.rest
  policies := h.policies

/-! ### The port reset (R175, R187, R188) -/

/-- A port reset of an attached port is a detach that clears the interface (R175, R187). -/
theorem State.resetPort_attached {s : State} {p : Port} (hfree : s.inFullReset = false)
    (h : s.attached p = true) : s.resetPort p = (s.noted.detach p).mapPort p PortIf.clear := by
  rw [State.resetPort, if_neg (ne_true_of_eq_false hfree)]
  dsimp only
  rw [if_pos h]

/-- A port reset of a detached port clears its interface alone (R175). -/
theorem State.resetPort_detached {s : State} {p : Port} (hfree : s.inFullReset = false)
    (h : s.attached p = false) : s.resetPort p = s.noted.mapPort p PortIf.clear := by
  rw [State.resetPort, if_neg (ne_true_of_eq_false hfree)]
  dsimp only
  rw [if_neg (ne_true_of_eq_false h)]

theorem State.resetPort_trails {s : State} {p : Port} (hfree : s.inFullReset = false) :
    (s.resetPort p).trails = s.noted.trails := by
  cases h : s.attached p with
  | true => rw [State.resetPort_attached hfree h, State.mapPort_trails, State.detach_trails]
  | false => rw [State.resetPort_detached hfree h, State.mapPort_trails]

/-- The interface of a port after its reset: detached and cleared, its next ticket and its cause reported flag
as they were (R175). -/
theorem State.resetPort_ports {s : State} {p : Port} (hfree : s.inFullReset = false) :
    (s.resetPort p).ports =
      s.ports.set p
        { s.ports.get p with
          session := .detached, slot := .empty, lastResponse := none, frameFault := .none
          inReset := true } := by
  cases h : s.attached p with
  | true =>
    rw [State.resetPort_attached hfree h, State.mapPort_ports, State.detach_ports, Table.upd_upd]
    rfl
  | false =>
    have hsession : (s.ports.get p).session = .detached := by
      cases hs : (s.ports.get p).session with
      | detached => rfl
      | attached => exact absurd hs (of_decide_eq_false h)
    rw [State.resetPort_detached hfree h, State.mapPort_ports, ← hsession]
    rfl

/-- A detached port with an EMPTY slot shows A0h (R190). -/
theorem State.statusByte_idle {s : State} {p : Port} (hsession : (s.ports.get p).session = .detached)
    (hslot : (s.ports.get p).slot = .empty) : s.statusByte p = 0xA0 := by
  have hdetached : s.attached p = false := by
    rw [State.attached, hsession]
    rfl
  rw [State.statusByte, State.attn, hdetached, hslot, Bool.false_and, Bool.false_and]
  rfl

/-- Settles O15: a port reset outside a full reset, one within it, and the release. -/
theorem portResetDetachesAndClears : Obligations.PortResetDetachesAndClears := by
  unfold Obligations.PortResetDetachesAndClears
  intro p s
  refine ⟨fun hfree => ?_, fun hreset => congrArg _ (if_pos hreset), rfl⟩
  have hports := State.resetPort_ports (p := p) hfree
  have hself := congrArg (Table.get · p) hports
  rw [Table.get_set_self] at hself
  refine ⟨s.resetPort p, rfl, fun hattached => ?_, fun hdetached => ?_,
    State.resetPort_trails hfree, ?_, hports⟩
  · rw [State.resetPort_attached hfree hattached]
    exact (s.noted.detach_leaves p hfree).of_ports _ s.trails _
  · rw [State.resetPort_detached hfree hdetached]
    rfl
  · exact State.statusByte_idle (congrArg PortIf.session hself) (congrArg PortIf.slot hself)

end Sys2Proof.Machine

/-! PROOFS. ATTACH and DETACH: the session of a port opens and closes, and the answers of both (R178 to R180, R182, R183). -/

namespace Sys2Proof.Machine

/-! ### The answer to a request that changes the session (R168) -/

/-- The answer to a request whose block has changed the interface of its port as well. -/
theorem State.answer_working {t : State} {ports : Table 3 PortIf} {p : Port} {i : PortIf} {h : Held}
    (ht : t.ports = ports.set p i) (hslot : i.slot = .working h) {st : Status}
    (hst : st.carriesPayload = true) (pl : List Byte) :
    t.answer p h.ticket st pl =
      { t with
        ports :=
          ports.set p
            { i with
              slot :=
                .answered h { tag := h.tag, kind := h.kind, status := st, payload := pl } } } := by
  obtain ⟨hanswered, _⟩ := answersGoToTheirTicket p h.ticket st pl t
  have hport : t.ports.get p = i := by rw [ht, Table.get_set_self]
  rw [hanswered h (hport ▸ hslot) rfl, hport, ht, Table.set_set, if_pos hst]

/-! ### ATTACH (R178 to R180) -/

/-- The cause that an ATTACH reports, as the byte of R192 (R178). -/
theorem causeCode_causeToReport (s : State) (p : Port) :
    causeCode (s.causeToReport p) =
      if (s.ports.get p).causeReported then 0
      else match s.resetCause with | .powerOn => 1 | .pin => 2 := by
  unfold State.causeToReport
  split
  · rfl
  · cases s.resetCause <;> rfl

/-- What an ATTACH reports does not depend on the request that asks for it (R180). -/
theorem State.attachPayload_takeRequest (s : State) (p : Port) (lags : List Nat) (tag kind : Byte)
    (pl : List Byte) :
    (s.takeRequest p lags tag kind pl).attachPayload p = s.attachPayload p := by
  have hcause : (s.takeRequest p lags tag kind pl).causeToReport p = s.causeToReport p := by
    rw [State.causeToReport, State.takeRequest_asked, Table.get_set_self]
    rfl
  rw [State.attachPayload, hcause]
  rfl

/-- ATTACH of an attached port is refused (R179). -/
theorem State.attachTaken_refused {t : State} {p : Port} (h : t.attached p = true) (k : BitVec 16) :
    State.attachTaken p k t = t.refuse p k .alreadyAttached := if_pos h

/-- ATTACH of a detached port opens its session (R179). -/
theorem State.attachTaken_opened {t : State} {p : Port} (h : t.attached p = false) (k : BitVec 16) :
    State.attachTaken p k t = (t.openSession p).answer p k .ok (t.attachPayload p) :=
  if_neg (ne_true_of_eq_false h)

/-- The interface of a port that has sent a request and whose session opens. -/
theorem State.openSession_asked (s : State) (p : Port) (lags : List Nat) (tag kind : Byte)
    (pl : List Byte) :
    ((s.takeRequest p lags tag kind pl).openSession p).ports =
      s.ports.set p
        { askedPort s p lags tag kind pl.length with
          session := .attached, causeReported := true } := by
  rw [State.openSession, State.mapSchedule_ports, State.mapQueue_ports, State.mapPort_ports,
    State.takeRequest_asked, Table.upd, Table.get_set_self, Table.set_set]

/-- Settles O13: ATTACH from a detached port, and from an attached one. -/
theorem attachOpensASession : Obligations.AttachOpensASession := by
  unfold Obligations.AttachOpensASession
  intro p lags tag s hready
  have hexec : exec (.attach ⟨p, lags⟩ tag []) s =
      .next (State.attachTaken p (s.ports.get p).nextTicket (s.takeRequest p lags tag 0x10 [])) :=
    exec_takenDetached s p lags tag .attach [] hready rfl rfl (by decide)
  have hsession : (s.takeRequest p lags tag 0x10 []).attached p = s.attached p :=
    s.attached_takeRequest p p lags tag 0x10 []
  rw [hexec]
  refine ⟨fun hdetached => ?_, fun hattached => ?_⟩
  · dsimp only
    rw [State.attachTaken_opened (hsession.trans hdetached),
      State.answer_working (s.openSession_asked p lags tag 0x10 []) rfl rfl,
      State.attachPayload_takeRequest, State.attachPayload, causeCode_causeToReport]
    rfl
  · rw [State.attachTaken_refused (hsession.trans hattached), State.refuse_takeRequest]
    rfl

/-! ### DETACH (R182, R183) -/

/-- What a detach leaves is told from every part with the same blocks and the same sessions. -/
theorem DetachLeaves.of_start {s u t : State} {p : Port} (h : DetachLeaves u t p)
    (hblocks : u = { s with ports := u.ports, trails := u.trails })
    (hsession : ∀ q, u.attached q = s.attached q) : DetachLeaves s t p where
  queue := by rw [h.queue, hblocks]
  capture := by rw [h.capture, hblocks]
  owed := fun q hq => by rw [h.owed q hq, hblocks]
  authority := by rw [h.authority, hblocks]; rfl
  forces := fun l => by rw [h.forces, hblocks]; rfl
  told := fun q hq => by rw [h.told q hq, hsession, hblocks]; rfl
  gone := fun hwf => h.gone <| hwf.of_same <|
    .of_attached (by rw [hblocks]) hsession (by rw [hblocks])
  slots := fun i => by rw [h.slots, hblocks]
  schedule := by rw [hblocks] at h; exact h.schedule
  uncounted := by
    rw [hblocks] at h
    exact ⟨h.uncounted.usage, h.uncounted.refs, h.uncounted.holders⟩
  rest := by rw [hblocks] at h; exact h.rest
  policies := fun l => by rw [hblocks] at h; exact h.policies l

/-- The counts of R183, with the place in the authority unit that the port had (log 11, log 12). -/
theorem State.detachPayload_eq (s : State) (p : Port) (after : State) :
    s.detachPayload p after =
      [natByte (s.schedule.count fun e => e.owner = p && e.orphanPolicy = .continue),
       natByte (s.schedule.count fun e => e.owner = p && e.orphanPolicy = .cancel),
       boolByte s.schedule.pass.isSome,
       (if s.holder = some p then 1 else if s.authority.waits p then 2 else 0),
       (if s.holder = some p then portByte after.holder else 0xFF)] := by
  unfold State.detachPayload State.detachPlace
  by_cases hholder : s.holder = some p
  · simp only [if_pos hholder]
    rfl
  · by_cases hwaits : s.authority.waits p = true
    · simp only [if_neg hholder, if_pos hwaits]
      rfl
    · simp only [if_neg hholder, if_neg hwaits]
      rfl

/-- The interface of a port that has sent DETACH, once it is detached and its last response cleared (R177,
R182 part 1). -/
theorem State.detach_asked (s : State) (p : Port) (lags : List Nat) (tag kind : Byte)
    (pl : List Byte) :
    (((s.takeRequest p lags tag kind pl).detach p).mapPort p fun i =>
        { i with lastResponse := none }).ports =
      s.ports.set p
        { askedPort s p lags tag kind pl.length with session := .detached, lastResponse := none } := by
  rw [State.mapPort_ports, State.detach_ports, Table.upd_upd, State.takeRequest_asked, Table.upd,
    Table.get_set_self, Table.set_set]

/-- The detach that follows the taking of a request leaves what a detach of the part before
it leaves (R182). -/
theorem State.detach_leaves_takeRequest (s : State) (p : Port) (lags : List Nat) (tag kind : Byte)
    (pl : List Byte) (hfree : s.inFullReset = false) :
    DetachLeaves s ((s.takeRequest p lags tag kind pl).detach p) p :=
  ((s.takeRequest p lags tag kind pl).detach_leaves p hfree).of_start
    (s.takeRequest_frame p lags tag kind pl) fun q => s.attached_takeRequest p q lags tag kind pl

/-- Settles O14: the detach of R182 from the part that has taken the request, then the answer. -/
theorem detachClosesTheSession : Obligations.DetachClosesTheSession := by
  unfold Obligations.DetachClosesTheSession
  intro p lags tag s hready hattached
  have hexec := exec_admitted s p lags tag .detach [] hready
    ⟨hattached, fun c => absurd c (by decide)⟩ rfl
  obtain ⟨hfree, _⟩ := hready
  have hanswer := State.answer_working (s.detach_asked p lags tag 0x11 []) rfl (st := .ok) rfl
  refine ⟨_, hexec.trans (congrArg Host.Outcome.next (hanswer _)), ?_, ?_, ?_⟩
  · exact (s.detach_leaves_takeRequest p lags tag 0x11 [] hfree).of_ports _ s.trails _
  · exact State.detach_trails _ p
  · rw [State.detachPayload_eq]
    rfl

end Sys2Proof.Machine

/-! PROOFS. What a step takes from a queue that is not empty (log 1). -/

namespace Sys2Proof.Machine

/-- On a queue that is not empty a step is its first command, in the state that holds the rest. -/
theorem step_of_pending_cons (s : State) (c : Instr) (rest : List Instr)
    (hq : s.pending = c :: rest) : step s = exec c { s with pending := rest } := by
  unfold step
  rw [hq]

/-- Settles O1: with the command taken off, the queue of the state is as before it was put there. -/
theorem stepTakesTheFrontCommand : Obligations.StepTakesTheFrontCommand := by
  unfold Obligations.StepTakesTheFrontCommand
  intro c s
  exact step_of_pending_cons { s with pending := c :: s.pending } c s.pending rfl

end Sys2Proof.Machine
